-- ==== Sys2Proof/Word.lean ====
section
/-! DEFINITION. The word types of the core: bytes, 16-bit and 32-bit words, and the operation widths 8, 16 and 32
(00_scope.md R7, R14). -/

namespace Sys2Proof

/-- The smallest addressable unit (20_memory.md R102). -/
abbrev Byte := BitVec 8

/-- A 16-bit value: a segment register, IP, an offset, a port number. -/
abbrev Word := BitVec 16

/-- A 32-bit value: a general register, an immediate of a 32-bit form. -/
abbrev DWord := BitVec 32

/-- The three operation widths of the integer core (00_scope.md R14). -/
inductive Width where
  | b8
  | b16
  | b32
deriving DecidableEq, Repr

/-- The number of bits of a width. -/
abbrev Width.bits : Width → Nat
  | .b8 => 8
  | .b16 => 16
  | .b32 => 32

/-- The number of bytes of a width. -/
abbrev Width.bytes : Width → Nat
  | .b8 => 1
  | .b16 => 2
  | .b32 => 4

/-- The operand size: 32 under the prefix 66h, else 16 (30_encoding.md R144). -/
abbrev Width.ofOs (os32 : Bool) : Width := if os32 then .b32 else .b16

end Sys2Proof
end

