-- ==== Sys2Proof/Config.lean ====
section
/-! DEFINITION. What an implementation fixes: the parameters of 00_scope.md R6 that are plain data, and the free
values, constants with no body that nothing in Lean can evaluate. -/

namespace Sys2Proof

/-- P_UD: what an invalid opcode does (60_exceptions.md R722). -/
inductive UdMode where
  | halt   -- halt InvalidOpcode
  | trap   -- interrupt 6
deriving DecidableEq, Repr

/-- P_AAA: the adjustment form of AAA and AAS (41_arithmetic.md R281, R282). -/
inductive AaaMode where
  | ax
  | ah
deriving DecidableEq, Repr

/-- P_EXTINT: whether the host may inject external interrupts (60_exceptions.md R746). -/
inductive ExtInt where
  | never
  | host
deriving DecidableEq, Repr

/-- The three rounding precisions of the FPU, in bits of significand (46_fpu_model.md R508). -/
inductive Precision where
  | p24
  | p53
  | p64
deriving DecidableEq, Repr

/-- The parameters of 00_scope.md R6 that are plain data. State holds them in its field `par`; no step changes them.
`ringExtra` gives P_RING = 2^(20 + ringExtra), so that the ring is a power of two of at least 2^20. `ivt0` lists the
vectors whose P_IVT0 entry is not 0, each as segment in bits 31..16 and offset in bits 15..0. -/
structure Params where
  ringExtra : Nat
  memSize   : Nat
  ud        : UdMode
  fpuVector : Byte
  aaa       : AaaMode
  pc01      : Precision
  ivt0      : List (Byte × DWord)
  intercept : List Byte
  extInt    : ExtInt
deriving DecidableEq, Repr

/-- P_RING (20_memory.md R101). -/
abbrev Params.ring (p : Params) : Nat := 2 ^ (20 + p.ringExtra)

/-- P_IVT0[v] (60_exceptions.md R727); a vector that is not listed has the entry 0000h:0000h. -/
def Params.ivtEntry (p : Params) (v : Byte) : DWord :=
  match p.ivt0.find? (fun e => e.1 == v) with
  | some e => e.2
  | none => 0

/-- The constraint of R6: the memory buffer is no larger than the ring. -/
abbrev Params.Valid (p : Params) : Prop := p.memSize ≤ p.ring

/-- Every address of the ring is backed by memory, so that no access faults (20_memory.md R103: the defaults). -/
abbrev Params.NoHole (p : Params) : Prop := p.ring ≤ p.memSize

/-- The default parameters of R6, and for the OPEN ones the values named in notes/assumptions/5.md. -/
abbrev Params.default : Params where
  ringExtra := 0
  memSize := 2 ^ 20
  ud := .halt
  fpuVector := 0x75
  aaa := .ax
  pc01 := .p64
  ivt0 := []
  intercept := []
  extInt := .never

namespace Config

/-- The draws of 00_scope.md R13, numbered by the counter `draws` of State. An instruction that has undefined results
takes the number at the counter, and each of its undefined flags and values is a bit or a bit field of it
(notes/assumptions/7.md). -/
opaque draw : Nat → Nat

/-- P_IO: the value a read of `n` bytes at a port returns (20_memory.md R121), at the counter's value. -/
opaque ioRead : Nat → Word → Nat → Nat

/-- P_EXTINT's schedule: at a boundary, whether the host injects an external interrupt, and which vector
(60_exceptions.md R746), at the counter's value. -/
opaque injection : Nat → Option Byte

/-- Whether FRNDINT of a denormal raises DE: 47_fpu_transfer_arith.md R600 lists DE among its exceptions, 46_fpu_model.md R522 says
that it is not raised, and no ruling of the spec decides. A machine follows one of the two throughout (notes/assumptions/22.md). -/
opaque frndintDe : Bool

end Config

end Sys2Proof
end

