-- ==== Sys2Proof/Syntax.lean ====
section
/-! DEFINITION. The instructions of spec/opcode_table.json as syntax. One constructor per instruction rule; where the
table has several rows (encodings) for one instruction, the row is the value of the constructor's operand form
(notes/assumptions/14.md). -/

namespace Sys2Proof

/-- The features whose use halts the run with UnsupportedFeature (60_exceptions.md R723). `host` is a feature a host
service reports (R734), known by a code. -/
inductive Feature where
  | protectedMode
  | fsGs
  | addressSize
  | ipBeyond
  | enter32
  | host (code : Nat)
deriving DecidableEq, Repr

/-- The text naming a feature in the halt record. -/
def Feature.text : Feature → String
  | .protectedMode => "protected-mode instruction"
  | .fsGs => "FS/GS"
  | .addressSize => "address-size prefix"
  | .ipBeyond => "IP beyond FFFFh"
  | .enter32 => "ENTER with operand size 32"
  | .host _ => "host service"

/-- The four segment registers, in the order of their numbers 0 to 3 (10_state.md R45). -/
inductive SegReg where
  | es
  | cs
  | ss
  | ds
deriving DecidableEq, Repr

/-- A repeat prefix: F2h or F3h (30_encoding.md R141). -/
inductive Rep where
  | repne
  | rep
deriving DecidableEq, Repr

/-- What the prefixes of an instruction say once they are combined (30_encoding.md R143): the last segment override,
whether 66h and F0h are present, and the last repeat prefix. -/
structure Prefixes where
  seg  : Option SegReg
  os32 : Bool
  lock : Bool
  rep  : Option Rep
deriving DecidableEq, Repr

/-- No prefix. -/
abbrev Prefixes.none : Prefixes := ⟨Option.none, false, false, Option.none⟩

/-- A ModRM memory operand: the three values of mod other than 11b, and the direct address of mod 00 with rm 110
(30_encoding.md R150). In `indexed` rm is not 110. -/
inductive Mem where
  | indexed (rm : BitVec 3)
  | indexed8 (rm : BitVec 3) (disp : Byte)
  | indexed16 (rm : BitVec 3) (disp : Word)
  | direct (disp : Word)
deriving DecidableEq, Repr

/-- A ModRM r/m operand (30_encoding.md R149). -/
inductive RM where
  | reg (r : BitVec 3)
  | mem (m : Mem)
deriving DecidableEq, Repr

/-- The forms of ADD, OR, ADC, SBB, AND, SUB, XOR and CMP: the six of opcodes x0 to x5 (x8 to xD) and the four of
group 1. An immediate of kind Iz stands in 32 bits; at operand size 16 its upper half is 0. -/
inductive AluForm where
  | ebGb (rm : RM) (r : BitVec 3)
  | evGv (rm : RM) (r : BitVec 3)
  | gbEb (r : BitVec 3) (rm : RM)
  | gvEv (r : BitVec 3) (rm : RM)
  | alIb (i : Byte)
  | eaxIz (i : DWord)
  | ebIb (rm : RM) (i : Byte)
  | evIz (rm : RM) (i : DWord)
  | ebIb82 (rm : RM) (i : Byte)
  | evIbs (rm : RM) (i : Byte)
deriving DecidableEq, Repr

/-- The forms of MOV between general registers, memory and immediates (40_data_transfer.md R200). -/
inductive MovForm where
  | ebGb (rm : RM) (r : BitVec 3)
  | evGv (rm : RM) (r : BitVec 3)
  | gbEb (r : BitVec 3) (rm : RM)
  | gvEv (r : BitVec 3) (rm : RM)
  | gbIb (r : BitVec 3) (i : Byte)
  | gvIz (r : BitVec 3) (i : DWord)
  | ebIb (rm : RM) (i : Byte)
  | evIz (rm : RM) (i : DWord)
deriving DecidableEq, Repr

/-- The forms of MOV with a moffs operand, opcodes A0h to A3h (40_data_transfer.md R201). -/
inductive MoffsForm where
  | alOb (off : Word)
  | eaxOv (off : Word)
  | obAl (off : Word)
  | ovEax (off : Word)
deriving DecidableEq, Repr

/-- The forms of XCHG (40_data_transfer.md R204); in `eaxGv` the register is not number 0. -/
inductive XchgForm where
  | ebGb (rm : RM) (r : BitVec 3)
  | evGv (rm : RM) (r : BitVec 3)
  | eaxGv (r : BitVec 3)
deriving DecidableEq, Repr

/-- The operand of PUSH and POP: a register named by the opcode, or a ModRM operand. -/
inductive StackForm where
  | reg (r : BitVec 3)
  | rm (rm : RM)
deriving DecidableEq, Repr

/-- An immediate of operand size, or a byte that is sign-extended to it. -/
inductive ImmForm where
  | iz (i : DWord)
  | ibs (i : Byte)
deriving DecidableEq, Repr

/-- The forms of INC and DEC. -/
inductive IncForm where
  | eb (rm : RM)
  | ev (rm : RM)
  | reg (r : BitVec 3)
deriving DecidableEq, Repr

/-- A ModRM operand of byte width or of operand size. -/
inductive EForm where
  | eb (rm : RM)
  | ev (rm : RM)
deriving DecidableEq, Repr

/-- The forms of TEST (42_logic_shift_bit.md R324). -/
inductive TestForm where
  | ebGb (rm : RM) (r : BitVec 3)
  | evGv (rm : RM) (r : BitVec 3)
  | alIb (i : Byte)
  | eaxIz (i : DWord)
  | ebIb (rm : RM) (i : Byte)
  | evIz (rm : RM) (i : DWord)
deriving DecidableEq, Repr

/-- The count of a shift or rotate: 1, CL or an immediate byte (42_logic_shift_bit.md R325). -/
inductive ShiftCount where
  | one
  | cl
  | imm (i : Byte)
deriving DecidableEq, Repr

/-- The count of SHLD and SHRD. -/
inductive DblCount where
  | imm (i : Byte)
  | cl
deriving DecidableEq, Repr

/-- The bit index of BT, BTS, BTR and BTC: a register or an immediate byte. -/
inductive BitIndex where
  | reg (r : BitVec 3)
  | imm (i : Byte)
deriving DecidableEq, Repr

/-- The port of IN and OUT: an immediate byte or DX. -/
inductive Port where
  | imm (i : Byte)
  | dx
deriving DecidableEq, Repr

/-- A relative target: a byte, or a displacement of operand size. -/
inductive Rel where
  | jb (d : Byte)
  | jz (d : DWord)
deriving DecidableEq, Repr

/-- The operands of FADD, FSUB, FSUBR, FMUL, FDIV and FDIVR: a memory operand of 32 or 64 bits, ST with ST(i), or ST(i)
with ST (30_encoding.md R161). -/
inductive FArith where
  | m32 (m : Mem)
  | m64 (m : Mem)
  | st0 (i : BitVec 3)
  | sti (i : BitVec 3)
deriving DecidableEq, Repr

/-- The operand of FLD. -/
inductive FLoad where
  | m32 (m : Mem)
  | m64 (m : Mem)
  | m80 (m : Mem)
  | st (i : BitVec 3)
deriving DecidableEq, Repr

/-- The operand of FST. -/
inductive FStore where
  | m32 (m : Mem)
  | m64 (m : Mem)
  | st (i : BitVec 3)
deriving DecidableEq, Repr

/-- The operand of FSTP. -/
inductive FStoreP where
  | m32 (m : Mem)
  | m64 (m : Mem)
  | m80 (m : Mem)
  | st (i : BitVec 3)
deriving DecidableEq, Repr

/-- The operand of FCOM and FCOMP. -/
inductive FCmp where
  | m32 (m : Mem)
  | m64 (m : Mem)
  | st (i : BitVec 3)
deriving DecidableEq, Repr

/-- A memory integer of 16 or 32 bits. -/
inductive FInt where
  | m16 (m : Mem)
  | m32 (m : Mem)
deriving DecidableEq, Repr

/-- A memory integer of 16, 32 or 64 bits. -/
inductive FInt3 where
  | m16 (m : Mem)
  | m32 (m : Mem)
  | m64 (m : Mem)
deriving DecidableEq, Repr

/-- The destination of FNSTSW: a memory word or AX. -/
inductive FSwDst where
  | m16 (m : Mem)
  | ax
deriving DecidableEq, Repr

/-- The instructions of spec/opcode_table.json, in the order of the spec's families (40 to 48). Every constructor
carries the combined prefixes first. -/
inductive Instr where
  -- 40_data_transfer.md
  | mov (p : Prefixes) (f : MovForm)
  | movMoffs (p : Prefixes) (f : MoffsForm)
  | movFromSeg (p : Prefixes) (rm : RM) (sr : SegReg)
  | movToSeg (p : Prefixes) (sr : SegReg) (rm : RM)
  | xchg (p : Prefixes) (f : XchgForm)
  | push (p : Prefixes) (f : StackForm)
  | pushImm (p : Prefixes) (f : ImmForm)
  | pushSeg (p : Prefixes) (sr : SegReg)
  | pushFs (p : Prefixes)
  | pushGs (p : Prefixes)
  | pop (p : Prefixes) (f : StackForm)
  | popSeg (p : Prefixes) (sr : SegReg)
  | popFs (p : Prefixes)
  | popGs (p : Prefixes)
  | pusha (p : Prefixes)
  | popa (p : Prefixes)
  | pushf (p : Prefixes)
  | popf (p : Prefixes)
  | lds (p : Prefixes) (r : BitVec 3) (m : Mem)
  | les (p : Prefixes) (r : BitVec 3) (m : Mem)
  | lss (p : Prefixes) (r : BitVec 3) (m : Mem)
  | lfs (p : Prefixes)
  | lgs (p : Prefixes)
  | lea (p : Prefixes) (r : BitVec 3) (m : Mem)
  | xlat (p : Prefixes)
  | lahf (p : Prefixes)
  | sahf (p : Prefixes)
  | cbw (p : Prefixes)
  | cwd (p : Prefixes)
  | movzx (p : Prefixes) (r : BitVec 3) (wide : Bool) (rm : RM)
  | movsx (p : Prefixes) (r : BitVec 3) (wide : Bool) (rm : RM)
  | inPort (p : Prefixes) (wide : Bool) (src : Port)
  | outPort (p : Prefixes) (wide : Bool) (dst : Port)
  -- 41_arithmetic.md
  | add (p : Prefixes) (f : AluForm)
  | adc (p : Prefixes) (f : AluForm)
  | sub (p : Prefixes) (f : AluForm)
  | sbb (p : Prefixes) (f : AluForm)
  | cmp (p : Prefixes) (f : AluForm)
  | inc (p : Prefixes) (f : IncForm)
  | dec (p : Prefixes) (f : IncForm)
  | neg (p : Prefixes) (f : EForm)
  | mul (p : Prefixes) (f : EForm)
  | imul1 (p : Prefixes) (f : EForm)
  | imul2 (p : Prefixes) (r : BitVec 3) (rm : RM)
  | imul3 (p : Prefixes) (r : BitVec 3) (rm : RM) (i : ImmForm)
  | div (p : Prefixes) (f : EForm)
  | idiv (p : Prefixes) (f : EForm)
  | daa (p : Prefixes)
  | das (p : Prefixes)
  | aaa (p : Prefixes)
  | aas (p : Prefixes)
  | aam (p : Prefixes) (i : Byte)
  | aad (p : Prefixes) (i : Byte)
  -- 42_logic_shift_bit.md
  | and (p : Prefixes) (f : AluForm)
  | or (p : Prefixes) (f : AluForm)
  | xor (p : Prefixes) (f : AluForm)
  | not (p : Prefixes) (f : EForm)
  | test (p : Prefixes) (f : TestForm)
  | rol (p : Prefixes) (f : EForm) (n : ShiftCount)
  | ror (p : Prefixes) (f : EForm) (n : ShiftCount)
  | rcl (p : Prefixes) (f : EForm) (n : ShiftCount)
  | rcr (p : Prefixes) (f : EForm) (n : ShiftCount)
  | shl (p : Prefixes) (f : EForm) (n : ShiftCount)
  | shr (p : Prefixes) (f : EForm) (n : ShiftCount)
  | sar (p : Prefixes) (f : EForm) (n : ShiftCount)
  | shld (p : Prefixes) (rm : RM) (r : BitVec 3) (n : DblCount)
  | shrd (p : Prefixes) (rm : RM) (r : BitVec 3) (n : DblCount)
  | bt (p : Prefixes) (rm : RM) (i : BitIndex)
  | bts (p : Prefixes) (rm : RM) (i : BitIndex)
  | btr (p : Prefixes) (rm : RM) (i : BitIndex)
  | btc (p : Prefixes) (rm : RM) (i : BitIndex)
  | bsf (p : Prefixes) (r : BitVec 3) (rm : RM)
  | bsr (p : Prefixes) (r : BitVec 3) (rm : RM)
  | setcc (p : Prefixes) (cc : BitVec 4) (rm : RM)
  -- 43_string.md
  | movsb (p : Prefixes)
  | movsw (p : Prefixes)
  | cmpsb (p : Prefixes)
  | cmpsw (p : Prefixes)
  | scasb (p : Prefixes)
  | scasw (p : Prefixes)
  | lodsb (p : Prefixes)
  | lodsw (p : Prefixes)
  | stosb (p : Prefixes)
  | stosw (p : Prefixes)
  | insb (p : Prefixes)
  | insw (p : Prefixes)
  | outsb (p : Prefixes)
  | outsw (p : Prefixes)
  -- 44_control_transfer.md
  | jmpRel (p : Prefixes) (t : Rel)
  | jmpInd (p : Prefixes) (rm : RM)
  | jmpFar (p : Prefixes) (off : DWord) (seg : Word)
  | jmpFarInd (p : Prefixes) (m : Mem)
  | jccShort (p : Prefixes) (cc : BitVec 4) (d : Byte)
  | jccNear (p : Prefixes) (cc : BitVec 4) (d : DWord)
  | jcxz (p : Prefixes) (d : Byte)
  | loop (p : Prefixes) (d : Byte)
  | loope (p : Prefixes) (d : Byte)
  | loopne (p : Prefixes) (d : Byte)
  | callRel (p : Prefixes) (d : DWord)
  | callInd (p : Prefixes) (rm : RM)
  | callFar (p : Prefixes) (off : DWord) (seg : Word)
  | callFarInd (p : Prefixes) (m : Mem)
  | ret (p : Prefixes) (n : Option Word)
  | retf (p : Prefixes) (n : Option Word)
  | int (p : Prefixes) (v : Byte)
  | int3 (p : Prefixes)
  | into (p : Prefixes)
  | iret (p : Prefixes)
  | enter (p : Prefixes) (size : Word) (level : Byte)
  | leave (p : Prefixes)
  | bound (p : Prefixes) (r : BitVec 3) (m : Mem)
  -- 45_processor_control.md
  | clc (p : Prefixes)
  | stc (p : Prefixes)
  | cmc (p : Prefixes)
  | cld (p : Prefixes)
  | std (p : Prefixes)
  | cli (p : Prefixes)
  | sti (p : Prefixes)
  | nop (p : Prefixes)
  | hlt (p : Prefixes)
  | wait (p : Prefixes)
  | arpl (p : Prefixes)
  | system (p : Prefixes) (op2 : Byte)
  -- 47_fpu_transfer_arith.md
  | fld (p : Prefixes) (f : FLoad)
  | fild (p : Prefixes) (f : FInt3)
  | fbld (p : Prefixes) (m : Mem)
  | fst (p : Prefixes) (f : FStore)
  | fstp (p : Prefixes) (f : FStoreP)
  | fist (p : Prefixes) (f : FInt)
  | fistp (p : Prefixes) (f : FInt3)
  | fbstp (p : Prefixes) (m : Mem)
  | fxch (p : Prefixes) (i : BitVec 3)
  | fadd (p : Prefixes) (f : FArith)
  | faddp (p : Prefixes) (i : BitVec 3)
  | fiadd (p : Prefixes) (f : FInt)
  | fsub (p : Prefixes) (f : FArith)
  | fsubp (p : Prefixes) (i : BitVec 3)
  | fisub (p : Prefixes) (f : FInt)
  | fsubr (p : Prefixes) (f : FArith)
  | fsubrp (p : Prefixes) (i : BitVec 3)
  | fisubr (p : Prefixes) (f : FInt)
  | fmul (p : Prefixes) (f : FArith)
  | fmulp (p : Prefixes) (i : BitVec 3)
  | fimul (p : Prefixes) (f : FInt)
  | fdiv (p : Prefixes) (f : FArith)
  | fdivp (p : Prefixes) (i : BitVec 3)
  | fidiv (p : Prefixes) (f : FInt)
  | fdivr (p : Prefixes) (f : FArith)
  | fdivrp (p : Prefixes) (i : BitVec 3)
  | fidivr (p : Prefixes) (f : FInt)
  | fsqrt (p : Prefixes)
  | fabs (p : Prefixes)
  | fchs (p : Prefixes)
  | frndint (p : Prefixes)
  | fscale (p : Prefixes)
  | fxtract (p : Prefixes)
  | fprem (p : Prefixes)
  | fprem1 (p : Prefixes)
  -- 48_fpu_compare_trans_control.md
  | fcom (p : Prefixes) (f : FCmp)
  | fcomp (p : Prefixes) (f : FCmp)
  | fcompp (p : Prefixes)
  | fucom (p : Prefixes) (i : BitVec 3)
  | fucomp (p : Prefixes) (i : BitVec 3)
  | fucompp (p : Prefixes)
  | ficom (p : Prefixes) (f : FInt)
  | ficomp (p : Prefixes) (f : FInt)
  | ftst (p : Prefixes)
  | fxam (p : Prefixes)
  | f2xm1 (p : Prefixes)
  | fyl2x (p : Prefixes)
  | fyl2xp1 (p : Prefixes)
  | fptan (p : Prefixes)
  | fpatan (p : Prefixes)
  | fsin (p : Prefixes)
  | fcos (p : Prefixes)
  | fsincos (p : Prefixes)
  | fld1 (p : Prefixes)
  | fldl2t (p : Prefixes)
  | fldl2e (p : Prefixes)
  | fldpi (p : Prefixes)
  | fldlg2 (p : Prefixes)
  | fldln2 (p : Prefixes)
  | fldz (p : Prefixes)
  | fldcw (p : Prefixes) (m : Mem)
  | fnstcw (p : Prefixes) (m : Mem)
  | fnstsw (p : Prefixes) (d : FSwDst)
  | fnclex (p : Prefixes)
  | fninit (p : Prefixes)
  | fldenv (p : Prefixes) (m : Mem)
  | fnstenv (p : Prefixes) (m : Mem)
  | frstor (p : Prefixes) (m : Mem)
  | fnsave (p : Prefixes) (m : Mem)
  | fincstp (p : Prefixes)
  | fdecstp (p : Prefixes)
  | ffree (p : Prefixes) (i : BitVec 3)
  | fnop (p : Prefixes)
  | feni (p : Prefixes)
  | fdisi (p : Prefixes)
  | fsetpm (p : Prefixes)
deriving DecidableEq, Repr

end Sys2Proof
end

