-- ==== Sys2Proof/Machine/State.lean ====
section
/-! DEFINITION. The state of the core (10_state.md), the reasons a run halts, and the state right after launch (70_reset_and_hazards.md). -/

namespace Sys2Proof.Machine

/-- The flags that FLAGS stores (10_state.md R48); its other bits are fixed. `ifl` is IF and `ofl` is OF. -/
structure Flags where
  cf  : Bool
  pf  : Bool
  af  : Bool
  zf  : Bool
  sf  : Bool
  tf  : Bool
  ifl : Bool
  df  : Bool
  ofl : Bool
deriving DecidableEq, Repr

/-- The fields of the FPU status word SW, from bit 0 up (10_state.md R66); every bit of the word is one of them. -/
structure FpuStatus where
  ie  : Bool
  de  : Bool
  ze  : Bool
  oe  : Bool
  ue  : Bool
  pe  : Bool
  sf  : Bool
  es  : Bool
  c0  : Bool
  c1  : Bool
  c2  : Bool
  top : BitVec 3
  c3  : Bool
  b   : Bool
deriving DecidableEq, Repr

/-- The FPU (10_state.md R63 to R70): the physical registers R0 to R7, bit k of `empty` for R[k], the fields of the status
word, the control word, and the instruction and operand pointers. -/
structure Fpu where
  regs   : Vector (BitVec 80) 8
  empty  : BitVec 8
  status : FpuStatus
  cw     : BitVec 16
  fip    : BitVec 32
  fdp    : BitVec 32
  fop    : BitVec 11
deriving DecidableEq, Repr

/-- Why a run is Faulted, with the info of the halt record (60_exceptions.md R723). -/
inductive HaltReason where
  | invalidOpcode (bytes : List Byte)
  | addressFault (a : Nat)
  | unhandledInterrupt (v : Byte)
  | unsupportedFeature (f : Feature)
deriving DecidableEq, Repr

/-- The run state (10_state.md R73). `faulted` holds the reason, and CS and start_ip of the instruction that halted. -/
inductive RunState where
  | running
  | halted
  | terminated (code : Byte)
  | faulted (reason : HaltReason) (cs ip : Word)
deriving DecidableEq, Repr

/-- The reasons a host service may give for a halt (60_exceptions.md R734). -/
inductive HostHalt where
  | unsupported (code : Nat)
  | addressFault (a : Nat)
deriving DecidableEq, Repr

/-- The outcomes of a host service (60_exceptions.md R731). -/
inductive HostOutcome where
  | cont
  | terminate (code : Byte)
  | halt (r : HostHalt)
  | unknown
deriving DecidableEq, Repr, Inhabited

/-- A record of the host event log (10_state.md R77). `note` is a record a host service writes of its own. -/
inductive HostEvent where
  | ioRead (port : Word) (n v : Nat)
  | ioWrite (port : Word) (n v : Nat)
  | service (v : Byte) (outcome : HostOutcome)
  | note (n : Nat)
deriving DecidableEq, Repr

/-- The per-instruction names of 00_scope.md R14, set at the start of each step: CS and the offset of the instruction's
first byte, the offset after it, and whether it has dispatched an interrupt (60_exceptions.md R740). -/
structure StepCtx where
  startCs    : Word
  startIp    : Word
  nextIp     : Word
  dispatched : Bool
deriving DecidableEq, Repr

/-- The state of the machine. `gpr` holds EAX, ECX, EDX, EBX, ESP, EBP, ESI, EDI by number (10_state.md R41). `mem` lists
the bytes of memory that are not 00h by rising linear address. The fields `par`, `draws` and `ctx` are the model's own: the
parameters of R6, the counter of the free values of R13, and the names of R14. -/
structure State where
  gpr    : Vector (BitVec 32) 8
  es     : BitVec 16
  cs     : BitVec 16
  ss     : BitVec 16
  ds     : BitVec 16
  ip     : BitVec 16
  flags  : Flags
  fpu    : Fpu
  shadow : Bool
  run    : RunState
  mem    : List Host.Cell
  events : List HostEvent
  par    : Params
  draws  : Nat
  ctx    : StepCtx
deriving DecidableEq, Repr

/-- Why a step is not enabled (10_state.md R73, R75, 70_reset_and_hazards.md R787). Each is raised by `step` alone, and each is
safe: the hardware has no step there either. -/
inductive Fault where
  /-- The run has ended normally. Raised by `step` in run state Terminated. Safe. -/
  | terminated (code : Byte)
  /-- The run has halted with a reason. Raised by `step` in run state Faulted. Safe. -/
  | faulted (reason : HaltReason) (cs ip : Word)
  /-- HLT has stopped the core and P_EXTINT = never lets nothing wake it. Raised by `step` in run state Halted. Safe. -/
  | haltedForever
deriving DecidableEq, Repr

/-- Why an instruction is refused. -/
inductive Refusal where
  /-- The instruction has no meaning in the model yet. Raised by an arm of `exec`. Safe: the model stops. -/
  | notModelled (mnemonic : String)
deriving DecidableEq, Repr

/-- SW = 0000h. -/
def FpuStatus.clear : FpuStatus where
  ie := false
  de := false
  ze := false
  oe := false
  ue := false
  pe := false
  sf := false
  es := false
  c0 := false
  c1 := false
  c2 := false
  top := 0
  c3 := false
  b := false

/-- The FPU right after launch: the state FNINIT leaves, with zeros in R0 to R7 (70_reset_and_hazards.md R784,
notes/assumptions/3.md). -/
def Fpu.reset : Fpu where
  regs := Vector.replicate 8 0
  empty := 0xFF
  status := FpuStatus.clear
  cw := 0x037F
  fip := 0
  fdp := 0
  fop := 0

/-- FLAGS right after launch: interrupts enabled, every other flag clear (notes/assumptions/2.md). -/
def Flags.reset : Flags where
  cf := false
  pf := false
  af := false
  zf := false
  sf := false
  tf := false
  ifl := true
  df := false
  ofl := false

/-- The machine right after launch (10_state.md R80). What the spec leaves to the loader stands at the values of
notes/assumptions/1.md to 5.md. -/
def State.reset : State where
  gpr := Vector.set (Vector.replicate 8 0) 4 0xFFFE
  es := 0x1000
  cs := 0x1000
  ss := 0x1000
  ds := 0x1000
  ip := 0x0100
  flags := Flags.reset
  fpu := Fpu.reset
  shadow := false
  run := .running
  mem := []
  events := []
  par := Params.default
  draws := 0
  ctx := { startCs := 0x1000, startIp := 0x0100, nextIp := 0x0100, dispatched := false }

end Sys2Proof.Machine
end

