-- ==== Sys2Proof/Machine/Ops.lean ====
section
/-! DEFINITION. The named operations over registers, memory, the stack, the I/O space and the free values, and taking an
interrupt: the one dispatcher every exception goes through (60_exceptions.md R725). An operation that can end the
instruction answers `Except State _`: the error is the state the instruction ends in. -/

namespace Sys2Proof.Machine

/-- A piece of an instruction: it goes on with a value, or ends the instruction in a state. -/
abbrev Exec (α : Type) := Except State α

/-- The state an instruction ends in, whether it ran to its end or ended early. -/
def Exec.final : Exec State → State
  | .ok s => s
  | .error s => s

/-- An instruction's outcome: always a next state, since a halt is a run state (10_state.md R78). -/
def finish (r : Exec State) : Host.Outcome State Fault Refusal := .next r.final

/-! ### Halts (10_state.md R78) -/

/-- `halt Reason(info)`: the run becomes Faulted with CS and start_ip of the instruction; everything else stays. -/
def State.halt (s : State) (r : HaltReason) : State :=
  { s with run := .faulted r s.ctx.startCs s.ctx.startIp }

/-- The instruction halts the run. -/
def haltWith {α : Type} (s : State) (r : HaltReason) : Exec α := .error (s.halt r)

/-! ### General registers (10_state.md R40 to R43) -/

/-- `x32[i]`. -/
def State.r32 (s : State) (i : BitVec 3) : DWord := s.gpr[i.toNat]'i.isLt

/-- `x32[i] <- v`. -/
def State.setR32 (s : State) (i : BitVec 3) (v : DWord) : State := { s with gpr := s.gpr.set i.toNat v i.isLt }

/-- `x16[i]`, bits 15:0 of the register. -/
def State.r16 (s : State) (i : BitVec 3) : Word := (s.r32 i).extractLsb' 0 16

/-- `x16[i] <- v`; bits 31:16 stay. -/
def State.setR16 (s : State) (i : BitVec 3) (v : Word) : State :=
  s.setR32 i ((s.r32 i).extractLsb' 16 16 ++ v)

/-- `x8[i]`: bits 7:0 of register i for i < 4, bits 15:8 of register i - 4 above (R42). -/
def State.r8 (s : State) (i : BitVec 3) : Byte :=
  if i.toNat < 4 then (s.r32 i).extractLsb' 0 8 else (s.r32 (i - 4)).extractLsb' 8 8

/-- `x8[i] <- v`; the other 24 bits stay (R43). -/
def State.setR8 (s : State) (i : BitVec 3) (v : Byte) : State :=
  if i.toNat < 4 then s.setR32 i ((s.r32 i).extractLsb' 8 24 ++ v)
  else s.setR32 (i - 4) ((s.r32 (i - 4)).extractLsb' 16 16 ++ v ++ (s.r32 (i - 4)).extractLsb' 0 8)

/-- `xw[i]` at width w. -/
def State.reg (s : State) (w : Width) (i : BitVec 3) : BitVec w.bits :=
  match w with
  | .b8 => s.r8 i
  | .b16 => s.r16 i
  | .b32 => s.r32 i

/-- `xw[i] <- v` at width w. -/
def State.setReg (s : State) (w : Width) (i : BitVec 3) (v : BitVec w.bits) : State :=
  match w with
  | .b8 => s.setR8 i v
  | .b16 => s.setR16 i v
  | .b32 => s.setR32 i v

/-! Register numbers (R41); AL, CL, DL and AH are 8-bit numbers (R42). -/

abbrev rAX : BitVec 3 := 0
abbrev rCX : BitVec 3 := 1
abbrev rDX : BitVec 3 := 2
abbrev rBX : BitVec 3 := 3
abbrev rSP : BitVec 3 := 4
abbrev rBP : BitVec 3 := 5
abbrev rSI : BitVec 3 := 6
abbrev rDI : BitVec 3 := 7
abbrev rAL : BitVec 3 := 0
abbrev rCL : BitVec 3 := 1
abbrev rAH : BitVec 3 := 4

/-! ### Segment registers (10_state.md R45) -/

def State.sreg (s : State) : SegReg → Word
  | .es => s.es
  | .cs => s.cs
  | .ss => s.ss
  | .ds => s.ds

def State.setSreg (s : State) (r : SegReg) (v : Word) : State :=
  match r with
  | .es => { s with es := v }
  | .cs => { s with cs := v }
  | .ss => { s with ss := v }
  | .ds => { s with ds := v }

/-! ### FLAGS (10_state.md R49, R50) -/

/-- The 16-bit image of FLAGS: bit 1 is 1, bits 3, 5 and 12 to 15 are 0. -/
def Flags.image (f : Flags) : Word :=
  0#4 ++ BitVec.ofBool f.ofl ++ BitVec.ofBool f.df ++ BitVec.ofBool f.ifl ++ BitVec.ofBool f.tf ++ BitVec.ofBool f.sf ++
    BitVec.ofBool f.zf ++ 0#1 ++ BitVec.ofBool f.af ++ 0#1 ++ BitVec.ofBool f.pf ++ 1#1 ++ BitVec.ofBool f.cf

/-- FLAGS after a write of a 16-bit value. -/
def Flags.ofImage (v : Word) : Flags where
  cf := v.getLsbD 0
  pf := v.getLsbD 2
  af := v.getLsbD 4
  zf := v.getLsbD 6
  sf := v.getLsbD 7
  tf := v.getLsbD 8
  ifl := v.getLsbD 9
  df := v.getLsbD 10
  ofl := v.getLsbD 11

/-- The same state with other flags. -/
def State.setFlags (s : State) (f : Flags) : State := { s with flags := f }

/-! ### Memory (20_memory.md R100 to R109) -/

/-- The byte at an address: 00h where nothing is listed (notes/assumptions/4.md). -/
def Memory.get (m : List Host.Cell) (a : Nat) : Byte :=
  match m.find? (fun c => c.1 == a) with
  | some c => c.2
  | none => 0

/-- Put a cell before the first one of a higher address. -/
def Memory.insert (a : Nat) (b : Byte) : List Host.Cell → List Host.Cell
  | [] => [(a, b)]
  | c :: rest => if a < c.1 then (a, b) :: c :: rest else c :: Memory.insert a b rest

/-- Write a byte, keeping the canonical form: writing 00h removes the address. -/
def Memory.set (m : List Host.Cell) (a : Nat) (b : Byte) : List Host.Cell :=
  if b = 0 then m.filter (fun c => c.1 != a) else Memory.insert a b (m.filter (fun c => c.1 != a))

/-- The canonical form: addresses rise strictly and no listed byte is 00h. -/
abbrev Memory.wf (m : List Host.Cell) : Prop := m.Pairwise (fun c d => c.1 < d.1) ∧ ∀ c ∈ m, c.2 ≠ 0

/-- `mem[a]` (R102). -/
def State.peek (s : State) (a : Nat) : Byte := Memory.get s.mem a

/-- `mem[a] <- b`. -/
def State.poke (s : State) (a : Nat) (b : Byte) : State := { s with mem := Memory.set s.mem a b }

/-- `lin(seg, off)` (R100). -/
def State.lin (s : State) (seg off : Word) : Nat := (seg.toNat * 16 + off.toNat) % s.par.ring

/-- `LinRead(a, n)` as a number: bytes at (a + i) mod P_RING in ascending i, the first byte lowest; a byte at or above
P_MEMSIZE halts (R103 to R106). -/
def State.linRead (s : State) : Nat → Nat → Exec Nat
  | _, 0 => .ok 0
  | a, n + 1 =>
    if a % s.par.ring < s.par.memSize then do
      let hi ← s.linRead (a + 1) n
      .ok ((s.peek (a % s.par.ring)).toNat + 256 * hi)
    else haltWith s (.addressFault (a % s.par.ring))

/-- `LinWrite(a, n, v)`: the bytes before one that halts stay written (R104, R107). -/
def State.linWrite (s : State) : Nat → Nat → Nat → Exec State
  | _, 0, _ => .ok s
  | a, n + 1, v =>
    if a % s.par.ring < s.par.memSize then
      (s.poke (a % s.par.ring) (BitVec.ofNat 8 v)).linWrite (a + 1) n (v / 256)
    else haltWith s (.addressFault (a % s.par.ring))

/-- `MemRead(seg, off, n)` as a number (R106). -/
def State.memRead (s : State) (seg off : Word) (n : Nat) : Exec Nat := s.linRead (s.lin seg off) n

/-- `MemWrite(seg, off, n, v)` (R107). -/
def State.memWrite (s : State) (seg off : Word) (n v : Nat) : Exec State := s.linWrite (s.lin seg off) n v

/-! ### The stack (20_memory.md R113, R114) -/

/-- `Push(n, v)`: only SP changes, before the write. -/
def State.push (s : State) (n v : Nat) : Exec State :=
  let sp := s.r16 rSP - BitVec.ofNat 16 n
  (s.setR16 rSP sp).memWrite s.ss sp n v

/-- `Pop(n)`: the value, and the state with SP moved. -/
def State.pop (s : State) (n : Nat) : Exec (Nat × State) := do
  let v ← s.memRead s.ss (s.r16 rSP) n
  .ok (v, s.setR16 rSP (s.r16 rSP + BitVec.ofNat 16 n))

/-! ### Free values (00_scope.md R13, notes/assumptions/7.md) -/

/-- The instruction's draw. -/
def State.drawn (s : State) : Nat := Config.draw s.draws

/-- The state once the instruction has taken its draw. -/
def State.useDraw (s : State) : State := { s with draws := s.draws + 1 }

/-! ### The I/O space (20_memory.md R118 to R122) -/

/-- `IORead(p, n)`: a value of the oracle, recorded in the event log. -/
def State.ioRead (s : State) (port : Word) (n : Nat) : Nat × State :=
  let v := Config.ioRead s.draws port n % 2 ^ (8 * n)
  (v, { s.useDraw with events := s.events ++ [.ioRead port n v] })

/-- `IOWrite(p, n, v)`: recorded in the event log. -/
def State.ioWrite (s : State) (port : Word) (n v : Nat) : State :=
  { s with events := s.events ++ [.ioWrite port n v] }

/-! ### Host services (60_exceptions.md R730 to R735) -/

/-- What a host service answers: its outcome and the state it may touch (R731). `writes` are its memory writes in order;
`notes` are the records it adds to the event log. -/
structure HostReply where
  outcome : HostOutcome
  eax     : DWord
  ecx     : DWord
  edx     : DWord
  ebx     : DWord
  ebp     : DWord
  esi     : DWord
  edi     : DWord
  ds      : Word
  es      : Word
  cf      : Bool
  pf      : Bool
  af      : Bool
  zf      : Bool
  sf      : Bool
  ofl     : Bool
  writes  : List (Nat × Byte)
  notes   : List Nat
deriving DecidableEq, Repr, Inhabited

end Sys2Proof.Machine

namespace Sys2Proof.Config

/-- P_HOST: what the host answers to a request with the vector, the selector AH and the whole state
(60_exceptions.md R731, notes/assumptions/9.md). -/
opaque hostService : Byte → Byte → Machine.State → Machine.HostReply

end Sys2Proof.Config

namespace Sys2Proof.Machine

/-- Why the run halts when a host service reports a halt (R734). -/
def HostHalt.reason : HostHalt → HaltReason
  | .unsupported c => .unsupportedFeature (.host c)
  | .addressFault a => .addressFault a

/-- The memory writes of a host service; there is no byte at or above P_MEMSIZE. -/
def State.hostWrites (s : State) : List (Nat × Byte) → State
  | [] => s
  | (a, b) :: rest => (if a < s.par.memSize then s.poke a b else s).hostWrites rest

/-- The updates of a host service to what it may touch (R731): CS, IP, SS, ESP, TF, IF, DF and the FPU stay. -/
def State.applyReply (s : State) (r : HostReply) : State :=
  let s := s.hostWrites r.writes
  let s := (((((((s.setR32 rAX r.eax).setR32 rCX r.ecx).setR32 rDX r.edx).setR32 rBX r.ebx).setR32 rBP r.ebp).setR32
    rSI r.esi).setR32 rDI r.edi)
  { s with
    ds := r.ds
    es := r.es
    flags := { s.flags with cf := r.cf, pf := r.pf, af := r.af, zf := r.zf, sf := r.sf, ofl := r.ofl }
    events := s.events ++ r.notes.map .note }

/-- A record added to the event log. -/
def State.log (s : State) (e : HostEvent) : State := { s with events := s.events ++ [e] }

/-- The end of a host service that goes on: the equivalent of an immediate return (R732). -/
def State.resumeAt (s : State) (ret : Word) : State := { s with ip := ret, shadow := false }

/-- `HostService(v, ret)`: the service's outcome (R732 to R735). -/
def State.hostService (s : State) (v : Byte) (ret : Word) : State :=
  let r := Config.hostService v (s.r8 rAH) s
  match r.outcome with
  | .cont => ((s.applyReply r).log (.service v .cont)).resumeAt ret
  | .terminate c => { (s.applyReply r).log (.service v (.terminate c)) with run := .terminated c, shadow := false }
  | .halt h => ((s.applyReply r).log (.service v (.halt h))).halt h.reason
  | .unknown =>
    let s := (s.setR16 rAX 1).log (.service v .unknown)
    (s.setFlags { s.flags with cf := true }).resumeAt ret

/-! ### Taking an interrupt (60_exceptions.md R725 to R729) -/

/-- `IVTRead(v)`: the segment in bits 31:16, the offset in bits 15:0 (R726). -/
def State.ivtRead (s : State) (v : Byte) : Exec DWord := do
  let off ← s.linRead (4 * v.toNat) 2
  let seg ← s.linRead (4 * v.toNat + 2) 2
  .ok (BitVec.ofNat 16 seg ++ BitVec.ofNat 16 off)

/-- `GuestEntry(off, seg, ret)`: push FLAGS, CS and the return offset, clear IF and TF, go to the handler (R728). -/
def State.guestEntry (s : State) (off seg ret : Word) : Exec State := do
  let s1 ← s.push 2 s.flags.image.toNat
  let s2 ← s1.push 2 s1.cs.toNat
  let s3 ← s2.push 2 ret.toNat
  .ok { s3 with flags := { s3.flags with ifl := false, tf := false }, cs := seg, ip := off, shadow := false }

/-- The vector goes to the host: it is in P_INTERCEPT and its entry is the one the platform placed (R727). -/
def State.intercepted (s : State) (v : Byte) (entry : DWord) : Bool :=
  s.par.intercept.contains v && entry == s.par.ivtEntry v

/-- The state in which a dispatch begins: the core runs, and the instruction has dispatched (R725, R740). -/
def State.beginDispatch (s : State) : State :=
  { s with run := .running, ctx := { s.ctx with dispatched := true } }

/-- `Dispatch(v, ret)`: the one way an interrupt or exception is taken (R725). -/
def State.dispatch (s : State) (v : Byte) (ret : Word) : State :=
  let s := s.beginDispatch
  Exec.final do
    let entry ← s.ivtRead v
    if s.intercepted v entry then .ok (s.hostService v ret)
    else if entry = 0 then haltWith s (.unhandledInterrupt v)
    else s.guestEntry (entry.extractLsb' 0 16) (entry.extractLsb' 16 16) ret

/-- `raise Interrupt(v, ret)`: the instruction ends at this point (00_scope.md R12). -/
def raise {α : Type} (s : State) (v : Byte) (ret : Word) : Exec α := .error (s.dispatch v ret)

/-- `raise FaultOrHalt(v)`: a fault, which returns to the instruction itself (60_exceptions.md R721). -/
def raiseFault {α : Type} (s : State) (v : Byte) : Exec α := raise s v s.ctx.startIp

/-- `raise InvalidOpcode` with the bytes fetched (60_exceptions.md R722). -/
def State.invalidOpcode (s : State) (bytes : List Byte) : State :=
  match s.par.ud with
  | .halt => s.halt (.invalidOpcode bytes)
  | .trap => s.dispatch 6 s.ctx.startIp

/-! ### The end of an instruction -/

/-- Commit: IP moves past the instruction, and the shadow ends (30_encoding.md R163, 10_state.md R72). -/
def State.commit (s : State) : State := { s with ip := s.ctx.nextIp, shadow := false }

/-- The end of an instruction that has written CS and IP itself (30_encoding.md R163). -/
def State.jump (s : State) (cs ip : Word) : State := { s with cs := cs, ip := ip, shadow := false }

/-- Return from an interrupt: CS, IP and FLAGS as they were pushed (60_exceptions.md R736). -/
def State.returnTo (s : State) (cs ip : Word) (flags : Word) : State :=
  (s.setFlags (Flags.ofImage flags)).jump cs ip

end Sys2Proof.Machine
end

