-- ==== Sys2Proof/Machine/Flags.lean ====
section
/-! DEFINITION. The flag computations of the integer core: the class policies of 41_arithmetic.md R260 to R263 and the
shift and rotate rules of 42_logic_shift_bit.md R325 to R334. Where a rule calls a flag undefined, the flag is a bit of the
instruction's draw `d`. -/

namespace Sys2Proof.Machine

/-- PF: the byte has an even number of 1 bits (10_state.md R54). -/
def parity (b : Byte) : Bool :=
  !(b.getLsbD 0 ^^ b.getLsbD 1 ^^ b.getLsbD 2 ^^ b.getLsbD 3 ^^ b.getLsbD 4 ^^ b.getLsbD 5 ^^ b.getLsbD 6 ^^ b.getLsbD 7)

/-- `setSZP(r)` (R260). -/
def Flags.setSZP {n : Nat} (f : Flags) (r : BitVec n) : Flags :=
  { f with sf := r.msb, zf := r == 0, pf := parity (r.setWidth 8) }

/-- A signed integer does not fit n bits. -/
def signedOverflow (n : Nat) (t : Int) : Bool := t < -(2 ^ (n - 1)) || 2 ^ (n - 1) ≤ t

/-- The sum of a, b and a carry, modulo 2^n. -/
def addc {n : Nat} (a b : BitVec n) (c : Bool) : BitVec n := a + b + BitVec.ofNat n c.toNat

/-- The difference a - b - borrow, modulo 2^n. -/
def subb {n : Nat} (a b : BitVec n) (c : Bool) : BitVec n := a - b - BitVec.ofNat n c.toNat

/-- `addflags(a, b, c)` (R261). -/
def Flags.addFlags {n : Nat} (f : Flags) (a b : BitVec n) (c : Bool) : Flags :=
  let r := addc a b c
  { f.setSZP r with
    cf := decide (2 ^ n ≤ a.toNat + b.toNat + c.toNat)
    ofl := signedOverflow n (a.toInt + b.toInt + c.toNat)
    af := (a ^^^ b ^^^ r).getLsbD 4 }

/-- `subflags(a, b, c)` (R262). -/
def Flags.subFlags {n : Nat} (f : Flags) (a b : BitVec n) (c : Bool) : Flags :=
  let r := subb a b c
  { f.setSZP r with
    cf := decide (a.toNat < b.toNat + c.toNat)
    ofl := signedOverflow n (a.toInt - b.toInt - c.toNat)
    af := (a ^^^ b ^^^ r).getLsbD 4 }

/-- INC: as an addition of 1, with CF kept (R270). -/
def Flags.incFlags {n : Nat} (f : Flags) (a : BitVec n) : Flags := { f.addFlags a 1 false with cf := f.cf }

/-- DEC: as a subtraction of 1, with CF kept (R271). -/
def Flags.decFlags {n : Nat} (f : Flags) (a : BitVec n) : Flags := { f.subFlags a 1 false with cf := f.cf }

/-- `logicflags(r)`: CF and OF cleared, AF undefined (42_logic_shift_bit.md R343). -/
def Flags.logicFlags {n : Nat} (f : Flags) (d : Nat) (r : BitVec n) : Flags :=
  { f.setSZP r with cf := false, ofl := false, af := d.testBit 0 }

/-- The multiply class: CF = OF, the others undefined (R263). -/
def Flags.mulFlags (f : Flags) (d : Nat) (ov : Bool) : Flags :=
  { f with cf := ov, ofl := ov, sf := d.testBit 0, zf := d.testBit 1, af := d.testBit 2, pf := d.testBit 3 }

/-- All six arithmetic flags undefined: a divide that completes (R277), a double shift beyond the width (R333). -/
def Flags.undefined (f : Flags) (d : Nat) : Flags :=
  { f with
    sf := d.testBit 0, zf := d.testBit 1, af := d.testBit 2, pf := d.testBit 3, cf := d.testBit 4, ofl := d.testBit 5 }

/-- The condition `cond(cc)` (10_state.md R62): the even codes test, the odd ones negate. -/
def Flags.cond (f : Flags) (cc : BitVec 4) : Bool :=
  match cc.toNat with
  | 0x0 => f.ofl
  | 0x1 => !f.ofl
  | 0x2 => f.cf
  | 0x3 => !f.cf
  | 0x4 => f.zf
  | 0x5 => !f.zf
  | 0x6 => f.cf || f.zf
  | 0x7 => !f.cf && !f.zf
  | 0x8 => f.sf
  | 0x9 => !f.sf
  | 0xA => f.pf
  | 0xB => !f.pf
  | 0xC => f.sf != f.ofl
  | 0xD => f.sf == f.ofl
  | 0xE => f.zf || f.sf != f.ofl
  | _ => !f.zf && f.sf == f.ofl

/-! ### Shifts and rotates by a count of 1 to 31: the result and the flags -/

/-- The rotation of a value to the left by c < n. -/
def rotl {n : Nat} (a : BitVec n) (c : Nat) : BitVec n := if c = 0 then a else (a <<< c) ||| (a >>> (n - c))

/-- The rotation of a value to the right by c < n. -/
def rotr {n : Nat} (a : BitVec n) (c : Nat) : BitVec n := if c = 0 then a else (a >>> c) ||| (a <<< (n - c))

/-- ROL (42_logic_shift_bit.md R326). -/
def rolOp {n : Nat} (f : Flags) (d : Nat) (a : BitVec n) (cnt : Nat) : BitVec n × Flags :=
  let r := rotl a (cnt % n)
  (r, { f with cf := r.getLsbD 0, ofl := if cnt = 1 then r.msb ^^ r.getLsbD 0 else d.testBit 0 })

/-- ROR (R327). -/
def rorOp {n : Nat} (f : Flags) (d : Nat) (a : BitVec n) (cnt : Nat) : BitVec n × Flags :=
  let r := rotr a (cnt % n)
  (r, { f with cf := r.msb, ofl := if cnt = 1 then r.msb ^^ r.getLsbD (n - 2) else d.testBit 0 })

/-- RCL (R328): a rotation of CF ++ a, one bit wider. -/
def rclOp {n : Nat} (f : Flags) (d : Nat) (a : BitVec n) (cnt : Nat) : BitVec n × Flags :=
  let t := rotl (BitVec.ofBool f.cf ++ a) (cnt % (n + 1))
  let r := t.setWidth n
  (r, { f with cf := t.msb, ofl := if cnt = 1 then r.msb ^^ t.msb else d.testBit 0 })

/-- RCR (R329); OF uses the CF before the rotation. -/
def rcrOp {n : Nat} (f : Flags) (d : Nat) (a : BitVec n) (cnt : Nat) : BitVec n × Flags :=
  let t := rotr (BitVec.ofBool f.cf ++ a) (cnt % (n + 1))
  (t.setWidth n, { f with cf := t.msb, ofl := if cnt = 1 then a.msb ^^ f.cf else d.testBit 0 })

/-- SHL (R330). -/
def shlOp {n : Nat} (f : Flags) (d : Nat) (a : BitVec n) (cnt : Nat) : BitVec n × Flags :=
  let r := a <<< cnt
  let cf := if cnt < n then a.getLsbD (n - cnt) else d.testBit 1
  (r, { f.setSZP r with cf := cf, ofl := if cnt = 1 then r.msb ^^ cf else d.testBit 0, af := d.testBit 2 })

/-- SHR (R331). -/
def shrOp {n : Nat} (f : Flags) (d : Nat) (a : BitVec n) (cnt : Nat) : BitVec n × Flags :=
  let r := a >>> cnt
  let cf := if cnt < n then a.getLsbD (cnt - 1) else d.testBit 1
  (r, { f.setSZP r with cf := cf, ofl := if cnt = 1 then a.msb else d.testBit 0, af := d.testBit 2 })

/-- SAR (R332). -/
def sarOp {n : Nat} (f : Flags) (d : Nat) (a : BitVec n) (cnt : Nat) : BitVec n × Flags :=
  let r := a.sshiftRight cnt
  let cf := if cnt < n then a.getLsbD (cnt - 1) else a.msb
  (r, { f.setSZP r with cf := cf, ofl := if cnt = 1 then false else d.testBit 0, af := d.testBit 2 })

/-- SHLD by a count of 1 to 31 (R333); beyond the width the result is undefined too. -/
def shldOp {n : Nat} (f : Flags) (d : Nat) (a b : BitVec n) (cnt : Nat) : BitVec n × Flags :=
  if n < cnt then (BitVec.ofNat n (d >>> 6), f.undefined d)
  else
    let r := (a <<< cnt) ||| (b >>> (n - cnt))
    (r, { f.setSZP r with
      cf := a.getLsbD (n - cnt), ofl := if cnt = 1 then r.msb ^^ a.msb else d.testBit 0, af := d.testBit 2 })

/-- SHRD by a count of 1 to 31 (R334). -/
def shrdOp {n : Nat} (f : Flags) (d : Nat) (a b : BitVec n) (cnt : Nat) : BitVec n × Flags :=
  if n < cnt then (BitVec.ofNat n (d >>> 6), f.undefined d)
  else
    let r := (a >>> cnt) ||| (b <<< (n - cnt))
    (r, { f.setSZP r with
      cf := a.getLsbD (cnt - 1), ofl := if cnt = 1 then r.msb ^^ a.msb else d.testBit 0, af := d.testBit 2 })

end Sys2Proof.Machine
end

