-- ==== Sys2Proof/Machine/Operands.lean ====
section
/-! DEFINITION. Operands: effective addresses, segments, reading and writing the ModRM operand, immediates at operand size
(30_encoding.md R144, R149 to R156). -/

namespace Sys2Proof.Machine

/-- The operand size of an instruction (30_encoding.md R144). -/
abbrev osW (p : Prefixes) : Width := Width.ofOs p.os32

/-- The base and index registers of an r/m number (30_encoding.md R150); number 6 is BP, which mod 00 never reaches. -/
def State.baseSum (s : State) (rm : BitVec 3) : Word :=
  match rm.toNat with
  | 0 => s.r16 rBX + s.r16 rSI
  | 1 => s.r16 rBX + s.r16 rDI
  | 2 => s.r16 rBP + s.r16 rSI
  | 3 => s.r16 rBP + s.r16 rDI
  | 4 => s.r16 rSI
  | 5 => s.r16 rDI
  | 6 => s.r16 rBP
  | _ => s.r16 rBX

/-- The effective address, modulo 2^16 (30_encoding.md R150). -/
def State.ea (s : State) : Mem → Word
  | .indexed rm => s.baseSum rm
  | .indexed8 rm d => s.baseSum rm + d.signExtend 16
  | .indexed16 rm d => s.baseSum rm + d
  | .direct d => d

/-- The rows of the addressing table that use BP (30_encoding.md R151). -/
def usesBp (rm : BitVec 3) : Bool :=
  match rm.toNat with
  | 2 | 3 | 6 => true
  | _ => false

/-- The segment register a memory operand takes when no override is present (30_encoding.md R151). -/
def defaultSeg : Mem → SegReg
  | .indexed rm | .indexed8 rm _ | .indexed16 rm _ => if usesBp rm then .ss else .ds
  | .direct _ => .ds

/-- SEG of a memory operand: the override, or the default (30_encoding.md R151). -/
def State.seg (s : State) (p : Prefixes) (m : Mem) : Word := s.sreg (p.seg.getD (defaultSeg m))

/-- SEG of the operands that take DS or the override: moffs, XLAT and the string source (30_encoding.md R151). -/
def State.dsOr (s : State) (p : Prefixes) : Word := s.sreg (p.seg.getD .ds)

/-- The linear address of a memory operand. -/
def State.memAddr (s : State) (p : Prefixes) (m : Mem) : Nat := s.lin (s.seg p m) (s.ea m)

/-- `MemRead(SEG, EA, n)` as a number. -/
def State.readMemN (s : State) (p : Prefixes) (m : Mem) (n : Nat) : Exec Nat := s.linRead (s.memAddr p m) n

/-- `MemWrite(SEG, EA, n, v)`. -/
def State.writeMemN (s : State) (p : Prefixes) (m : Mem) (n v : Nat) : Exec State := s.linWrite (s.memAddr p m) n v

/-- A value of width w read at a linear address. -/
def State.linReadW (s : State) (w : Width) (a : Nat) : Exec (BitVec w.bits) :=
  (s.linRead a w.bytes).map (BitVec.ofNat w.bits)

/-- `read(RM)` at width w (30_encoding.md R153). -/
def State.readRM (s : State) (p : Prefixes) (w : Width) : RM → Exec (BitVec w.bits)
  | .reg r => .ok (s.reg w r)
  | .mem m => s.linReadW w (s.memAddr p m)

/-- `write(RM, v)` at width w (30_encoding.md R153). -/
def State.writeRM (s : State) (p : Prefixes) (w : Width) (rm : RM) (v : BitVec w.bits) : Exec State :=
  match rm with
  | .reg r => .ok (s.setReg w r v)
  | .mem m => s.linWrite (s.memAddr p m) w.bytes v.toNat

/-- `Push` of a value of width w, 16 or 32. -/
def State.pushW (s : State) (w : Width) (v : BitVec w.bits) : Exec State := s.push w.bytes v.toNat

/-- `Pop` of a value of width w, 16 or 32. -/
def State.popW (s : State) (w : Width) : Exec (BitVec w.bits × State) := do
  let (v, s) ← s.pop w.bytes
  .ok (BitVec.ofNat w.bits v, s)

/-- An immediate of operand size, as a value of width w. -/
def immZ (w : Width) (i : DWord) : BitVec w.bits := i.setWidth w.bits

/-- An immediate byte, sign-extended to width w. -/
def immS (w : Width) (i : Byte) : BitVec w.bits := i.signExtend w.bits

/-- An immediate byte, as a value of width w that a byte form takes whole. -/
def immB (i : Byte) : BitVec Width.b8.bits := i

end Sys2Proof.Machine

namespace Sys2Proof

/-- The width of a byte form or of a form of operand size. -/
def EForm.width (p : Prefixes) : EForm → Width
  | .eb _ => .b8
  | .ev _ => Width.ofOs p.os32

/-- The operand of such a form. -/
def EForm.rm : EForm → RM
  | .eb rm => rm
  | .ev rm => rm

/-- The value of an immediate of operand size or of a sign-extended byte. -/
def ImmForm.value (w : Width) : ImmForm → BitVec w.bits
  | .iz i => Machine.immZ w i
  | .ibs i => Machine.immS w i

end Sys2Proof

namespace Sys2Proof.Machine

/-- A far pointer read at a linear address: the offset of width w, then the segment (30_encoding.md R156, 20_memory.md
R110). -/
def State.readFar (s : State) (w : Width) (a : Nat) : Exec (BitVec w.bits × Word) := do
  let v ← s.linRead a (w.bytes + 2)
  .ok (BitVec.ofNat w.bits v, BitVec.ofNat 16 (v / 2 ^ w.bits))

end Sys2Proof.Machine
end

