-- ==== Sys2Proof/Machine/Arith.lean ====
section
/-! DEFINITION. The integer arithmetic instructions (41_arithmetic.md R265 to R285). -/

namespace Sys2Proof

/-- The width of an ALU form (41_arithmetic.md R285). -/
def AluForm.width (p : Prefixes) : AluForm → Width
  | .ebGb _ _ | .gbEb _ _ | .alIb _ | .ebIb _ _ | .ebIb82 _ _ => .b8
  | .evGv _ _ | .gvEv _ _ | .eaxIz _ | .evIz _ _ | .evIbs _ _ => Width.ofOs p.os32

/-- The destination, the first operand of the form. -/
def AluForm.dst : AluForm → RM
  | .ebGb rm _ | .evGv rm _ | .ebIb rm _ | .evIz rm _ | .ebIb82 rm _ | .evIbs rm _ => rm
  | .gbEb r _ | .gvEv r _ => .reg r
  | .alIb _ | .eaxIz _ => .reg 0

/-- The width of an INC or DEC form. -/
def IncForm.width (p : Prefixes) : IncForm → Width
  | .eb _ => .b8
  | .ev _ | .reg _ => Width.ofOs p.os32

/-- The operand of an INC or DEC form. -/
def IncForm.dst : IncForm → RM
  | .eb rm | .ev rm => rm
  | .reg r => .reg r

end Sys2Proof

namespace Sys2Proof.Machine

/-! ### Operations over the forms -/

/-- The source, the second operand of an ALU form (R285). -/
def State.aluSrc (s : State) (p : Prefixes) : (f : AluForm) → Exec (BitVec (f.width p).bits)
  | .ebGb _ r => .ok (s.reg .b8 r)
  | .evGv _ r => .ok (s.reg (osW p) r)
  | .gbEb _ rm => s.readRM p .b8 rm
  | .gvEv _ rm => s.readRM p (osW p) rm
  | .alIb i => .ok (immB i)
  | .eaxIz i => .ok (immZ (osW p) i)
  | .ebIb _ i => .ok (immB i)
  | .evIz _ i => .ok (immZ (osW p) i)
  | .ebIb82 _ i => .ok (immB i)
  | .evIbs _ i => .ok (immS (osW p) i)

/-- An ALU instruction that writes its destination: read both operands, write the result, then the flags. -/
def State.aluWrite (s : State) (p : Prefixes) (f : AluForm)
    (op : BitVec (f.width p).bits → BitVec (f.width p).bits → BitVec (f.width p).bits × Flags) : Exec State := do
  let a ← s.readRM p (f.width p) f.dst
  let b ← s.aluSrc p f
  let s ← s.writeRM p (f.width p) f.dst (op a b).1
  .ok (s.setFlags (op a b).2).commit

/-- An instruction that reads and writes one operand. -/
def State.unary (s : State) (p : Prefixes) (w : Width) (rm : RM) (op : BitVec w.bits → BitVec w.bits × Flags) :
    Exec State := do
  let a ← s.readRM p w rm
  let s ← s.writeRM p w rm (op a).1
  .ok (s.setFlags (op a).2).commit

/-! ### Add, subtract and compare -/

/-- ADD (R265). -/
def execAdd (p : Prefixes) (f : AluForm) (s : State) : Host.Outcome State Fault Refusal :=
  finish (s.aluWrite p f fun a b => (addc a b false, s.flags.addFlags a b false))

/-- ADC (R266). -/
def execAdc (p : Prefixes) (f : AluForm) (s : State) : Host.Outcome State Fault Refusal :=
  finish (s.aluWrite p f fun a b => (addc a b s.flags.cf, s.flags.addFlags a b s.flags.cf))

/-- SUB (R267). -/
def execSub (p : Prefixes) (f : AluForm) (s : State) : Host.Outcome State Fault Refusal :=
  finish (s.aluWrite p f fun a b => (subb a b false, s.flags.subFlags a b false))

/-- SBB (R268). -/
def execSbb (p : Prefixes) (f : AluForm) (s : State) : Host.Outcome State Fault Refusal :=
  finish (s.aluWrite p f fun a b => (subb a b s.flags.cf, s.flags.subFlags a b s.flags.cf))

/-- CMP: neither operand is written (R269). -/
def execCmp (p : Prefixes) (f : AluForm) (s : State) : Host.Outcome State Fault Refusal :=
  finish do
    let a ← s.readRM p (f.width p) f.dst
    let b ← s.aluSrc p f
    .ok (s.setFlags (s.flags.subFlags a b false)).commit

/-- INC: CF stays (R270). -/
def execInc (p : Prefixes) (f : IncForm) (s : State) : Host.Outcome State Fault Refusal :=
  finish (s.unary p (f.width p) f.dst fun a => (addc a 1 false, s.flags.incFlags a))

/-- DEC: CF stays (R271). -/
def execDec (p : Prefixes) (f : IncForm) (s : State) : Host.Outcome State Fault Refusal :=
  finish (s.unary p (f.width p) f.dst fun a => (subb a 1 false, s.flags.decFlags a))

/-- NEG: a subtraction from 0 (R272). -/
def execNeg (p : Prefixes) (f : EForm) (s : State) : Host.Outcome State Fault Refusal :=
  finish (s.unary p (f.width p) f.rm fun a => (subb 0 a false, s.flags.subFlags 0 a false))

/-! ### Multiply and divide -/

/-- A value of double width into AX, DX:AX or EDX:EAX (R273). -/
def State.setDouble (s : State) (w : Width) (v : Nat) : State :=
  match w with
  | .b8 => s.setR16 rAX (BitVec.ofNat 16 v)
  | .b16 => (s.setR16 rDX (BitVec.ofNat 16 (v / 2 ^ 16))).setR16 rAX (BitVec.ofNat 16 v)
  | .b32 => (s.setR32 rDX (BitVec.ofNat 32 (v / 2 ^ 32))).setR32 rAX (BitVec.ofNat 32 v)

/-- The dividend in AX, DX:AX or EDX:EAX (R277). -/
def State.double (s : State) (w : Width) : Nat :=
  match w with
  | .b8 => (s.r16 rAX).toNat
  | .b16 => (s.r16 rDX).toNat * 2 ^ 16 + (s.r16 rAX).toNat
  | .b32 => (s.r32 rDX).toNat * 2 ^ 32 + (s.r32 rAX).toNat

/-- Quotient and remainder into AL and AH, AX and DX, or EAX and EDX (R277). -/
def State.setQuotRem (s : State) (w : Width) (q m : BitVec w.bits) : State :=
  match w with
  | .b8 => (s.setR8 rAL q).setR8 rAH m
  | .b16 => (s.setR16 rAX q).setR16 rDX m
  | .b32 => (s.setR32 rAX q).setR32 rDX m

/-- The signed product does not fit the width. -/
def productOverflow (w : Nat) (prod : Int) : Bool := prod != (BitVec.ofInt w prod).toInt

/-- MUL (R273). -/
def execMul (p : Prefixes) (f : EForm) (s : State) : Host.Outcome State Fault Refusal :=
  finish do
    let w := f.width p
    let b ← s.readRM p w f.rm
    let prod := (s.reg w rAX).toNat * b.toNat
    .ok ((s.setDouble w prod).setFlags (s.flags.mulFlags s.drawn (2 ^ w.bits ≤ prod))).useDraw.commit

/-- IMUL with one operand (R274). -/
def execImul1 (p : Prefixes) (f : EForm) (s : State) : Host.Outcome State Fault Refusal :=
  finish do
    let w := f.width p
    let b ← s.readRM p w f.rm
    let prod := (s.reg w rAX).toInt * b.toInt
    .ok ((s.setDouble w (BitVec.ofInt (2 * w.bits) prod).toNat).setFlags
      (s.flags.mulFlags s.drawn (productOverflow w.bits prod))).useDraw.commit

/-- The end of the two forms of IMUL that write a register of operand size. -/
def State.imulInto (s : State) (w : Width) (r : BitVec 3) (a b : BitVec w.bits) : State :=
  let prod := a.toInt * b.toInt
  ((s.setReg w r (BitVec.ofInt w.bits prod)).setFlags
    (s.flags.mulFlags s.drawn (productOverflow w.bits prod))).useDraw.commit

/-- IMUL with two operands (R275). -/
def execImul2 (p : Prefixes) (r : BitVec 3) (rm : RM) (s : State) : Host.Outcome State Fault Refusal :=
  finish do
    let b ← s.readRM p (osW p) rm
    .ok (s.imulInto (osW p) r (s.reg (osW p) r) b)

/-- IMUL with three operands (R276). -/
def execImul3 (p : Prefixes) (r : BitVec 3) (rm : RM) (i : ImmForm) (s : State) : Host.Outcome State Fault Refusal :=
  finish do
    let a ← s.readRM p (osW p) rm
    .ok (s.imulInto (osW p) r a (i.value (osW p)))

/-- DIV: a divisor of 0, or a quotient that does not fit, raises the divide error with nothing changed (R277). -/
def execDiv (p : Prefixes) (f : EForm) (s : State) : Host.Outcome State Fault Refusal :=
  finish do
    let w := f.width p
    let d ← s.readRM p w f.rm
    let n := s.double w
    if d = 0 ∨ 2 ^ w.bits ≤ n / d.toNat then raiseFault s 0
    else .ok ((s.setQuotRem w (BitVec.ofNat w.bits (n / d.toNat)) (BitVec.ofNat w.bits (n % d.toNat))).setFlags
      (s.flags.undefined s.drawn)).useDraw.commit

/-- IDIV: division truncates toward zero, the remainder has the dividend's sign (R278). -/
def execIdiv (p : Prefixes) (f : EForm) (s : State) : Host.Outcome State Fault Refusal :=
  finish do
    let w := f.width p
    let d ← s.readRM p w f.rm
    let n := (BitVec.ofNat (2 * w.bits) (s.double w)).toInt
    if d = 0 ∨ signedOverflow w.bits (n.tdiv d.toInt) then raiseFault s 0
    else .ok ((s.setQuotRem w (BitVec.ofInt w.bits (n.tdiv d.toInt)) (BitVec.ofInt w.bits (n.tmod d.toInt))).setFlags
      (s.flags.undefined s.drawn)).useDraw.commit

/-! ### Decimal adjust -/

/-- The low digit of AL needs an adjustment: it is above 9, or AF is set. -/
def State.lowAdjust (s : State) : Bool := decide (9 < (s.r8 rAL &&& 0x0F).toNat) || s.flags.af

/-- The high digit of AL needs an adjustment: AL is above 99h, or CF is set. -/
def State.highAdjust (s : State) : Bool := decide (0x99 < (s.r8 rAL).toNat) || s.flags.cf

/-- The end of DAA and DAS: AL and its flags; OF is undefined. -/
def State.adjusted (s : State) (al : Byte) : State :=
  ((s.setR8 rAL al).setFlags { s.flags.setSZP al with
    cf := s.highAdjust, af := s.lowAdjust, ofl := s.drawn.testBit 0 }).useDraw.commit

/-- DAA (R279). -/
def execDaa (_p : Prefixes) (s : State) : Host.Outcome State Fault Refusal :=
  finish (.ok (s.adjusted (s.r8 rAL + (if s.lowAdjust then 6 else 0) + (if s.highAdjust then 0x60 else 0))))

/-- DAS (R280). -/
def execDas (_p : Prefixes) (s : State) : Host.Outcome State Fault Refusal :=
  finish (.ok (s.adjusted (s.r8 rAL - (if s.lowAdjust then 6 else 0) - (if s.highAdjust then 0x60 else 0))))

/-- The end of AAA and AAS: AL keeps its low digit; OF, SF, ZF and PF are undefined. -/
def State.asciiAdjusted (s s' : State) : State :=
  ((s'.setR8 rAL (s'.r8 rAL &&& 0x0F)).setFlags { s.flags with
    cf := s.lowAdjust, af := s.lowAdjust, ofl := s.drawn.testBit 0, sf := s.drawn.testBit 1, zf := s.drawn.testBit 2,
    pf := s.drawn.testBit 3 }).useDraw.commit

/-- AAA, in the form P_AAA names (R281). -/
def execAaa (_p : Prefixes) (s : State) : Host.Outcome State Fault Refusal :=
  finish (.ok (s.asciiAdjusted
    (if s.lowAdjust then
      match s.par.aaa with
      | .ax => s.setR16 rAX (s.r16 rAX + 0x0106)
      | .ah => (s.setR8 rAL (s.r8 rAL + 6)).setR8 rAH (s.r8 rAH + 1)
    else s)))

/-- AAS, in the form P_AAA names (R282). -/
def execAas (_p : Prefixes) (s : State) : Host.Outcome State Fault Refusal :=
  finish (.ok (s.asciiAdjusted
    (if s.lowAdjust then
      match s.par.aaa with
      | .ax => s.setR16 rAX (s.r16 rAX - 6 - 0x0100)
      | .ah => (s.setR8 rAL (s.r8 rAL - 6)).setR8 rAH (s.r8 rAH - 1)
    else s)))

/-- The end of AAM and AAD: AH, AL and the flags of AL; OF, AF and CF are undefined. -/
def State.baseAdjusted (s : State) (ah al : Byte) : State :=
  (((s.setR8 rAH ah).setR8 rAL al).setFlags { s.flags.setSZP al with
    ofl := s.drawn.testBit 0, af := s.drawn.testBit 1, cf := s.drawn.testBit 2 }).useDraw.commit

/-- AAM: a base of 0 raises the divide error (R283). -/
def execAam (_p : Prefixes) (i : Byte) (s : State) : Host.Outcome State Fault Refusal :=
  finish (if i = 0 then raiseFault s 0 else .ok (s.baseAdjusted (s.r8 rAL / i) (s.r8 rAL % i)))

/-- AAD (R284). -/
def execAad (_p : Prefixes) (i : Byte) (s : State) : Host.Outcome State Fault Refusal :=
  finish (.ok (s.baseAdjusted 0 (s.r8 rAL + s.r8 rAH * i)))

end Sys2Proof.Machine
end

