-- ==== Sys2Proof/Machine/DataTransfer.lean ====
section
/-! DEFINITION. The data-transfer instructions (40_data_transfer.md R200 to R226). None of them writes a flag but SAHF and
POPF (R227). -/

namespace Sys2Proof.Machine

/-! ### Moves -/

/-- A move from an r/m operand to a register. -/
def State.loadReg (s : State) (p : Prefixes) (w : Width) (r : BitVec 3) (rm : RM) : Exec State := do
  let v ← s.readRM p w rm
  .ok (s.setReg w r v).commit

/-- A move of a value to an r/m operand. -/
def State.storeRM (s : State) (p : Prefixes) (w : Width) (rm : RM) (v : BitVec w.bits) : Exec State := do
  let s ← s.writeRM p w rm v
  .ok s.commit

/-- MOV (R200). -/
def execMov (p : Prefixes) (f : MovForm) (s : State) : Host.Outcome State Fault Refusal :=
  finish (match f with
    | .ebGb rm r => s.storeRM p .b8 rm (s.reg .b8 r)
    | .evGv rm r => s.storeRM p (osW p) rm (s.reg (osW p) r)
    | .gbEb r rm => s.loadReg p .b8 r rm
    | .gvEv r rm => s.loadReg p (osW p) r rm
    | .gbIb r i => .ok (s.setReg .b8 r i).commit
    | .gvIz r i => .ok (s.setReg (osW p) r (immZ (osW p) i)).commit
    | .ebIb rm i => s.storeRM p .b8 rm i
    | .evIz rm i => s.storeRM p (osW p) rm (immZ (osW p) i))

/-- MOV between the accumulator and a direct offset (R201). -/
def execMovMoffs (p : Prefixes) (f : MoffsForm) (s : State) : Host.Outcome State Fault Refusal :=
  finish (match f with
    | .alOb off => do
      let v ← s.linReadW .b8 (s.lin (s.dsOr p) off)
      .ok (s.setReg .b8 rAL v).commit
    | .eaxOv off => do
      let v ← s.linReadW (osW p) (s.lin (s.dsOr p) off)
      .ok (s.setReg (osW p) rAX v).commit
    | .obAl off => do
      let s ← s.linWrite (s.lin (s.dsOr p) off) 1 (s.r8 rAL).toNat
      .ok s.commit
    | .ovEax off => do
      let s ← s.linWrite (s.lin (s.dsOr p) off) (osW p).bytes (s.reg (osW p) rAX).toNat
      .ok s.commit)

/-- MOV from a segment register: a word to memory; a register under 66h gets an undefined upper half (R202). -/
def execMovFromSeg (p : Prefixes) (rm : RM) (sr : SegReg) (s : State) : Host.Outcome State Fault Refusal :=
  finish (match rm with
    | .mem m => do
      let s ← s.writeMemN p m 2 (s.sreg sr).toNat
      .ok s.commit
    | .reg r =>
      if p.os32 then .ok (s.useDraw.setR32 r (BitVec.ofNat 16 s.drawn ++ s.sreg sr)).commit
      else .ok (s.setR16 r (s.sreg sr)).commit)

/-- The end of an instruction that loads a segment register: a load of SS sets the shadow (10_state.md R72). -/
def State.commitSeg (s : State) (sr : SegReg) : State := { s.commit with shadow := sr == .ss }

/-- MOV to a segment register: always a word (R203). -/
def execMovToSeg (p : Prefixes) (sr : SegReg) (rm : RM) (s : State) : Host.Outcome State Fault Refusal :=
  finish do
    let v ← s.readRM p .b16 rm
    .ok ((s.setSreg sr v).commitSeg sr)

/-- XCHG of an r/m operand and a register. -/
def State.xchgRM (s : State) (p : Prefixes) (w : Width) (rm : RM) (r : BitVec 3) : Exec State := do
  let a ← s.readRM p w rm
  let s ← s.writeRM p w rm (s.reg w r)
  .ok (s.setReg w r a).commit

/-- XCHG (R204). -/
def execXchg (p : Prefixes) (f : XchgForm) (s : State) : Host.Outcome State Fault Refusal :=
  finish (match f with
    | .ebGb rm r => s.xchgRM p .b8 rm r
    | .evGv rm r => s.xchgRM p (osW p) rm r
    | .eaxGv r => .ok ((s.setReg (osW p) rAX (s.reg (osW p) r)).setReg (osW p) r (s.reg (osW p) rAX)).commit)

/-! ### The stack -/

/-- The end of a push of a value of operand size. -/
def State.pushCommit (s : State) (w : Width) (v : BitVec w.bits) : Exec State := do
  let s ← s.pushW w v
  .ok s.commit

/-- PUSH of a register or an r/m operand: the value from before SP moves (R205). -/
def execPush (p : Prefixes) (f : StackForm) (s : State) : Host.Outcome State Fault Refusal :=
  finish (match f with
    | .reg r => s.pushCommit (osW p) (s.reg (osW p) r)
    | .rm e => do
      let v ← s.readRM p (osW p) e
      s.pushCommit (osW p) v)

/-- PUSH of an immediate (R206). -/
def execPushImm (p : Prefixes) (f : ImmForm) (s : State) : Host.Outcome State Fault Refusal :=
  finish (s.pushCommit (osW p) (f.value (osW p)))

/-- PUSH of a 16-bit value in a slot of 4 bytes: the upper word is cleared or left as it is, by one draw; its bytes are the
two linear addresses after the low word, also in a slot that crosses offset FFFFh (R207, notes/assumptions/27.md). -/
def State.pushSlot4 (s : State) (v : Word) : Exec State := do
  let sp := s.r16 rSP - 4
  let a := s.lin s.ss sp
  let clear := s.drawn.testBit 0
  let s ← (s.useDraw.setR16 rSP sp).linWrite a 2 v.toNat
  if clear then s.linWrite (a + 2) 2 0 else .ok s

/-- PUSH of a segment register (R207). -/
def execPushSeg (p : Prefixes) (sr : SegReg) (s : State) : Host.Outcome State Fault Refusal :=
  finish do
    let s ← if p.os32 then s.pushSlot4 (s.sreg sr) else s.push 2 (s.sreg sr).toNat
    .ok s.commit

/-- PUSH FS: a feature the core lacks (30_encoding.md R170, 45_processor_control.md R472). -/
def execPushFs (_p : Prefixes) (s : State) : Host.Outcome State Fault Refusal :=
  finish (haltWith s (.unsupportedFeature .fsGs))

/-- PUSH GS: a feature the core lacks (R472). -/
def execPushGs (_p : Prefixes) (s : State) : Host.Outcome State Fault Refusal :=
  finish (haltWith s (.unsupportedFeature .fsGs))

/-- POP to a register or an r/m operand (R209). -/
def execPop (p : Prefixes) (f : StackForm) (s : State) : Host.Outcome State Fault Refusal :=
  finish do
    let (v, s) ← s.popW (osW p)
    match f with
    | .reg r => .ok (s.setReg (osW p) r v).commit
    | .rm e => s.storeRM p (osW p) e v

/-- POP to a segment register: the low word of what is popped (R208). -/
def execPopSeg (p : Prefixes) (sr : SegReg) (s : State) : Host.Outcome State Fault Refusal :=
  finish do
    let (v, s) ← s.pop (osW p).bytes
    .ok ((s.setSreg sr (BitVec.ofNat 16 v)).commitSeg sr)

/-- POP FS: a feature the core lacks (R472). -/
def execPopFs (_p : Prefixes) (s : State) : Host.Outcome State Fault Refusal :=
  finish (haltWith s (.unsupportedFeature .fsGs))

/-- POP GS: a feature the core lacks (R472). -/
def execPopGs (_p : Prefixes) (s : State) : Host.Outcome State Fault Refusal :=
  finish (haltWith s (.unsupportedFeature .fsGs))

/-- PUSHA and PUSHAD: the eight registers, with the eSP from before the first push (R210). -/
def execPusha (p : Prefixes) (s : State) : Host.Outcome State Fault Refusal :=
  finish do
    let t := s.reg (osW p) rSP
    let s ← s.pushW (osW p) (s.reg (osW p) rAX)
    let s ← s.pushW (osW p) (s.reg (osW p) rCX)
    let s ← s.pushW (osW p) (s.reg (osW p) rDX)
    let s ← s.pushW (osW p) (s.reg (osW p) rBX)
    let s ← s.pushW (osW p) t
    let s ← s.pushW (osW p) (s.reg (osW p) rBP)
    let s ← s.pushW (osW p) (s.reg (osW p) rSI)
    let s ← s.pushW (osW p) (s.reg (osW p) rDI)
    .ok s.commit

/-- Pop a value of operand size into a register. -/
def State.popInto (s : State) (w : Width) (r : BitVec 3) : Exec State := do
  let (v, s) ← s.popW w
  .ok (s.setReg w r v)

/-- POPA and POPAD: the saved eSP is skipped (R211). -/
def execPopa (p : Prefixes) (s : State) : Host.Outcome State Fault Refusal :=
  finish do
    let s ← s.popInto (osW p) rDI
    let s ← s.popInto (osW p) rSI
    let s ← s.popInto (osW p) rBP
    let s := s.setR16 rSP (s.r16 rSP + BitVec.ofNat 16 (osW p).bytes)
    let s ← s.popInto (osW p) rBX
    let s ← s.popInto (osW p) rDX
    let s ← s.popInto (osW p) rCX
    let s ← s.popInto (osW p) rAX
    .ok s.commit

/-- PUSHF and PUSHFD: the image, zero-extended under 66h (R212). -/
def execPushf (p : Prefixes) (s : State) : Host.Outcome State Fault Refusal :=
  finish do
    let s ← s.push (osW p).bytes s.flags.image.toNat
    .ok s.commit

/-- POPF and POPFD: bits 15:0 of what is popped (R213). -/
def execPopf (p : Prefixes) (s : State) : Host.Outcome State Fault Refusal :=
  finish do
    let (v, s) ← s.pop (osW p).bytes
    .ok (s.setFlags (Flags.ofImage (BitVec.ofNat 16 v))).commit

/-! ### Addresses and pointers -/

/-- Load a far pointer into a segment register and a general register. -/
def State.loadFar (s : State) (p : Prefixes) (sr : SegReg) (r : BitVec 3) (m : Mem) : Exec State := do
  let (off, seg) ← s.readFar (osW p) (s.memAddr p m)
  .ok ((s.setReg (osW p) r off).setSreg sr seg).commit

/-- LDS (R214). -/
def execLds (p : Prefixes) (r : BitVec 3) (m : Mem) (s : State) : Host.Outcome State Fault Refusal :=
  finish (s.loadFar p .ds r m)

/-- LES (R215). -/
def execLes (p : Prefixes) (r : BitVec 3) (m : Mem) (s : State) : Host.Outcome State Fault Refusal :=
  finish (s.loadFar p .es r m)

/-- LSS: it sets no shadow (R216). -/
def execLss (p : Prefixes) (r : BitVec 3) (m : Mem) (s : State) : Host.Outcome State Fault Refusal :=
  finish (s.loadFar p .ss r m)

/-- LFS: a feature the core lacks (45_processor_control.md R472). -/
def execLfs (_p : Prefixes) (s : State) : Host.Outcome State Fault Refusal :=
  finish (haltWith s (.unsupportedFeature .fsGs))

/-- LGS: a feature the core lacks (R472). -/
def execLgs (_p : Prefixes) (s : State) : Host.Outcome State Fault Refusal :=
  finish (haltWith s (.unsupportedFeature .fsGs))

/-- LEA: the effective address, zero-extended under 66h (R217). -/
def execLea (p : Prefixes) (r : BitVec 3) (m : Mem) (s : State) : Host.Outcome State Fault Refusal :=
  finish (.ok (s.setReg (osW p) r ((s.ea m).setWidth (osW p).bits)).commit)

/-- XLAT (R218). -/
def execXlat (p : Prefixes) (s : State) : Host.Outcome State Fault Refusal :=
  finish do
    let v ← s.linReadW .b8 (s.lin (s.dsOr p) (s.r16 rBX + (s.r8 rAL).setWidth 16))
    .ok (s.setReg .b8 rAL v).commit

/-! ### Flags and extensions -/

/-- LAHF (R219). -/
def execLahf (_p : Prefixes) (s : State) : Host.Outcome State Fault Refusal :=
  finish (.ok (s.setR8 rAH (s.flags.image.setWidth 8)).commit)

/-- SAHF: OF, TF, IF and DF stay (R220). -/
def execSahf (_p : Prefixes) (s : State) : Host.Outcome State Fault Refusal :=
  let v := s.r8 rAH
  finish (.ok (s.setFlags { s.flags with
    sf := v.getLsbD 7, zf := v.getLsbD 6, af := v.getLsbD 4, pf := v.getLsbD 2, cf := v.getLsbD 0 }).commit)

/-- CBW and CWDE (R221). -/
def execCbw (p : Prefixes) (s : State) : Host.Outcome State Fault Refusal :=
  finish (.ok (if p.os32 then s.setR32 rAX ((s.r16 rAX).signExtend 32)
    else s.setR16 rAX ((s.r8 rAL).signExtend 16)).commit)

/-- CWD and CDQ (R222). -/
def execCwd (p : Prefixes) (s : State) : Host.Outcome State Fault Refusal :=
  finish (.ok (if p.os32 then s.setR32 rDX (if (s.r32 rAX).msb then 0xFFFFFFFF else 0)
    else s.setR16 rDX (if (s.r16 rAX).msb then 0xFFFF else 0)).commit)

/-- The source width of MOVZX and MOVSX. -/
abbrev srcW (wide : Bool) : Width := if wide then .b16 else .b8

/-- MOVZX (R223). -/
def execMovzx (p : Prefixes) (r : BitVec 3) (wide : Bool) (rm : RM) (s : State) : Host.Outcome State Fault Refusal :=
  finish do
    let v ← s.readRM p (srcW wide) rm
    .ok (s.setReg (osW p) r (v.setWidth (osW p).bits)).commit

/-- MOVSX (R224). -/
def execMovsx (p : Prefixes) (r : BitVec 3) (wide : Bool) (rm : RM) (s : State) : Host.Outcome State Fault Refusal :=
  finish do
    let v ← s.readRM p (srcW wide) rm
    .ok (s.setReg (osW p) r (v.signExtend (osW p).bits)).commit

/-! ### Ports -/

/-- The port number: a byte, or DX (R225). -/
def State.port (s : State) : Port → Word
  | .imm i => i.setWidth 16
  | .dx => s.r16 rDX

/-- The width of a port access. -/
abbrev portW (p : Prefixes) (wide : Bool) : Width := if wide then osW p else .b8

/-- IN: the value is the oracle's (R225). -/
def execInPort (p : Prefixes) (wide : Bool) (src : Port) (s : State) : Host.Outcome State Fault Refusal :=
  let w := portW p wide
  let r := s.ioRead (s.port src) w.bytes
  finish (.ok (r.2.setReg w rAX (BitVec.ofNat w.bits r.1)).commit)

/-- OUT: only the event log changes (R226). -/
def execOutPort (p : Prefixes) (wide : Bool) (dst : Port) (s : State) : Host.Outcome State Fault Refusal :=
  let w := portW p wide
  finish (.ok (s.ioWrite (s.port dst) w.bytes (s.reg w rAX).toNat).commit)

end Sys2Proof.Machine
end

