-- ==== Sys2Proof/Machine/Control.lean ====
section
/-! DEFINITION. The control transfer instructions (44_control_transfer.md R410 to R433). -/

namespace Sys2Proof.Machine

/-! ### Targets -/

/-- The check of a target: above FFFFh the run halts (R410). -/
def State.checkTarget (s : State) {n : Nat} (t : BitVec n) : Exec Word :=
  if 0xFFFF < t.toNat then haltWith s (.unsupportedFeature .ipBeyond) else .ok (t.setWidth 16)

/-- `setIP(t)` at the end of an instruction: the check, then the jump within CS (R410). -/
def State.setIp (s : State) {n : Nat} (t : BitVec n) : Exec State := do
  let ip ← s.checkTarget t
  .ok (s.jump s.cs ip)

/-- A relative target: next_ip plus the displacement, at width OS (30_encoding.md R157). -/
def State.relTarget (s : State) (w : Width) (d : BitVec w.bits) : BitVec w.bits := s.ctx.nextIp.setWidth w.bits + d

/-- The displacement of a relative jump at width OS. -/
def relDisp (w : Width) : Rel → BitVec w.bits
  | .jb d => immS w d
  | .jz d => immZ w d

/-- A conditional jump: to the target, or past the instruction. -/
def State.branch (s : State) (w : Width) (taken : Bool) (d : BitVec w.bits) : Exec State :=
  if taken then s.setIp (s.relTarget w d) else .ok s.commit

/-! ### Jumps -/

/-- JMP relative (R411). -/
def execJmpRel (p : Prefixes) (t : Rel) (s : State) : Host.Outcome State Fault Refusal :=
  finish (s.setIp (s.relTarget (osW p) (relDisp (osW p) t)))

/-- JMP near indirect (R412). -/
def execJmpInd (p : Prefixes) (rm : RM) (s : State) : Host.Outcome State Fault Refusal :=
  finish do
    let t ← s.readRM p (osW p) rm
    s.setIp t

/-- JMP far direct (R413). -/
def execJmpFar (p : Prefixes) (off : DWord) (seg : Word) (s : State) : Host.Outcome State Fault Refusal :=
  finish do
    let ip ← s.checkTarget (immZ (osW p) off)
    .ok (s.jump seg ip)

/-- JMP far indirect (R414). -/
def execJmpFarInd (p : Prefixes) (m : Mem) (s : State) : Host.Outcome State Fault Refusal :=
  finish do
    let (off, seg) ← s.readFar (osW p) (s.memAddr p m)
    let ip ← s.checkTarget off
    .ok (s.jump seg ip)

/-- Jcc short (R415). -/
def execJccShort (p : Prefixes) (cc : BitVec 4) (d : Byte) (s : State) : Host.Outcome State Fault Refusal :=
  finish (s.branch (osW p) (s.flags.cond cc) (immS (osW p) d))

/-- Jcc near (R416). -/
def execJccNear (p : Prefixes) (cc : BitVec 4) (d : DWord) (s : State) : Host.Outcome State Fault Refusal :=
  finish (s.branch (osW p) (s.flags.cond cc) (immZ (osW p) d))

/-- JCXZ (R417). -/
def execJcxz (p : Prefixes) (d : Byte) (s : State) : Host.Outcome State Fault Refusal :=
  finish (s.branch (osW p) (s.r16 rCX == 0) (immS (osW p) d))

/-- The state once a LOOP has counted CX down (R418). -/
def State.countCx (s : State) : State := s.setR16 rCX (s.r16 rCX - 1)

/-- LOOP (R418). -/
def execLoop (p : Prefixes) (d : Byte) (s : State) : Host.Outcome State Fault Refusal :=
  finish (s.countCx.branch (osW p) (s.countCx.r16 rCX != 0) (immS (osW p) d))

/-- LOOPE (R419). -/
def execLoope (p : Prefixes) (d : Byte) (s : State) : Host.Outcome State Fault Refusal :=
  finish (s.countCx.branch (osW p) (s.countCx.r16 rCX != 0 && s.flags.zf) (immS (osW p) d))

/-- LOOPNE (R420). -/
def execLoopne (p : Prefixes) (d : Byte) (s : State) : Host.Outcome State Fault Refusal :=
  finish (s.countCx.branch (osW p) (s.countCx.r16 rCX != 0 && !s.flags.zf) (immS (osW p) d))

/-! ### Calls and returns -/

/-- A near call: the check, the push of next_ip, the jump (R421). -/
def State.callNear (s : State) (w : Width) (t : BitVec w.bits) : Exec State := do
  let ip ← s.checkTarget t
  let s ← s.pushW w (s.ctx.nextIp.setWidth w.bits)
  .ok (s.jump s.cs ip)

/-- CALL relative (R421). -/
def execCallRel (p : Prefixes) (d : DWord) (s : State) : Host.Outcome State Fault Refusal :=
  finish (s.callNear (osW p) (s.relTarget (osW p) (immZ (osW p) d)))

/-- CALL near indirect: the operand is read before SP changes (R422). -/
def execCallInd (p : Prefixes) (rm : RM) (s : State) : Host.Outcome State Fault Refusal :=
  finish do
    let t ← s.readRM p (osW p) rm
    s.callNear (osW p) t

/-- A far call: the check, the pushes of CS and next_ip, the jump (R423). -/
def State.callFarTo (s : State) (p : Prefixes) (off : BitVec (osW p).bits) (seg : Word) : Exec State := do
  let ip ← s.checkTarget off
  let s ← if p.os32 then s.pushSlot4 s.cs else s.push 2 s.cs.toNat
  let s ← s.pushW (osW p) (s.ctx.nextIp.setWidth (osW p).bits)
  .ok (s.jump seg ip)

/-- CALL far direct (R423). -/
def execCallFar (p : Prefixes) (off : DWord) (seg : Word) (s : State) : Host.Outcome State Fault Refusal :=
  finish (s.callFarTo p (immZ (osW p) off) seg)

/-- CALL far indirect (R424). -/
def execCallFarInd (p : Prefixes) (m : Mem) (s : State) : Host.Outcome State Fault Refusal :=
  finish do
    let (off, seg) ← s.readFar (osW p) (s.memAddr p m)
    s.callFarTo p off seg

/-- The release of `n` bytes of stack by a return with an operand. -/
def State.release (s : State) : Option Word → State
  | none => s
  | some n => s.setR16 rSP (s.r16 rSP + n)

/-- RET: if the check halts, SP has already been popped (R425). -/
def execRet (p : Prefixes) (n : Option Word) (s : State) : Host.Outcome State Fault Refusal :=
  finish do
    let (t, s) ← s.popW (osW p)
    let ip ← s.checkTarget t
    .ok ((s.release n).jump s.cs ip)

/-- RETF (R426). -/
def execRetf (p : Prefixes) (n : Option Word) (s : State) : Host.Outcome State Fault Refusal :=
  finish do
    let (off, s) ← s.popW (osW p)
    let (seg, s) ← s.pop (osW p).bytes
    let ip ← s.checkTarget off
    .ok ((s.release n).jump (BitVec.ofNat 16 seg) ip)

/-! ### Interrupts -/

/-- INT n (R427). -/
def execInt (_p : Prefixes) (v : Byte) (s : State) : Host.Outcome State Fault Refusal :=
  finish (raise s v s.ctx.nextIp)

/-- INT3 (R428). -/
def execInt3 (_p : Prefixes) (s : State) : Host.Outcome State Fault Refusal :=
  finish (raise s 3 s.ctx.nextIp)

/-- INTO (R429). -/
def execInto (_p : Prefixes) (s : State) : Host.Outcome State Fault Refusal :=
  finish (if s.flags.ofl then raise s 4 s.ctx.nextIp else .ok s.commit)

/-- IRET and IRETD: IP, CS and FLAGS, in the reverse order of the entry (R430). -/
def execIret (p : Prefixes) (s : State) : Host.Outcome State Fault Refusal :=
  finish do
    let (off, s) ← s.popW (osW p)
    let (seg, s) ← s.pop (osW p).bytes
    let (fl, s) ← s.pop (osW p).bytes
    let ip ← s.checkTarget off
    .ok (s.returnTo (BitVec.ofNat 16 seg) ip (BitVec.ofNat 16 fl))

/-! ### Frames and bounds -/

/-- The frame pointers a nested ENTER copies: `n` words below BP (R431). -/
def State.copyFrames : Nat → State → Exec State
  | 0, s => .ok s
  | n + 1, s => do
    let s := s.setR16 rBP (s.r16 rBP - 2)
    let v ← s.memRead s.ss (s.r16 rBP) 2
    let s ← s.push 2 v
    State.copyFrames n s

/-- The frame pointers that ENTER copies at a nesting level, then the frame itself. -/
def State.nestFrames (s : State) (level : Nat) (frame : Word) : Exec State :=
  if level = 0 then .ok s else do
    let s ← State.copyFrames (level - 1) s
    s.push 2 frame.toNat

/-- ENTER: the nesting level is taken modulo 32; 66h is a feature the core lacks (R431). -/
def execEnter (p : Prefixes) (size : Word) (level : Byte) (s : State) : Host.Outcome State Fault Refusal :=
  finish (if p.os32 then haltWith s (.unsupportedFeature .enter32) else do
    let s ← s.push 2 (s.r16 rBP).toNat
    let frame := s.r16 rSP
    let s ← s.nestFrames (level.toNat % 32) frame
    let s := s.setR16 rBP frame
    .ok (s.setR16 rSP (s.r16 rSP - size)).commit)

/-- LEAVE: only SP is loaded from BP (R432). -/
def execLeave (p : Prefixes) (s : State) : Host.Outcome State Fault Refusal :=
  finish do
    let (v, s) ← (s.setR16 rSP (s.r16 rBP)).popW (osW p)
    .ok (s.setReg (osW p) rBP v).commit

/-- BOUND: an index outside the bounds raises interrupt 5 as a fault (R433). -/
def execBound (p : Prefixes) (r : BitVec 3) (m : Mem) (s : State) : Host.Outcome State Fault Refusal :=
  finish do
    let w := osW p
    let b ← s.linRead (s.memAddr p m) (2 * w.bytes)
    let lo := (BitVec.ofNat w.bits b).toInt
    let hi := (BitVec.ofNat w.bits (b / 2 ^ w.bits)).toInt
    let i := (s.reg w r).toInt
    if i < lo ∨ hi < i then raiseFault s 5 else .ok s.commit

end Sys2Proof.Machine
end

