-- ==== Sys2Proof/WellFormed.lean ====
section
/-! DEFINITION. The well-formed instructions: exactly the syntax that some encoding of 30_encoding.md names. -/

namespace Sys2Proof

/-- The combined prefixes of an instruction. -/
def Instr.prefixes : Instr → Prefixes
  | .mov p _ | .movMoffs p _ | .movFromSeg p _ _ | .movToSeg p _ _ | .xchg p _ | .push p _ | .pushImm p _
  | .pushSeg p _ | .pushFs p | .pushGs p | .pop p _ | .popSeg p _ | .popFs p | .popGs p | .pusha p | .popa p
  | .pushf p | .popf p | .lds p _ _ | .les p _ _ | .lss p _ _ | .lfs p | .lgs p | .lea p _ _ | .xlat p
  | .lahf p | .sahf p | .cbw p | .cwd p | .movzx p _ _ _ | .movsx p _ _ _ | .inPort p _ _ | .outPort p _ _
  | .add p _ | .adc p _ | .sub p _ | .sbb p _ | .cmp p _ | .inc p _ | .dec p _ | .neg p _ | .mul p _
  | .imul1 p _ | .imul2 p _ _ | .imul3 p _ _ _ | .div p _ | .idiv p _ | .daa p | .das p | .aaa p | .aas p
  | .aam p _ | .aad p _ | .and p _ | .or p _ | .xor p _ | .not p _ | .test p _ | .rol p _ _ | .ror p _ _
  | .rcl p _ _ | .rcr p _ _ | .shl p _ _ | .shr p _ _ | .sar p _ _ | .shld p _ _ _ | .shrd p _ _ _
  | .bt p _ _ | .bts p _ _ | .btr p _ _ | .btc p _ _ | .bsf p _ _ | .bsr p _ _ | .setcc p _ _ | .movsb p
  | .movsw p | .cmpsb p | .cmpsw p | .scasb p | .scasw p | .lodsb p | .lodsw p | .stosb p | .stosw p
  | .insb p | .insw p | .outsb p | .outsw p | .jmpRel p _ | .jmpInd p _ | .jmpFar p _ _ | .jmpFarInd p _
  | .jccShort p _ _ | .jccNear p _ _ | .jcxz p _ | .loop p _ | .loope p _ | .loopne p _ | .callRel p _
  | .callInd p _ | .callFar p _ _ | .callFarInd p _ | .ret p _ | .retf p _ | .int p _ | .int3 p | .into p
  | .iret p | .enter p _ _ | .leave p | .bound p _ _ | .clc p | .stc p | .cmc p | .cld p | .std p | .cli p
  | .sti p | .nop p | .hlt p | .wait p | .arpl p | .system p _ | .fld p _ | .fild p _ | .fbld p _ | .fst p _
  | .fstp p _ | .fist p _ | .fistp p _ | .fbstp p _ | .fxch p _ | .fadd p _ | .faddp p _ | .fiadd p _
  | .fsub p _ | .fsubp p _ | .fisub p _ | .fsubr p _ | .fsubrp p _ | .fisubr p _ | .fmul p _ | .fmulp p _
  | .fimul p _ | .fdiv p _ | .fdivp p _ | .fidiv p _ | .fdivr p _ | .fdivrp p _ | .fidivr p _ | .fsqrt p
  | .fabs p | .fchs p | .frndint p | .fscale p | .fxtract p | .fprem p | .fprem1 p | .fcom p _ | .fcomp p _
  | .fcompp p | .fucom p _ | .fucomp p _ | .fucompp p | .ficom p _ | .ficomp p _ | .ftst p | .fxam p
  | .f2xm1 p | .fyl2x p | .fyl2xp1 p | .fptan p | .fpatan p | .fsin p | .fcos p | .fsincos p | .fld1 p
  | .fldl2t p | .fldl2e p | .fldpi p | .fldlg2 p | .fldln2 p | .fldz p | .fldcw p _ | .fnstcw p _
  | .fnstsw p _ | .fnclex p | .fninit p | .fldenv p _ | .fnstenv p _ | .frstor p _ | .fnsave p _ | .fincstp p
  | .fdecstp p | .ffree p _ | .fnop p | .feni p | .fdisi p | .fsetpm p => p

/-- mod 00 with rm 110 is the direct address, not an indexed one (30_encoding.md R150). -/
def Mem.ok : Mem → Bool
  | .indexed rm => rm != 6
  | .indexed8 _ _ | .indexed16 _ _ | .direct _ => true

/-- The memory operand, if there is one, is an encodable one. -/
def RM.ok : RM → Bool
  | .reg _ => true
  | .mem m => m.ok

/-- The r/m operand is in memory: mod is not 11b. -/
def RM.isMem : RM → Bool
  | .reg _ => false
  | .mem _ => true

/-- An immediate or displacement of operand size: 16 bits unless the operand size is 32 (30_encoding.md R156). -/
def izOk (p : Prefixes) (i : DWord) : Bool := p.os32 || i.toNat < 65536

def AluForm.ok (p : Prefixes) : AluForm → Bool
  | .ebGb rm _ | .evGv rm _ | .gbEb _ rm | .gvEv _ rm | .ebIb rm _ | .ebIb82 rm _ | .evIbs rm _ => rm.ok
  | .alIb _ => true
  | .eaxIz i => izOk p i
  | .evIz rm i => rm.ok && izOk p i

/-- The forms of a group-1 instruction that may be locked, when the destination is in memory (45_processor_control.md
R470). -/
def AluForm.lockable : AluForm → Bool
  | .ebGb rm _ | .evGv rm _ | .ebIb rm _ | .evIz rm _ | .ebIb82 rm _ | .evIbs rm _ => rm.isMem
  | .gbEb _ _ | .gvEv _ _ | .alIb _ | .eaxIz _ => false

def MovForm.ok (p : Prefixes) : MovForm → Bool
  | .ebGb rm _ | .evGv rm _ | .gbEb _ rm | .gvEv _ rm | .ebIb rm _ => rm.ok
  | .gbIb _ _ => true
  | .gvIz _ i => izOk p i
  | .evIz rm i => rm.ok && izOk p i

/-- Opcode 90h is NOP, not XCHG with register 0 (45_processor_control.md R467). -/
def XchgForm.ok : XchgForm → Bool
  | .ebGb rm _ | .evGv rm _ => rm.ok
  | .eaxGv r => r != 0

def XchgForm.lockable : XchgForm → Bool
  | .ebGb rm _ | .evGv rm _ => rm.isMem
  | .eaxGv _ => false

def StackForm.ok : StackForm → Bool
  | .reg _ => true
  | .rm e => e.ok

def ImmForm.ok (p : Prefixes) : ImmForm → Bool
  | .iz i => izOk p i
  | .ibs _ => true

def IncForm.ok : IncForm → Bool
  | .eb rm | .ev rm => rm.ok
  | .reg _ => true

def IncForm.lockable : IncForm → Bool
  | .eb rm | .ev rm => rm.isMem
  | .reg _ => false

def EForm.ok : EForm → Bool
  | .eb rm | .ev rm => rm.ok

def EForm.lockable : EForm → Bool
  | .eb rm | .ev rm => rm.isMem

def TestForm.ok (p : Prefixes) : TestForm → Bool
  | .ebGb rm _ | .evGv rm _ | .ebIb rm _ => rm.ok
  | .alIb _ => true
  | .eaxIz i => izOk p i
  | .evIz rm i => rm.ok && izOk p i

def Rel.ok (p : Prefixes) : Rel → Bool
  | .jb _ => true
  | .jz d => izOk p d

def FArith.ok : FArith → Bool
  | .m32 m | .m64 m => m.ok
  | .st0 _ | .sti _ => true

def FLoad.ok : FLoad → Bool
  | .m32 m | .m64 m | .m80 m => m.ok
  | .st _ => true

def FStore.ok : FStore → Bool
  | .m32 m | .m64 m => m.ok
  | .st _ => true

def FStoreP.ok : FStoreP → Bool
  | .m32 m | .m64 m | .m80 m => m.ok
  | .st _ => true

def FCmp.ok : FCmp → Bool
  | .m32 m | .m64 m => m.ok
  | .st _ => true

def FInt.ok : FInt → Bool
  | .m16 m | .m32 m => m.ok

def FInt3.ok : FInt3 → Bool
  | .m16 m | .m32 m | .m64 m => m.ok

def FSwDst.ok : FSwDst → Bool
  | .m16 m => m.ok
  | .ax => true

/-- The second bytes of the system and protected-mode rows (30_encoding.md R169). -/
def systemOp (b : Byte) : Bool :=
  match b.toNat with
  | 0x00 | 0x01 | 0x02 | 0x03 | 0x06 | 0x20 | 0x21 | 0x22 | 0x23 | 0x24 | 0x26 => true
  | _ => false

/-- Each operand is one an encoding of the instruction can hold. CS is no destination of POP and MOV (30_encoding.md
R171). -/
def Instr.operandsOk : Instr → Bool
  | .add p f | .adc p f | .sub p f | .sbb p f | .cmp p f | .and p f | .or p f | .xor p f => f.ok p
  | .mov p f => f.ok p
  | .xchg _ f => f.ok
  | .push _ f | .pop _ f => f.ok
  | .pushImm p f => f.ok p
  | .popSeg _ sr => sr != .cs
  | .movToSeg _ sr rm => sr != .cs && rm.ok
  | .movFromSeg _ rm _ | .movzx _ _ _ rm | .movsx _ _ _ rm | .imul2 _ _ rm | .shld _ rm _ _ | .shrd _ rm _ _
  | .bt _ rm _ | .bts _ rm _ | .btr _ rm _ | .btc _ rm _ | .bsf _ _ rm | .bsr _ _ rm | .setcc _ _ rm
  | .jmpInd _ rm | .callInd _ rm => rm.ok
  | .lds _ _ m | .les _ _ m | .lss _ _ m | .lea _ _ m | .bound _ _ m | .jmpFarInd _ m | .callFarInd _ m
  | .fbld _ m | .fbstp _ m | .fldcw _ m | .fnstcw _ m | .fldenv _ m | .fnstenv _ m | .frstor _ m | .fnsave _ m => m.ok
  | .inc _ f | .dec _ f => f.ok
  | .neg _ f | .mul _ f | .imul1 _ f | .div _ f | .idiv _ f | .not _ f
  | .rol _ f _ | .ror _ f _ | .rcl _ f _ | .rcr _ f _ | .shl _ f _ | .shr _ f _ | .sar _ f _ => f.ok
  | .imul3 p _ rm i => rm.ok && i.ok p
  | .test p f => f.ok p
  | .jmpRel p t => t.ok p
  | .jmpFar p off _ | .callFar p off _ => izOk p off
  | .jccNear p _ d | .callRel p d => izOk p d
  | .system _ op2 => systemOp op2
  | .fld _ f => f.ok
  | .fst _ f => f.ok
  | .fstp _ f => f.ok
  | .fild _ f | .fistp _ f => f.ok
  | .fist _ f | .fiadd _ f | .fisub _ f | .fisubr _ f | .fimul _ f | .fidiv _ f | .fidivr _ f
  | .ficom _ f | .ficomp _ f => f.ok
  | .fadd _ f | .fsub _ f | .fsubr _ f | .fmul _ f | .fdiv _ f | .fdivr _ f => f.ok
  | .fcom _ f | .fcomp _ f => f.ok
  | .fnstsw _ d => d.ok
  | .movMoffs _ _ | .pushSeg _ _ | .pushFs _ | .pushGs _ | .popFs _ | .popGs _ | .pusha _ | .popa _ | .pushf _
  | .popf _ | .lfs _ | .lgs _ | .xlat _ | .lahf _ | .sahf _ | .cbw _ | .cwd _ | .inPort _ _ _ | .outPort _ _ _
  | .daa _ | .das _ | .aaa _ | .aas _ | .aam _ _ | .aad _ _ | .movsb _ | .movsw _ | .cmpsb _ | .cmpsw _ | .scasb _
  | .scasw _ | .lodsb _ | .lodsw _ | .stosb _ | .stosw _ | .insb _ | .insw _ | .outsb _ | .outsw _ | .jccShort _ _ _
  | .jcxz _ _ | .loop _ _ | .loope _ _ | .loopne _ _ | .ret _ _ | .retf _ _ | .int _ _ | .int3 _ | .into _ | .iret _
  | .enter _ _ _ | .leave _ | .clc _ | .stc _ | .cmc _ | .cld _ | .std _ | .cli _ | .sti _ | .nop _ | .hlt _ | .wait _
  | .arpl _ | .fxch _ _ | .faddp _ _ | .fsubp _ _ | .fsubrp _ _ | .fmulp _ _ | .fdivp _ _ | .fdivrp _ _ | .fsqrt _
  | .fabs _ | .fchs _ | .frndint _ | .fscale _ | .fxtract _ | .fprem _ | .fprem1 _ | .fcompp _ | .fucom _ _
  | .fucomp _ _ | .fucompp _ | .ftst _ | .fxam _ | .f2xm1 _ | .fyl2x _ | .fyl2xp1 _ | .fptan _ | .fpatan _ | .fsin _
  | .fcos _ | .fsincos _ | .fld1 _ | .fldl2t _ | .fldl2e _ | .fldpi _ | .fldlg2 _ | .fldln2 _ | .fldz _ | .fnclex _
  | .fninit _ | .fincstp _ | .fdecstp _ | .ffree _ _ | .fnop _ | .feni _ | .fdisi _ | .fsetpm _ => true

/-- The instructions LOCK may precede (45_processor_control.md R470). The rows of 30_encoding.md R169 and R170 are decided
before LOCK is looked at, so that they admit it too (notes/assumptions/15.md). -/
def Instr.lockable : Instr → Bool
  | .add _ f | .adc _ f | .sub _ f | .sbb _ f | .and _ f | .or _ f | .xor _ f => f.lockable
  | .not _ f | .neg _ f => f.lockable
  | .inc _ f | .dec _ f => f.lockable
  | .xchg _ f => f.lockable
  | .bts _ rm _ | .btr _ rm _ | .btc _ rm _ => rm.isMem
  | .arpl _ | .system _ _ | .pushFs _ | .pushGs _ | .popFs _ | .popGs _ | .lfs _ | .lgs _ => true
  | _ => false

/-- Every check of well-formedness. -/
def Instr.check (i : Instr) : Bool := i.operandsOk && (!i.prefixes.lock || i.lockable)

/-- The instruction is one that some encoding names. -/
abbrev WellFormed (i : Instr) : Prop := i.check = true

end Sys2Proof
end

