-- ==== Sys2Proof/Decode.lean ====
section
/-! DEFINITION. From bytes to an instruction or a refusal by name, and back (30_encoding.md). The decoder is a parser over
the bytes of an instruction; the encoder writes the words of a well-formed instruction from the same maps. -/

namespace Sys2Proof

/-- Why bytes are no instruction: an encoding that names none (`rest` is what the decoder has not read), a feature the
core lacks, or bytes that end before the instruction does (30_encoding.md R148). -/
inductive Reject where
  | invalid (rest : List Byte)
  | unsupported (f : Feature)
  | needMore
deriving DecidableEq, Repr

/-- A parser reads the bytes from the front and answers with what remains. -/
abbrev Parser := StateT (List Byte) (Except Reject)

/-- The encoding names no instruction. -/
def Parser.invalid {α : Type} : Parser α := fun rest => .error (.invalid rest)

/-- The encoding belongs to a feature the core lacks. -/
def Parser.unsupported {α : Type} (f : Feature) : Parser α := fun _ => .error (.unsupported f)

/-- The next byte. -/
def Parser.byte : Parser Byte
  | [] => .error .needMore
  | b :: rest => .ok (b, rest)

/-- The next two bytes, the low one first (20_memory.md R108). -/
def Parser.word : Parser Word := do
  let lo ← Parser.byte
  let hi ← Parser.byte
  return hi ++ lo

/-- The next four bytes, the lowest first. -/
def Parser.dword : Parser DWord := do
  let lo ← Parser.word
  let hi ← Parser.word
  return hi ++ lo

/-- An immediate of operand size: a doubleword, or a word with zeros above it (30_encoding.md R156). -/
def Parser.iz (p : Prefixes) : Parser DWord :=
  if p.os32 then Parser.dword else do
    let w ← Parser.word
    return w.setWidth 32

/-- The bytes of a word, the low one first. -/
def wordBytes (w : Word) : List Byte := [w.extractLsb' 0 8, w.extractLsb' 8 8]

/-- The bytes of a doubleword, the lowest first. -/
def dwordBytes (d : DWord) : List Byte := wordBytes (d.extractLsb' 0 16) ++ wordBytes (d.extractLsb' 16 16)

/-- The bytes of an immediate of operand size. -/
def izBytes (p : Prefixes) (i : DWord) : List Byte := if p.os32 then dwordBytes i else wordBytes (i.setWidth 16)

/-! ### Prefixes (30_encoding.md R141, R143) -/

/-- What a byte is as a prefix: it changes the combined prefixes, names a missing feature, or is no prefix. -/
inductive PrefixByte where
  | change (p : Prefixes)
  | unsupported (f : Feature)
  | none
deriving DecidableEq, Repr

def prefixByte (p : Prefixes) (b : Byte) : PrefixByte :=
  match b.toNat with
  | 0x26 => .change { p with seg := some .es }
  | 0x2E => .change { p with seg := some .cs }
  | 0x36 => .change { p with seg := some .ss }
  | 0x3E => .change { p with seg := some .ds }
  | 0x66 => .change { p with os32 := true }
  | 0xF0 => .change { p with lock := true }
  | 0xF2 => .change { p with rep := some .repne }
  | 0xF3 => .change { p with rep := some .rep }
  | 0x64 | 0x65 => .unsupported .fsGs
  | 0x67 => .unsupported .addressSize
  | _ => .none

/-- Read the prefixes; the byte that ends them, the opcode, is read as well. The first 64h, 65h or 67h decides the outcome and
nothing after it is read (R145, R170, notes/assumptions/15.md). -/
def parsePrefixes (p : Prefixes) : List Byte → Except Reject ((Prefixes × Byte) × List Byte)
  | [] => .error .needMore
  | b :: rest =>
    match prefixByte p b with
    | .change p' => parsePrefixes p' rest
    | .unsupported f => .error (.unsupported f)
    | .none => .ok ((p, b), rest)

def segBytes : Option SegReg → List Byte
  | none => []
  | some .es => [0x26]
  | some .cs => [0x2E]
  | some .ss => [0x36]
  | some .ds => [0x3E]

def repBytes : Option Rep → List Byte
  | none => []
  | some .repne => [0xF2]
  | some .rep => [0xF3]

/-- The prefix bytes the encoder writes: override, operand size, LOCK, repeat. -/
def prefixBytes (p : Prefixes) : List Byte :=
  segBytes p.seg ++ (if p.os32 then [0x66] else []) ++ (if p.lock then [0xF0] else []) ++ repBytes p.rep

/-! ### ModRM (30_encoding.md R149, R150, R152) -/

def modOf (b : Byte) : BitVec 2 := b.extractLsb' 6 2
def regOf (b : Byte) : BitVec 3 := b.extractLsb' 3 3
def rmOf (b : Byte) : BitVec 3 := b.extractLsb' 0 3

/-- The r/m operand of a ModRM byte, with its displacement. -/
def parseRM (b : Byte) : Parser RM :=
  match (modOf b).toNat with
  | 0 =>
    if rmOf b = 6 then do
      let d ← Parser.word
      return .mem (.direct d)
    else return .mem (.indexed (rmOf b))
  | 1 => do
    let d ← Parser.byte
    return .mem (.indexed8 (rmOf b) d)
  | 2 => do
    let d ← Parser.word
    return .mem (.indexed16 (rmOf b) d)
  | _ => return .reg (rmOf b)

/-- The memory operand of a ModRM byte; mod 11b is invalid (R154). -/
def parseMem (b : Byte) : Parser Mem := do
  match ← parseRM b with
  | .mem m => return m
  | .reg _ => Parser.invalid

/-- A ModRM byte and its operand: the reg field and the r/m operand. -/
def parseModRM : Parser (BitVec 3 × RM) := do
  let b ← Parser.byte
  let rm ← parseRM b
  return (regOf b, rm)

/-- A ModRM byte whose operand must be in memory. -/
def parseModMem : Parser (BitVec 3 × Mem) := do
  let b ← Parser.byte
  let m ← parseMem b
  return (regOf b, m)

/-- The ModRM byte of three fields. -/
def modRMByte (mod : BitVec 2) (reg rm : BitVec 3) : Byte := mod ++ reg ++ rm

/-- The ModRM byte and the displacement of a memory operand. -/
def memBytes (reg : BitVec 3) : Mem → List Byte
  | .indexed rm => [modRMByte 0 reg rm]
  | .indexed8 rm d => [modRMByte 1 reg rm, d]
  | .indexed16 rm d => modRMByte 2 reg rm :: wordBytes d
  | .direct d => modRMByte 0 reg 6 :: wordBytes d

/-- The ModRM byte and the displacement of an r/m operand. -/
def rmBytes (reg : BitVec 3) : RM → List Byte
  | .reg r => [modRMByte 3 reg r]
  | .mem m => memBytes reg m

/-- Segment registers by number (10_state.md R45). Numbers 4 and 5 are FS and GS (R170); 6 and 7 do not exist (R171). They are
decided at the ModRM byte, before a displacement is read (notes/assumptions/15.md). -/
def parseSeg (n : BitVec 3) : Parser SegReg :=
  match n.toNat with
  | 0 => return .es
  | 1 => return .cs
  | 2 => return .ss
  | 3 => return .ds
  | 4 | 5 => Parser.unsupported .fsGs
  | _ => Parser.invalid

def segNum : SegReg → BitVec 3
  | .es => 0
  | .cs => 1
  | .ss => 2
  | .ds => 3

/-! ### Groups (30_encoding.md R155) -/

/-- The eight instructions of the ALU block and of group 1, by number. -/
def aluInstr (k : BitVec 3) (p : Prefixes) (f : AluForm) : Instr :=
  match k.toNat with
  | 0 => .add p f
  | 1 => .or p f
  | 2 => .adc p f
  | 3 => .sbb p f
  | 4 => .and p f
  | 5 => .sub p f
  | 6 => .xor p f
  | _ => .cmp p f

/-- Group 2; reg 6 is invalid. -/
def shiftInstr (k : BitVec 3) (p : Prefixes) (f : EForm) (n : ShiftCount) : Option Instr :=
  match k.toNat with
  | 0 => some (.rol p f n)
  | 1 => some (.ror p f n)
  | 2 => some (.rcl p f n)
  | 3 => some (.rcr p f n)
  | 4 => some (.shl p f n)
  | 5 => some (.shr p f n)
  | 6 => none
  | _ => some (.sar p f n)

/-- Group 3 but for TEST; reg 1 is invalid. -/
def group3Instr (k : BitVec 3) (p : Prefixes) (f : EForm) : Option Instr :=
  match k.toNat with
  | 2 => some (.not p f)
  | 3 => some (.neg p f)
  | 4 => some (.mul p f)
  | 5 => some (.imul1 p f)
  | 6 => some (.div p f)
  | 7 => some (.idiv p f)
  | _ => none

/-- The bit tests: group 8, whose first four members are invalid. -/
def bitInstr (k : BitVec 3) (p : Prefixes) (rm : RM) (i : BitIndex) : Option Instr :=
  match k.toNat with
  | 4 => some (.bt p rm i)
  | 5 => some (.bts p rm i)
  | 6 => some (.btr p rm i)
  | 7 => some (.btc p rm i)
  | _ => none

/-- A valid encoding, or InvalidOpcode. -/
def orInvalid {α : Type} : Option α → Parser α
  | some a => return a
  | none => Parser.invalid

/-- The ModRM operand as a byte form or a form of operand size, by the low bit of the opcode. -/
def eForm (wide : Bool) (rm : RM) : EForm := if wide then .ev rm else .eb rm

/-- The six forms of the ALU block by the low three bits of the opcode (R158). -/
def parseAluForm (p : Prefixes) (lo : Nat) : Parser AluForm :=
  match lo with
  | 0 => do let (r, rm) ← parseModRM; return .ebGb rm r
  | 1 => do let (r, rm) ← parseModRM; return .evGv rm r
  | 2 => do let (r, rm) ← parseModRM; return .gbEb r rm
  | 3 => do let (r, rm) ← parseModRM; return .gvEv r rm
  | 4 => do let i ← Parser.byte; return .alIb i
  | _ => do let i ← Parser.iz p; return .eaxIz i

/-- Group 1, opcodes 80h to 83h. -/
def parseGroup1 (p : Prefixes) (op : Nat) : Parser Instr := do
  let (k, rm) ← parseModRM
  match op with
  | 0x80 => do let i ← Parser.byte; return aluInstr k p (.ebIb rm i)
  | 0x81 => do let i ← Parser.iz p; return aluInstr k p (.evIz rm i)
  | 0x82 => do let i ← Parser.byte; return aluInstr k p (.ebIb82 rm i)
  | _ => do let i ← Parser.byte; return aluInstr k p (.evIbs rm i)

/-- Group 2 with an immediate count (C0h, C1h), a count of 1 (D0h, D1h) or CL (D2h, D3h). -/
def parseGroup2 (p : Prefixes) (wide : Bool) (n : Option ShiftCount) : Parser Instr := do
  let b ← Parser.byte
  if regOf b = 6 then Parser.invalid else do
    let rm ← parseRM b
    match n with
    | some n => orInvalid (shiftInstr (regOf b) p (eForm wide rm) n)
    | none => do
      let i ← Parser.byte
      orInvalid (shiftInstr (regOf b) p (eForm wide rm) (.imm i))

/-- Group 3, opcodes F6h and F7h. -/
def parseGroup3 (p : Prefixes) (wide : Bool) : Parser Instr := do
  let b ← Parser.byte
  match (regOf b).toNat with
  | 0 => do
    let rm ← parseRM b
    if wide then do
      let i ← Parser.iz p
      return .test p (.evIz rm i)
    else do
      let i ← Parser.byte
      return .test p (.ebIb rm i)
  | 1 => Parser.invalid
  | _ => do
    let rm ← parseRM b
    orInvalid (group3Instr (regOf b) p (eForm wide rm))

/-- Group 4, opcode FEh. -/
def parseGroup4 (p : Prefixes) : Parser Instr := do
  let b ← Parser.byte
  match (regOf b).toNat with
  | 0 => do let rm ← parseRM b; return .inc p (.eb rm)
  | 1 => do let rm ← parseRM b; return .dec p (.eb rm)
  | _ => Parser.invalid

/-- Group 5, opcode FFh. -/
def parseGroup5 (p : Prefixes) : Parser Instr := do
  let b ← Parser.byte
  match (regOf b).toNat with
  | 0 => do let rm ← parseRM b; return .inc p (.ev rm)
  | 1 => do let rm ← parseRM b; return .dec p (.ev rm)
  | 2 => do let rm ← parseRM b; return .callInd p rm
  | 3 => do let m ← parseMem b; return .callFarInd p m
  | 4 => do let rm ← parseRM b; return .jmpInd p rm
  | 5 => do let m ← parseMem b; return .jmpFarInd p m
  | 6 => do let rm ← parseRM b; return .push p (.rm rm)
  | _ => Parser.invalid

/-- Group 8, opcode 0Fh BAh. -/
def parseGroup8 (p : Prefixes) : Parser Instr := do
  let b ← Parser.byte
  if (regOf b).toNat < 4 then Parser.invalid else do
    let rm ← parseRM b
    let i ← Parser.byte
    orInvalid (bitInstr (regOf b) p rm (.imm i))

/-! ### The FPU maps (30_encoding.md R160, R161) -/

/-- The memory forms, by the low three bits of the escape byte and the reg field. -/
def fpuMemInstr (esc reg : Nat) (p : Prefixes) (m : Mem) : Option Instr :=
  match esc, reg with
  | 0, 0 => some (.fadd p (.m32 m))
  | 0, 1 => some (.fmul p (.m32 m))
  | 0, 2 => some (.fcom p (.m32 m))
  | 0, 3 => some (.fcomp p (.m32 m))
  | 0, 4 => some (.fsub p (.m32 m))
  | 0, 5 => some (.fsubr p (.m32 m))
  | 0, 6 => some (.fdiv p (.m32 m))
  | 0, 7 => some (.fdivr p (.m32 m))
  | 1, 0 => some (.fld p (.m32 m))
  | 1, 2 => some (.fst p (.m32 m))
  | 1, 3 => some (.fstp p (.m32 m))
  | 1, 4 => some (.fldenv p m)
  | 1, 5 => some (.fldcw p m)
  | 1, 6 => some (.fnstenv p m)
  | 1, 7 => some (.fnstcw p m)
  | 2, 0 => some (.fiadd p (.m32 m))
  | 2, 1 => some (.fimul p (.m32 m))
  | 2, 2 => some (.ficom p (.m32 m))
  | 2, 3 => some (.ficomp p (.m32 m))
  | 2, 4 => some (.fisub p (.m32 m))
  | 2, 5 => some (.fisubr p (.m32 m))
  | 2, 6 => some (.fidiv p (.m32 m))
  | 2, 7 => some (.fidivr p (.m32 m))
  | 3, 0 => some (.fild p (.m32 m))
  | 3, 2 => some (.fist p (.m32 m))
  | 3, 3 => some (.fistp p (.m32 m))
  | 3, 5 => some (.fld p (.m80 m))
  | 3, 7 => some (.fstp p (.m80 m))
  | 4, 0 => some (.fadd p (.m64 m))
  | 4, 1 => some (.fmul p (.m64 m))
  | 4, 2 => some (.fcom p (.m64 m))
  | 4, 3 => some (.fcomp p (.m64 m))
  | 4, 4 => some (.fsub p (.m64 m))
  | 4, 5 => some (.fsubr p (.m64 m))
  | 4, 6 => some (.fdiv p (.m64 m))
  | 4, 7 => some (.fdivr p (.m64 m))
  | 5, 0 => some (.fld p (.m64 m))
  | 5, 2 => some (.fst p (.m64 m))
  | 5, 3 => some (.fstp p (.m64 m))
  | 5, 4 => some (.frstor p m)
  | 5, 6 => some (.fnsave p m)
  | 5, 7 => some (.fnstsw p (.m16 m))
  | 6, 0 => some (.fiadd p (.m16 m))
  | 6, 1 => some (.fimul p (.m16 m))
  | 6, 2 => some (.ficom p (.m16 m))
  | 6, 3 => some (.ficomp p (.m16 m))
  | 6, 4 => some (.fisub p (.m16 m))
  | 6, 5 => some (.fisubr p (.m16 m))
  | 6, 6 => some (.fidiv p (.m16 m))
  | 6, 7 => some (.fidivr p (.m16 m))
  | 7, 0 => some (.fild p (.m16 m))
  | 7, 2 => some (.fist p (.m16 m))
  | 7, 3 => some (.fistp p (.m16 m))
  | 7, 4 => some (.fbld p m)
  | 7, 5 => some (.fild p (.m64 m))
  | 7, 6 => some (.fbstp p m)
  | 7, 7 => some (.fistp p (.m64 m))
  | _, _ => none

/-- The register forms whose row takes every ST(i). -/
def fpuStInstr (esc reg : Nat) (p : Prefixes) (i : BitVec 3) : Option Instr :=
  match esc, reg with
  | 0, 0 => some (.fadd p (.st0 i))
  | 0, 1 => some (.fmul p (.st0 i))
  | 0, 2 => some (.fcom p (.st i))
  | 0, 3 => some (.fcomp p (.st i))
  | 0, 4 => some (.fsub p (.st0 i))
  | 0, 5 => some (.fsubr p (.st0 i))
  | 0, 6 => some (.fdiv p (.st0 i))
  | 0, 7 => some (.fdivr p (.st0 i))
  | 1, 0 => some (.fld p (.st i))
  | 1, 1 => some (.fxch p i)
  | 4, 0 => some (.fadd p (.sti i))
  | 4, 1 => some (.fmul p (.sti i))
  | 4, 4 => some (.fsubr p (.sti i))
  | 4, 5 => some (.fsub p (.sti i))
  | 4, 6 => some (.fdivr p (.sti i))
  | 4, 7 => some (.fdiv p (.sti i))
  | 5, 0 => some (.ffree p i)
  | 5, 2 => some (.fst p (.st i))
  | 5, 3 => some (.fstp p (.st i))
  | 5, 4 => some (.fucom p i)
  | 5, 5 => some (.fucomp p i)
  | 6, 0 => some (.faddp p i)
  | 6, 1 => some (.fmulp p i)
  | 6, 4 => some (.fsubrp p i)
  | 6, 5 => some (.fsubp p i)
  | 6, 6 => some (.fdivrp p i)
  | 6, 7 => some (.fdivp p i)
  | _, _ => none

/-- The register forms that are one ModRM byte, by the escape's low three bits and that byte. -/
def fpuOneInstr (esc modrm : Nat) (p : Prefixes) : Option Instr :=
  match esc, modrm with
  | 1, 0xD0 => some (.fnop p)
  | 1, 0xE0 => some (.fchs p)
  | 1, 0xE1 => some (.fabs p)
  | 1, 0xE4 => some (.ftst p)
  | 1, 0xE5 => some (.fxam p)
  | 1, 0xE8 => some (.fld1 p)
  | 1, 0xE9 => some (.fldl2t p)
  | 1, 0xEA => some (.fldl2e p)
  | 1, 0xEB => some (.fldpi p)
  | 1, 0xEC => some (.fldlg2 p)
  | 1, 0xED => some (.fldln2 p)
  | 1, 0xEE => some (.fldz p)
  | 1, 0xF0 => some (.f2xm1 p)
  | 1, 0xF1 => some (.fyl2x p)
  | 1, 0xF2 => some (.fptan p)
  | 1, 0xF3 => some (.fpatan p)
  | 1, 0xF4 => some (.fxtract p)
  | 1, 0xF5 => some (.fprem1 p)
  | 1, 0xF6 => some (.fdecstp p)
  | 1, 0xF7 => some (.fincstp p)
  | 1, 0xF8 => some (.fprem p)
  | 1, 0xF9 => some (.fyl2xp1 p)
  | 1, 0xFA => some (.fsqrt p)
  | 1, 0xFB => some (.fsincos p)
  | 1, 0xFC => some (.frndint p)
  | 1, 0xFD => some (.fscale p)
  | 1, 0xFE => some (.fsin p)
  | 1, 0xFF => some (.fcos p)
  | 2, 0xE9 => some (.fucompp p)
  | 3, 0xE0 => some (.feni p)
  | 3, 0xE1 => some (.fdisi p)
  | 3, 0xE2 => some (.fnclex p)
  | 3, 0xE3 => some (.fninit p)
  | 3, 0xE4 => some (.fsetpm p)
  | 6, 0xD9 => some (.fcompp p)
  | 7, 0xE0 => some (.fnstsw p .ax)
  | _, _ => none

/-- An FPU escape: the ModRM byte selects a memory form or a register form (R160). An invalid cell is decided at that byte
(notes/assumptions/15.md). -/
def parseFpu (p : Prefixes) (esc : Nat) : Parser Instr := do
  let b ← Parser.byte
  if modOf b = 3 then
    match fpuStInstr esc (regOf b).toNat p (rmOf b) with
    | some i => return i
    | none => orInvalid (fpuOneInstr esc b.toNat p)
  else
    match fpuMemInstr esc (regOf b).toNat p (.direct 0) with
    | none => Parser.invalid
    | some _ => do
      let m ← parseMem b
      orInvalid (fpuMemInstr esc (regOf b).toNat p m)

/-! ### The opcode maps (30_encoding.md R158, R159) -/

/-- The two-byte map, after 0Fh (R159). The rows of missing features are decided at the second byte. -/
def parseTwoByte (p : Prefixes) : Parser Instr := do
  let b ← Parser.byte
  if systemOp b then return .system p b
  else match b.extractLsb' 4 4 with
  | 8#4 => do let d ← Parser.iz p; return .jccNear p (b.extractLsb' 0 4) d
  | 9#4 => do let (_, rm) ← parseModRM; return .setcc p (b.extractLsb' 0 4) rm
  | _ =>
    match b.toNat with
    | 0xA0 => return .pushFs p
    | 0xA1 => return .popFs p
    | 0xA3 => do let (r, rm) ← parseModRM; return .bt p rm (.reg r)
    | 0xA4 => do let (r, rm) ← parseModRM; let i ← Parser.byte; return .shld p rm r (.imm i)
    | 0xA5 => do let (r, rm) ← parseModRM; return .shld p rm r .cl
    | 0xA8 => return .pushGs p
    | 0xA9 => return .popGs p
    | 0xAB => do let (r, rm) ← parseModRM; return .bts p rm (.reg r)
    | 0xAC => do let (r, rm) ← parseModRM; let i ← Parser.byte; return .shrd p rm r (.imm i)
    | 0xAD => do let (r, rm) ← parseModRM; return .shrd p rm r .cl
    | 0xAF => do let (r, rm) ← parseModRM; return .imul2 p r rm
    | 0xB2 => do let (r, m) ← parseModMem; return .lss p r m
    | 0xB3 => do let (r, rm) ← parseModRM; return .btr p rm (.reg r)
    | 0xB4 => return .lfs p
    | 0xB5 => return .lgs p
    | 0xB6 => do let (r, rm) ← parseModRM; return .movzx p r false rm
    | 0xB7 => do let (r, rm) ← parseModRM; return .movzx p r true rm
    | 0xBA => parseGroup8 p
    | 0xBB => do let (r, rm) ← parseModRM; return .btc p rm (.reg r)
    | 0xBC => do let (r, rm) ← parseModRM; return .bsf p r rm
    | 0xBD => do let (r, rm) ← parseModRM; return .bsr p r rm
    | 0xBE => do let (r, rm) ← parseModRM; return .movsx p r false rm
    | 0xBF => do let (r, rm) ← parseModRM; return .movsx p r true rm
    | _ => Parser.invalid

/-- The rows of the one-byte map that are single opcodes (R158). 8Ch and 8Eh decide their segment register at the ModRM byte, before
a displacement is read (R171, notes/assumptions/15.md). -/
def parseSingle (p : Prefixes) (op : Nat) : Parser Instr :=
  match op with
  | 0x06 => return .pushSeg p .es
  | 0x07 => return .popSeg p .es
  | 0x0E => return .pushSeg p .cs
  | 0x0F => parseTwoByte p
  | 0x16 => return .pushSeg p .ss
  | 0x17 => return .popSeg p .ss
  | 0x1E => return .pushSeg p .ds
  | 0x1F => return .popSeg p .ds
  | 0x27 => return .daa p
  | 0x2F => return .das p
  | 0x37 => return .aaa p
  | 0x3F => return .aas p
  | 0x60 => return .pusha p
  | 0x61 => return .popa p
  | 0x62 => do let (r, m) ← parseModMem; return .bound p r m
  | 0x63 => return .arpl p
  | 0x68 => do let i ← Parser.iz p; return .pushImm p (.iz i)
  | 0x69 => do let (r, rm) ← parseModRM; let i ← Parser.iz p; return .imul3 p r rm (.iz i)
  | 0x6A => do let i ← Parser.byte; return .pushImm p (.ibs i)
  | 0x6B => do let (r, rm) ← parseModRM; let i ← Parser.byte; return .imul3 p r rm (.ibs i)
  | 0x6C => return .insb p
  | 0x6D => return .insw p
  | 0x6E => return .outsb p
  | 0x6F => return .outsw p
  | 0x80 | 0x81 | 0x82 | 0x83 => parseGroup1 p op
  | 0x84 => do let (r, rm) ← parseModRM; return .test p (.ebGb rm r)
  | 0x85 => do let (r, rm) ← parseModRM; return .test p (.evGv rm r)
  | 0x86 => do let (r, rm) ← parseModRM; return .xchg p (.ebGb rm r)
  | 0x87 => do let (r, rm) ← parseModRM; return .xchg p (.evGv rm r)
  | 0x88 => do let (r, rm) ← parseModRM; return .mov p (.ebGb rm r)
  | 0x89 => do let (r, rm) ← parseModRM; return .mov p (.evGv rm r)
  | 0x8A => do let (r, rm) ← parseModRM; return .mov p (.gbEb r rm)
  | 0x8B => do let (r, rm) ← parseModRM; return .mov p (.gvEv r rm)
  | 0x8C => do let b ← Parser.byte; let sr ← parseSeg (regOf b); let rm ← parseRM b; return .movFromSeg p rm sr
  | 0x8D => do let (r, m) ← parseModMem; return .lea p r m
  | 0x8E => do
    let b ← Parser.byte
    let sr ← parseSeg (regOf b)
    if sr = .cs then Parser.invalid else do
      let rm ← parseRM b
      return .movToSeg p sr rm
  | 0x8F => do
    let b ← Parser.byte
    if regOf b = 0 then do
      let rm ← parseRM b
      return .pop p (.rm rm)
    else Parser.invalid
  | 0x98 => return .cbw p
  | 0x99 => return .cwd p
  | 0x9A => do let off ← Parser.iz p; let seg ← Parser.word; return .callFar p off seg
  | 0x9B => return .wait p
  | 0x9C => return .pushf p
  | 0x9D => return .popf p
  | 0x9E => return .sahf p
  | 0x9F => return .lahf p
  | 0xA0 => do let o ← Parser.word; return .movMoffs p (.alOb o)
  | 0xA1 => do let o ← Parser.word; return .movMoffs p (.eaxOv o)
  | 0xA2 => do let o ← Parser.word; return .movMoffs p (.obAl o)
  | 0xA3 => do let o ← Parser.word; return .movMoffs p (.ovEax o)
  | 0xA4 => return .movsb p
  | 0xA5 => return .movsw p
  | 0xA6 => return .cmpsb p
  | 0xA7 => return .cmpsw p
  | 0xA8 => do let i ← Parser.byte; return .test p (.alIb i)
  | 0xA9 => do let i ← Parser.iz p; return .test p (.eaxIz i)
  | 0xAA => return .stosb p
  | 0xAB => return .stosw p
  | 0xAC => return .lodsb p
  | 0xAD => return .lodsw p
  | 0xAE => return .scasb p
  | 0xAF => return .scasw p
  | 0xC0 => parseGroup2 p false none
  | 0xC1 => parseGroup2 p true none
  | 0xC2 => do let n ← Parser.word; return .ret p (some n)
  | 0xC3 => return .ret p none
  | 0xC4 => do let (r, m) ← parseModMem; return .les p r m
  | 0xC5 => do let (r, m) ← parseModMem; return .lds p r m
  | 0xC6 => do
    let b ← Parser.byte
    if regOf b = 0 then do
      let rm ← parseRM b
      let i ← Parser.byte
      return .mov p (.ebIb rm i)
    else Parser.invalid
  | 0xC7 => do
    let b ← Parser.byte
    if regOf b = 0 then do
      let rm ← parseRM b
      let i ← Parser.iz p
      return .mov p (.evIz rm i)
    else Parser.invalid
  | 0xC8 => do let n ← Parser.word; let l ← Parser.byte; return .enter p n l
  | 0xC9 => return .leave p
  | 0xCA => do let n ← Parser.word; return .retf p (some n)
  | 0xCB => return .retf p none
  | 0xCC => return .int3 p
  | 0xCD => do let v ← Parser.byte; return .int p v
  | 0xCE => return .into p
  | 0xCF => return .iret p
  | 0xD0 => parseGroup2 p false (some .one)
  | 0xD1 => parseGroup2 p true (some .one)
  | 0xD2 => parseGroup2 p false (some .cl)
  | 0xD3 => parseGroup2 p true (some .cl)
  | 0xD4 => do let i ← Parser.byte; return .aam p i
  | 0xD5 => do let i ← Parser.byte; return .aad p i
  | 0xD7 => return .xlat p
  | 0xE0 => do let d ← Parser.byte; return .loopne p d
  | 0xE1 => do let d ← Parser.byte; return .loope p d
  | 0xE2 => do let d ← Parser.byte; return .loop p d
  | 0xE3 => do let d ← Parser.byte; return .jcxz p d
  | 0xE4 => do let i ← Parser.byte; return .inPort p false (.imm i)
  | 0xE5 => do let i ← Parser.byte; return .inPort p true (.imm i)
  | 0xE6 => do let i ← Parser.byte; return .outPort p false (.imm i)
  | 0xE7 => do let i ← Parser.byte; return .outPort p true (.imm i)
  | 0xE8 => do let d ← Parser.iz p; return .callRel p d
  | 0xE9 => do let d ← Parser.iz p; return .jmpRel p (.jz d)
  | 0xEA => do let off ← Parser.iz p; let seg ← Parser.word; return .jmpFar p off seg
  | 0xEB => do let d ← Parser.byte; return .jmpRel p (.jb d)
  | 0xEC => return .inPort p false .dx
  | 0xED => return .inPort p true .dx
  | 0xEE => return .outPort p false .dx
  | 0xEF => return .outPort p true .dx
  | 0xF4 => return .hlt p
  | 0xF5 => return .cmc p
  | 0xF6 => parseGroup3 p false
  | 0xF7 => parseGroup3 p true
  | 0xF8 => return .clc p
  | 0xF9 => return .stc p
  | 0xFA => return .cli p
  | 0xFB => return .sti p
  | 0xFC => return .cld p
  | 0xFD => return .std p
  | 0xFE => parseGroup4 p
  | 0xFF => parseGroup5 p
  | _ => Parser.invalid

/-- The rows of the one-byte map that take eight or sixteen opcodes, and the ALU block; else the single opcodes
(R158). -/
def parseOpcode (p : Prefixes) (op : Byte) : Parser Instr :=
  let lo := op.extractLsb' 0 3
  match op.extractLsb' 3 5 with
  | 0x00#5 | 0x01#5 | 0x02#5 | 0x03#5 | 0x04#5 | 0x05#5 | 0x06#5 | 0x07#5 =>
    if lo.toNat < 6 then do
      let f ← parseAluForm p lo.toNat
      return aluInstr (op.extractLsb' 3 3) p f
    else parseSingle p op.toNat
  | 0x08#5 => return .inc p (.reg lo)
  | 0x09#5 => return .dec p (.reg lo)
  | 0x0A#5 => return .push p (.reg lo)
  | 0x0B#5 => return .pop p (.reg lo)
  | 0x0E#5 | 0x0F#5 => do let d ← Parser.byte; return .jccShort p (op.extractLsb' 0 4) d
  | 0x12#5 => return if lo = 0 then .nop p else .xchg p (.eaxGv lo)
  | 0x16#5 => do let i ← Parser.byte; return .mov p (.gbIb lo i)
  | 0x17#5 => do let i ← Parser.iz p; return .mov p (.gvIz lo i)
  | 0x1B#5 => parseFpu p lo.toNat
  | _ => parseSingle p op.toNat

/-- Decode the instruction at the front of the bytes, with the bytes after it. LOCK before an instruction that R470 does
not list is InvalidOpcode. -/
def decode (bytes : List Byte) : Except Reject (Instr × List Byte) := do
  let ((p, op), rest) ← parsePrefixes .none bytes
  let (i, rest) ← parseOpcode p op rest
  if p.lock && !i.lockable then .error (.invalid rest) else .ok (i, rest)

/-! ### The encoder -/

def aluFormBytes (k : BitVec 3) (p : Prefixes) : AluForm → List Byte
  | .ebGb rm r => (0#2 ++ k ++ 0#3) :: rmBytes r rm
  | .evGv rm r => (0#2 ++ k ++ 1#3) :: rmBytes r rm
  | .gbEb r rm => (0#2 ++ k ++ 2#3) :: rmBytes r rm
  | .gvEv r rm => (0#2 ++ k ++ 3#3) :: rmBytes r rm
  | .alIb i => [0#2 ++ k ++ 4#3, i]
  | .eaxIz i => (0#2 ++ k ++ 5#3) :: izBytes p i
  | .ebIb rm i => 0x80 :: rmBytes k rm ++ [i]
  | .evIz rm i => 0x81 :: rmBytes k rm ++ izBytes p i
  | .ebIb82 rm i => 0x82 :: rmBytes k rm ++ [i]
  | .evIbs rm i => 0x83 :: rmBytes k rm ++ [i]

def movFormBytes (p : Prefixes) : MovForm → List Byte
  | .ebGb rm r => 0x88 :: rmBytes r rm
  | .evGv rm r => 0x89 :: rmBytes r rm
  | .gbEb r rm => 0x8A :: rmBytes r rm
  | .gvEv r rm => 0x8B :: rmBytes r rm
  | .gbIb r i => [0x16#5 ++ r, i]
  | .gvIz r i => (0x17#5 ++ r) :: izBytes p i
  | .ebIb rm i => 0xC6 :: rmBytes 0 rm ++ [i]
  | .evIz rm i => 0xC7 :: rmBytes 0 rm ++ izBytes p i

def moffsFormBytes : MoffsForm → List Byte
  | .alOb o => 0xA0 :: wordBytes o
  | .eaxOv o => 0xA1 :: wordBytes o
  | .obAl o => 0xA2 :: wordBytes o
  | .ovEax o => 0xA3 :: wordBytes o

def xchgFormBytes : XchgForm → List Byte
  | .ebGb rm r => 0x86 :: rmBytes r rm
  | .evGv rm r => 0x87 :: rmBytes r rm
  | .eaxGv r => [0x12#5 ++ r]

def pushFormBytes : StackForm → List Byte
  | .reg r => [0x0A#5 ++ r]
  | .rm e => 0xFF :: rmBytes 6 e

def popFormBytes : StackForm → List Byte
  | .reg r => [0x0B#5 ++ r]
  | .rm e => 0x8F :: rmBytes 0 e

def immFormBytes (opIz opIb : Byte) (mid : List Byte) (p : Prefixes) : ImmForm → List Byte
  | .iz i => opIz :: mid ++ izBytes p i
  | .ibs i => opIb :: mid ++ [i]

/-- INC (k = 0) and DEC (k = 1). -/
def incFormBytes (k : BitVec 3) (base : BitVec 5) : IncForm → List Byte
  | .eb rm => 0xFE :: rmBytes k rm
  | .ev rm => 0xFF :: rmBytes k rm
  | .reg r => [base ++ r]

/-- A group-3 instruction. -/
def group3Bytes (k : BitVec 3) : EForm → List Byte
  | .eb rm => 0xF6 :: rmBytes k rm
  | .ev rm => 0xF7 :: rmBytes k rm

def testFormBytes (p : Prefixes) : TestForm → List Byte
  | .ebGb rm r => 0x84 :: rmBytes r rm
  | .evGv rm r => 0x85 :: rmBytes r rm
  | .alIb i => [0xA8, i]
  | .eaxIz i => 0xA9 :: izBytes p i
  | .ebIb rm i => 0xF6 :: rmBytes 0 rm ++ [i]
  | .evIz rm i => 0xF7 :: rmBytes 0 rm ++ izBytes p i

/-- A group-2 instruction. -/
def shiftBytes (k : BitVec 3) : EForm → ShiftCount → List Byte
  | .eb rm, .imm i => 0xC0 :: rmBytes k rm ++ [i]
  | .ev rm, .imm i => 0xC1 :: rmBytes k rm ++ [i]
  | .eb rm, .one => 0xD0 :: rmBytes k rm
  | .ev rm, .one => 0xD1 :: rmBytes k rm
  | .eb rm, .cl => 0xD2 :: rmBytes k rm
  | .ev rm, .cl => 0xD3 :: rmBytes k rm

/-- SHLD and SHRD: the opcode of the immediate form is followed by that of the CL form. -/
def dblBytes (opImm opCl : Byte) (rm : RM) (r : BitVec 3) : DblCount → List Byte
  | .imm i => [0x0F, opImm] ++ rmBytes r rm ++ [i]
  | .cl => [0x0F, opCl] ++ rmBytes r rm

/-- The bit tests: a register index under an opcode of its own, an immediate one in group 8. -/
def bitBytes (op : Byte) (k : BitVec 3) (rm : RM) : BitIndex → List Byte
  | .reg r => [0x0F, op] ++ rmBytes r rm
  | .imm i => [0x0F, 0xBA] ++ rmBytes k rm ++ [i]

def portBytes (opImm opDx : Byte) : Port → List Byte
  | .imm i => [opImm, i]
  | .dx => [opDx]

def fArithBytes (k kRev : BitVec 3) : FArith → List Byte
  | .m32 m => 0xD8 :: memBytes k m
  | .m64 m => 0xDC :: memBytes k m
  | .st0 i => [0xD8, modRMByte 3 k i]
  | .sti i => [0xDC, modRMByte 3 kRev i]

def fIntBytes (esc32 esc16 : Byte) (k : BitVec 3) : FInt → List Byte
  | .m16 m => esc16 :: memBytes k m
  | .m32 m => esc32 :: memBytes k m

def fCmpBytes (k : BitVec 3) : FCmp → List Byte
  | .m32 m => 0xD8 :: memBytes k m
  | .m64 m => 0xDC :: memBytes k m
  | .st i => [0xD8, modRMByte 3 k i]

def fLoadBytes : FLoad → List Byte
  | .m32 m => 0xD9 :: memBytes 0 m
  | .m64 m => 0xDD :: memBytes 0 m
  | .m80 m => 0xDB :: memBytes 5 m
  | .st i => [0xD9, modRMByte 3 0 i]

def fStoreBytes : FStore → List Byte
  | .m32 m => 0xD9 :: memBytes 2 m
  | .m64 m => 0xDD :: memBytes 2 m
  | .st i => [0xDD, modRMByte 3 2 i]

def fStorePBytes : FStoreP → List Byte
  | .m32 m => 0xD9 :: memBytes 3 m
  | .m64 m => 0xDD :: memBytes 3 m
  | .m80 m => 0xDB :: memBytes 7 m
  | .st i => [0xDD, modRMByte 3 3 i]

def fInt3Bytes (k16 k32 k64 : BitVec 3) : FInt3 → List Byte
  | .m16 m => 0xDF :: memBytes k16 m
  | .m32 m => 0xDB :: memBytes k32 m
  | .m64 m => 0xDF :: memBytes k64 m

/-- The bytes of an instruction after its prefixes. -/
def bodyBytes : Instr → List Byte
  | .mov p f => movFormBytes p f
  | .movMoffs _ f => moffsFormBytes f
  | .movFromSeg _ rm sr => 0x8C :: rmBytes (segNum sr) rm
  | .movToSeg _ sr rm => 0x8E :: rmBytes (segNum sr) rm
  | .xchg _ f => xchgFormBytes f
  | .push _ f => pushFormBytes f
  | .pushImm p f => immFormBytes 0x68 0x6A [] p f
  | .pushSeg _ sr => [0#3 ++ (segNum sr).setWidth 2 ++ 6#3]
  | .pushFs _ => [0x0F, 0xA0]
  | .pushGs _ => [0x0F, 0xA8]
  | .pop _ f => popFormBytes f
  | .popSeg _ sr => [0#3 ++ (segNum sr).setWidth 2 ++ 7#3]
  | .popFs _ => [0x0F, 0xA1]
  | .popGs _ => [0x0F, 0xA9]
  | .pusha _ => [0x60]
  | .popa _ => [0x61]
  | .pushf _ => [0x9C]
  | .popf _ => [0x9D]
  | .lds _ r m => 0xC5 :: memBytes r m
  | .les _ r m => 0xC4 :: memBytes r m
  | .lss _ r m => [0x0F, 0xB2] ++ memBytes r m
  | .lfs _ => [0x0F, 0xB4]
  | .lgs _ => [0x0F, 0xB5]
  | .lea _ r m => 0x8D :: memBytes r m
  | .xlat _ => [0xD7]
  | .lahf _ => [0x9F]
  | .sahf _ => [0x9E]
  | .cbw _ => [0x98]
  | .cwd _ => [0x99]
  | .movzx _ r wide rm => [0x0F, if wide then 0xB7 else 0xB6] ++ rmBytes r rm
  | .movsx _ r wide rm => [0x0F, if wide then 0xBF else 0xBE] ++ rmBytes r rm
  | .inPort _ wide s => if wide then portBytes 0xE5 0xED s else portBytes 0xE4 0xEC s
  | .outPort _ wide d => if wide then portBytes 0xE7 0xEF d else portBytes 0xE6 0xEE d
  | .add p f => aluFormBytes 0 p f
  | .or p f => aluFormBytes 1 p f
  | .adc p f => aluFormBytes 2 p f
  | .sbb p f => aluFormBytes 3 p f
  | .and p f => aluFormBytes 4 p f
  | .sub p f => aluFormBytes 5 p f
  | .xor p f => aluFormBytes 6 p f
  | .cmp p f => aluFormBytes 7 p f
  | .inc _ f => incFormBytes 0 0x08 f
  | .dec _ f => incFormBytes 1 0x09 f
  | .not _ f => group3Bytes 2 f
  | .neg _ f => group3Bytes 3 f
  | .mul _ f => group3Bytes 4 f
  | .imul1 _ f => group3Bytes 5 f
  | .div _ f => group3Bytes 6 f
  | .idiv _ f => group3Bytes 7 f
  | .imul2 _ r rm => [0x0F, 0xAF] ++ rmBytes r rm
  | .imul3 p r rm i => immFormBytes 0x69 0x6B (rmBytes r rm) p i
  | .daa _ => [0x27]
  | .das _ => [0x2F]
  | .aaa _ => [0x37]
  | .aas _ => [0x3F]
  | .aam _ i => [0xD4, i]
  | .aad _ i => [0xD5, i]
  | .test p f => testFormBytes p f
  | .rol _ f n => shiftBytes 0 f n
  | .ror _ f n => shiftBytes 1 f n
  | .rcl _ f n => shiftBytes 2 f n
  | .rcr _ f n => shiftBytes 3 f n
  | .shl _ f n => shiftBytes 4 f n
  | .shr _ f n => shiftBytes 5 f n
  | .sar _ f n => shiftBytes 7 f n
  | .shld _ rm r n => dblBytes 0xA4 0xA5 rm r n
  | .shrd _ rm r n => dblBytes 0xAC 0xAD rm r n
  | .bt _ rm i => bitBytes 0xA3 4 rm i
  | .bts _ rm i => bitBytes 0xAB 5 rm i
  | .btr _ rm i => bitBytes 0xB3 6 rm i
  | .btc _ rm i => bitBytes 0xBB 7 rm i
  | .bsf _ r rm => [0x0F, 0xBC] ++ rmBytes r rm
  | .bsr _ r rm => [0x0F, 0xBD] ++ rmBytes r rm
  | .setcc _ cc rm => [0x0F, 9#4 ++ cc] ++ rmBytes 0 rm
  | .movsb _ => [0xA4]
  | .movsw _ => [0xA5]
  | .cmpsb _ => [0xA6]
  | .cmpsw _ => [0xA7]
  | .stosb _ => [0xAA]
  | .stosw _ => [0xAB]
  | .lodsb _ => [0xAC]
  | .lodsw _ => [0xAD]
  | .scasb _ => [0xAE]
  | .scasw _ => [0xAF]
  | .insb _ => [0x6C]
  | .insw _ => [0x6D]
  | .outsb _ => [0x6E]
  | .outsw _ => [0x6F]
  | .jmpRel _ (.jb d) => [0xEB, d]
  | .jmpRel p (.jz d) => 0xE9 :: izBytes p d
  | .jmpInd _ rm => 0xFF :: rmBytes 4 rm
  | .jmpFar p off seg => 0xEA :: izBytes p off ++ wordBytes seg
  | .jmpFarInd _ m => 0xFF :: memBytes 5 m
  | .jccShort _ cc d => [7#4 ++ cc, d]
  | .jccNear p cc d => [0x0F, 8#4 ++ cc] ++ izBytes p d
  | .jcxz _ d => [0xE3, d]
  | .loop _ d => [0xE2, d]
  | .loope _ d => [0xE1, d]
  | .loopne _ d => [0xE0, d]
  | .callRel p d => 0xE8 :: izBytes p d
  | .callInd _ rm => 0xFF :: rmBytes 2 rm
  | .callFar p off seg => 0x9A :: izBytes p off ++ wordBytes seg
  | .callFarInd _ m => 0xFF :: memBytes 3 m
  | .ret _ none => [0xC3]
  | .ret _ (some n) => 0xC2 :: wordBytes n
  | .retf _ none => [0xCB]
  | .retf _ (some n) => 0xCA :: wordBytes n
  | .int _ v => [0xCD, v]
  | .int3 _ => [0xCC]
  | .into _ => [0xCE]
  | .iret _ => [0xCF]
  | .enter _ n l => 0xC8 :: wordBytes n ++ [l]
  | .leave _ => [0xC9]
  | .bound _ r m => 0x62 :: memBytes r m
  | .clc _ => [0xF8]
  | .stc _ => [0xF9]
  | .cmc _ => [0xF5]
  | .cld _ => [0xFC]
  | .std _ => [0xFD]
  | .cli _ => [0xFA]
  | .sti _ => [0xFB]
  | .nop _ => [0x90]
  | .hlt _ => [0xF4]
  | .wait _ => [0x9B]
  | .arpl _ => [0x63]
  | .system _ op2 => [0x0F, op2]
  | .fld _ f => fLoadBytes f
  | .fild _ f => fInt3Bytes 0 0 5 f
  | .fbld _ m => 0xDF :: memBytes 4 m
  | .fst _ f => fStoreBytes f
  | .fstp _ f => fStorePBytes f
  | .fist _ f => fIntBytes 0xDB 0xDF 2 f
  | .fistp _ f => fInt3Bytes 3 3 7 f
  | .fbstp _ m => 0xDF :: memBytes 6 m
  | .fxch _ i => [0xD9, modRMByte 3 1 i]
  | .fadd _ f => fArithBytes 0 0 f
  | .faddp _ i => [0xDE, modRMByte 3 0 i]
  | .fiadd _ f => fIntBytes 0xDA 0xDE 0 f
  | .fsub _ f => fArithBytes 4 5 f
  | .fsubp _ i => [0xDE, modRMByte 3 5 i]
  | .fisub _ f => fIntBytes 0xDA 0xDE 4 f
  | .fsubr _ f => fArithBytes 5 4 f
  | .fsubrp _ i => [0xDE, modRMByte 3 4 i]
  | .fisubr _ f => fIntBytes 0xDA 0xDE 5 f
  | .fmul _ f => fArithBytes 1 1 f
  | .fmulp _ i => [0xDE, modRMByte 3 1 i]
  | .fimul _ f => fIntBytes 0xDA 0xDE 1 f
  | .fdiv _ f => fArithBytes 6 7 f
  | .fdivp _ i => [0xDE, modRMByte 3 7 i]
  | .fidiv _ f => fIntBytes 0xDA 0xDE 6 f
  | .fdivr _ f => fArithBytes 7 6 f
  | .fdivrp _ i => [0xDE, modRMByte 3 6 i]
  | .fidivr _ f => fIntBytes 0xDA 0xDE 7 f
  | .fsqrt _ => [0xD9, 0xFA]
  | .fabs _ => [0xD9, 0xE1]
  | .fchs _ => [0xD9, 0xE0]
  | .frndint _ => [0xD9, 0xFC]
  | .fscale _ => [0xD9, 0xFD]
  | .fxtract _ => [0xD9, 0xF4]
  | .fprem _ => [0xD9, 0xF8]
  | .fprem1 _ => [0xD9, 0xF5]
  | .fcom _ f => fCmpBytes 2 f
  | .fcomp _ f => fCmpBytes 3 f
  | .fcompp _ => [0xDE, 0xD9]
  | .fucom _ i => [0xDD, modRMByte 3 4 i]
  | .fucomp _ i => [0xDD, modRMByte 3 5 i]
  | .fucompp _ => [0xDA, 0xE9]
  | .ficom _ f => fIntBytes 0xDA 0xDE 2 f
  | .ficomp _ f => fIntBytes 0xDA 0xDE 3 f
  | .ftst _ => [0xD9, 0xE4]
  | .fxam _ => [0xD9, 0xE5]
  | .f2xm1 _ => [0xD9, 0xF0]
  | .fyl2x _ => [0xD9, 0xF1]
  | .fyl2xp1 _ => [0xD9, 0xF9]
  | .fptan _ => [0xD9, 0xF2]
  | .fpatan _ => [0xD9, 0xF3]
  | .fsin _ => [0xD9, 0xFE]
  | .fcos _ => [0xD9, 0xFF]
  | .fsincos _ => [0xD9, 0xFB]
  | .fld1 _ => [0xD9, 0xE8]
  | .fldl2t _ => [0xD9, 0xE9]
  | .fldl2e _ => [0xD9, 0xEA]
  | .fldpi _ => [0xD9, 0xEB]
  | .fldlg2 _ => [0xD9, 0xEC]
  | .fldln2 _ => [0xD9, 0xED]
  | .fldz _ => [0xD9, 0xEE]
  | .fldcw _ m => 0xD9 :: memBytes 5 m
  | .fnstcw _ m => 0xD9 :: memBytes 7 m
  | .fnstsw _ (.m16 m) => 0xDD :: memBytes 7 m
  | .fnstsw _ .ax => [0xDF, 0xE0]
  | .fnclex _ => [0xDB, 0xE2]
  | .fninit _ => [0xDB, 0xE3]
  | .fldenv _ m => 0xD9 :: memBytes 4 m
  | .fnstenv _ m => 0xD9 :: memBytes 6 m
  | .frstor _ m => 0xDD :: memBytes 4 m
  | .fnsave _ m => 0xDD :: memBytes 6 m
  | .fincstp _ => [0xD9, 0xF7]
  | .fdecstp _ => [0xD9, 0xF6]
  | .ffree _ i => [0xDD, modRMByte 3 0 i]
  | .fnop _ => [0xD9, 0xD0]
  | .feni _ => [0xDB, 0xE0]
  | .fdisi _ => [0xDB, 0xE1]
  | .fsetpm _ => [0xDB, 0xE4]

/-- The bytes of a well-formed instruction: its prefixes in one order, then its opcode and operands. -/
def encode (i : Instr) : List Byte := prefixBytes i.prefixes ++ bodyBytes i

/-! ### The opcode table's numbering -/

/-- The first `n` bytes of a number, the byte of bits 7..0 first. -/
def numBytes : Nat → Nat → List Byte
  | 0, _ => []
  | n + 1, w => BitVec.ofNat 8 w :: numBytes n (w / 256)

/-- The bytes of an instruction whose bits the opcode table numbers `w`, with zeros up to the longest instruction, 15
bytes (notes/assumptions/16.md). -/
def tableBytes (nbits w : Nat) : List Byte :=
  numBytes (nbits / 8) w ++ List.replicate (15 - nbits / 8) 0

/-- What the decoder reads from the bits `w` of an opcode-table row. -/
def decodeTableWord (nbits w : Nat) : Option Instr :=
  match decode (tableBytes nbits w) with
  | .ok (i, _) => some i
  | .error _ => none

end Sys2Proof
end

