-- ==== Sys2Proof/Machine/Float.lean ====
section
/-! DEFINITION. The arithmetic of the FPU on values alone: formats and classes (46_fpu_model.md R500 to R506), rounding and
delivery (R507 to R510), the checks of operands (R513 to R517) and the operation tables (R521 to R530). -/

namespace Sys2Proof.Machine

/-! ### Formats and classes -/

/-- A value in the double-extended format (R500). -/
abbrev F80 := BitVec 80

/-- The biased exponent, bits 78:64. -/
def F80.exp (x : F80) : Nat := (x.extractLsb' 64 15).toNat

/-- The significand, bits 63:0, with its explicit integer bit. -/
def F80.sig (x : F80) : Nat := (x.extractLsb' 0 64).toNat

/-- The sign, bit 79. -/
def F80.neg (x : F80) : Bool := x.getLsbD 79

/-- A double-extended value from its three fields. -/
def F80.mk (neg : Bool) (exp sig : Nat) : F80 := BitVec.ofBool neg ++ BitVec.ofNat 15 exp ++ BitVec.ofNat 64 sig

/-- The classes of R502. A pseudo-denormal counts as a denormal; unnormals, pseudo-infinities and pseudo-NaNs are
unsupported. -/
inductive FClass where
  | zero
  | denormal
  | normal
  | infinity
  | qnan
  | snan
  | unsupported
deriving DecidableEq, Repr

/-- The class of an extended value (R502). -/
def F80.cls (x : F80) : FClass :=
  if x.exp = 0 then (if x.sig = 0 then .zero else .denormal)
  else if x.getLsbD 63 = false then .unsupported
  else if x.exp < 0x7FFF then .normal
  else if x.sig = 2 ^ 63 then .infinity
  else if x.getLsbD 62 then .qnan
  else .snan

/-- A NaN, quieted: the top fraction bit is set (R503). -/
def F80.quiet (x : F80) : F80 := x ||| (1#80 <<< 62)

/-- The sign of a value flipped. -/
def F80.flip (x : F80) : F80 := x ^^^ (1#80 <<< 79)

/-- A zero of a sign. -/
def F80.zero (neg : Bool) : F80 := F80.mk neg 0 0

/-- An infinity of a sign (R510). -/
def F80.inf (neg : Bool) : F80 := F80.mk neg 0x7FFF (2 ^ 63)

/-- The real indefinite (R504). -/
def F80.indefinite : F80 := 0xFFFFC000000000000000

/-- +1.0. -/
def F80.one : F80 := 0x3FFF8000000000000000

/-- The exact value (-1)^neg * mant * 2^exp of a finite class (R503); equal values have equal fields, since only one
exponent fits a value of the format. -/
structure ExactVal where
  neg  : Bool
  mant : Nat
  exp  : Int
deriving DecidableEq, Repr

/-- `val(x)` of a finite value (R503). -/
def F80.val (x : F80) : ExactVal where
  neg := x.neg
  mant := x.sig
  exp := (if x.exp = 0 then 1 else (x.exp : Int)) - 16446

/-- The exponent of the leading bit of a nonzero value. -/
def ExactVal.top (v : ExactVal) : Int := (Nat.log2 v.mant : Int) + v.exp

/-! ### Rounding (R507) -/

/-- The rounding modes of CW.RC (10_state.md R68). -/
inductive Rc where
  | nearest
  | down
  | up
  | zero
deriving DecidableEq, Repr

/-- The magnitude of an exact real: m * 2^e, or with `sticky` something above it and below (m + 1) * 2^e. With `sticky`, m
has at least 67 bits, so that every rounding to at most 64 bits sees what it needs. -/
structure Approx where
  m      : Nat
  e      : Int
  sticky : Bool
deriving DecidableEq, Repr

/-- A rounded magnitude k * 2^q: whether it differs from the exact one, and whether it exceeds it. -/
structure Rounded where
  k       : Nat
  q       : Int
  inexact : Bool
  above   : Bool
deriving DecidableEq, Repr

/-- The rounding goes away from zero, by RC and the sign (R507): `odd` is the last kept bit, `cmp` compares the discarded
part with one half. -/
def roundsUp (rc : Rc) (neg odd : Bool) (cmp : Ordering) (inexact : Bool) : Bool :=
  match rc with
  | .nearest =>
    match cmp with
    | .gt => true
    | .eq => odd
    | .lt => false
  | .down => neg && inexact
  | .up => !neg && inexact
  | .zero => false

/-- The comparison of a discarded part with one half of 2^sh. -/
def halfCmp (rem sh : Nat) (sticky : Bool) : Ordering :=
  match compare (2 * rem) (2 ^ sh) with
  | .eq => if sticky then .gt else .eq
  | o => o

/-- The multiple of 2^q that RC selects for a magnitude (R507). -/
def roundAt (rc : Rc) (neg : Bool) (a : Approx) (q : Int) : Rounded :=
  if q ≤ a.e then
    { k := a.m * 2 ^ (a.e - q).toNat, q := q, inexact := a.sticky, above := false }
  else
    let sh := (q - a.e).toNat
    let k := a.m / 2 ^ sh
    let rem := a.m % 2 ^ sh
    let inexact := rem != 0 || a.sticky
    let up := roundsUp rc neg (k.testBit 0) (halfCmp rem sh a.sticky) inexact
    { k := if up then k + 1 else k, q := q, inexact := inexact, above := up }

/-- The exponent of the leading bit of a nonzero magnitude. -/
def Approx.top (a : Approx) : Int := (Nat.log2 a.m : Int) + a.e

/-- `RoundU(x, p, RC)`, with no exponent limit (R507). -/
def roundU (rc : Rc) (neg : Bool) (p : Nat) (a : Approx) : Rounded := roundAt rc neg a (a.top - p + 1)

/-- `Round(x, p, emin, RC)` (R507). -/
def roundE (rc : Rc) (neg : Bool) (p : Nat) (emin : Int) (a : Approx) : Rounded :=
  roundAt rc neg a (max (a.top - p + 1) (emin - p + 1))

/-- The exponent of the leading bit of a nonzero rounded magnitude. -/
def Rounded.top (r : Rounded) : Int := (Nat.log2 r.k : Int) + r.q

/-! ### Exceptions: the flags of SW (10_state.md R66) -/

abbrev xIE : BitVec 16 := 0x01
abbrev xDE : BitVec 16 := 0x02
abbrev xZE : BitVec 16 := 0x04
abbrev xOE : BitVec 16 := 0x08
abbrev xUE : BitVec 16 := 0x10
abbrev xPE : BitVec 16 := 0x20
abbrev xSF : BitVec 16 := 0x40

/-- PE, when a rounding is inexact. -/
def peIf (b : Bool) : BitVec 16 := if b then xPE else 0

/-- What an operation gives: the flags it sets, its result unless an unmasked exception stopped it, and C1. -/
structure FRes (α : Type) where
  exc : BitVec 16
  res : Option α
  c1  : Bool
deriving DecidableEq, Repr

/-- What rounding and delivery read of CW: the rounding mode and which exceptions are masked. -/
structure FCtl where
  rc   : Rc
  mask : BitVec 6
deriving DecidableEq, Repr

def FCtl.im (c : FCtl) : Bool := c.mask.getLsbD 0
def FCtl.dm (c : FCtl) : Bool := c.mask.getLsbD 1
def FCtl.zm (c : FCtl) : Bool := c.mask.getLsbD 2
def FCtl.om (c : FCtl) : Bool := c.mask.getLsbD 3
def FCtl.um (c : FCtl) : Bool := c.mask.getLsbD 4

/-- Masked overflow gives an infinity, by RC and the sign; else the largest finite value (R509). -/
def overflowsToInf (rc : Rc) (neg : Bool) : Bool :=
  match rc with
  | .nearest => true
  | .zero => false
  | .down => neg
  | .up => !neg

/-! ### The draw of an FPU instruction -/

/-- The bits of an instruction's draw that stand for an undefined extended value. -/
def drawF80 (d : Nat) : F80 := BitVec.ofNat 80 (d >>> 16)

/-- The part of an instruction's draw that its second result takes: no bit of it is a draw of the first result, so that the two
may differ (00_scope.md R13, notes/assumptions/7.md, 19.md). -/
def drawSecond (d : Nat) : Nat := d >>> 96

/-- The bit of the draw that decides between two NaNs of equal significands (R514). -/
def drawTie (d : Nat) : Bool := d.testBit 0

def drawC0 (d : Nat) : Bool := d.testBit 1
def drawC2 (d : Nat) : Bool := d.testBit 2
def drawC3 (d : Nat) : Bool := d.testBit 3
def drawC1 (d : Nat) : Bool := d.testBit 4

/-- The reduction count of a partial remainder, 32 to 63 (47_fpu_transfer_arith.md R603). -/
def drawN (d : Nat) : Nat := 32 + (d >>> 5) % 32

/-! ### Delivery to a register (R509, R510) -/

/-- The encoding of k * 2^q in the extended format, if it is a value of the format: normal, or a denormal of at most 63 bits
above 2^-16446 (R510). -/
def encodeReg (neg : Bool) (k : Nat) (q : Int) : Option F80 :=
  if k = 0 then some (F80.zero neg)
  else
    let top := (Nat.log2 k : Int) + q
    if 16383 < top then none
    else if -16382 ≤ top then
      let l := Nat.log2 k
      some (F80.mk neg (top + 16383).toNat (if 63 < l then k >>> (l - 63) else k <<< (63 - l)))
    else if -16445 ≤ q then some (F80.mk neg 0 (k <<< (q + 16445).toNat))
    else
      let sh := (-16445 - q).toNat
      if k % 2 ^ sh = 0 then some (F80.mk neg 0 (k >>> sh)) else none

/-- A result that is delivered to a register, or a free value where even its bias-adjusted form is no value of the format
(notes/assumptions/19.md). -/
def encodeOr (d : Nat) (neg : Bool) (k : Nat) (q : Int) : F80 := (encodeReg neg k q).getD (drawF80 d)

/-- The delivery of a nonzero exact real to a register with p bits of significand (R509). -/
def deliverReg (c : FCtl) (d p : Nat) (neg : Bool) (a : Approx) : FRes F80 :=
  let r0 := roundU c.rc neg p a
  if 16384 ≤ r0.top then
    if c.om then
      let toInf := overflowsToInf c.rc neg
      { exc := xOE ||| xPE
        res := some (if toInf then F80.inf neg else F80.mk neg 0x7FFE ((2 ^ p - 1) <<< (64 - p)))
        c1 := toInf }
    else
      { exc := xOE ||| peIf r0.inexact, res := some (encodeOr d neg r0.k (r0.q - 24576)), c1 := false }
  else if r0.top < -16382 then
    if c.um then
      let r := roundE c.rc neg p (-16382) a
      { exc := if r.inexact then xUE ||| xPE else 0, res := some (encodeOr d neg r.k r.q), c1 := r.above }
    else
      { exc := xUE ||| peIf r0.inexact, res := some (encodeOr d neg r0.k (r0.q + 24576)), c1 := true }
  else
    let r := roundE c.rc neg p (-16382) a
    { exc := peIf r.inexact, res := some (encodeOr d neg r.k r.q), c1 := r.above }

/-! ### Memory real formats (R501, R523) -/

/-- A memory real format: bits of significand with the implicit one, bits of exponent. -/
structure MemFmt where
  p    : Nat
  ebit : Nat
deriving DecidableEq, Repr

abbrev fmtSingle : MemFmt := ⟨24, 8⟩
abbrev fmtDouble : MemFmt := ⟨53, 11⟩

/-- The exponent bias, which is also emax. -/
def MemFmt.bias (f : MemFmt) : Nat := 2 ^ (f.ebit - 1) - 1

/-- The smallest exponent of a normal value. -/
def MemFmt.emin (f : MemFmt) : Int := 1 - f.bias

/-- The bytes of a value of the format. -/
def MemFmt.bytes (f : MemFmt) : Nat := (f.p + f.ebit) / 8

/-- A value of the format from its fields. -/
def MemFmt.pack (f : MemFmt) (neg : Bool) (exp frac : Nat) : Nat :=
  (if neg then 2 ^ (f.p + f.ebit - 1) else 0) + exp * 2 ^ (f.p - 1) + frac

/-- k * 2^q in the format, for a value within its range. -/
def MemFmt.encode (f : MemFmt) (neg : Bool) (k : Nat) (q : Int) : Nat :=
  if k = 0 then f.pack neg 0 0
  else
    let l := Nat.log2 k
    let top := (l : Int) + q
    if f.emin ≤ top then
      f.pack neg (top + f.bias).toNat ((if f.p ≤ l then k >>> (l + 1 - f.p) else k <<< (f.p - 1 - l)) - 2 ^ (f.p - 1))
    else f.pack neg 0 (k <<< (q - (f.emin - f.p + 1)).toNat)

/-- The delivery of a nonzero exact real to memory; an unmasked overflow or underflow writes nothing (R509). -/
def deliverMem (c : FCtl) (f : MemFmt) (neg : Bool) (a : Approx) : FRes Nat :=
  let r0 := roundU c.rc neg f.p a
  if (f.bias : Int) + 1 ≤ r0.top then
    if c.om then
      let toInf := overflowsToInf c.rc neg
      { exc := xOE ||| xPE
        res := some (if toInf then f.pack neg (2 * f.bias + 1) 0 else f.pack neg (2 * f.bias) (2 ^ (f.p - 1) - 1))
        c1 := toInf }
    else { exc := xOE, res := none, c1 := false }
  else if r0.top < f.emin then
    if c.um then
      let r := roundE c.rc neg f.p f.emin a
      { exc := if r.inexact then xUE ||| xPE else 0, res := some (f.encode neg r.k r.q), c1 := r.above }
    else { exc := xUE, res := none, c1 := false }
  else
    let r := roundE c.rc neg f.p f.emin a
    { exc := peIf r.inexact, res := some (f.encode neg r.k r.q), c1 := r.above }

/-- A NaN in the format: the top bits of its fraction. -/
def MemFmt.nan (f : MemFmt) (x : F80) : Nat := f.pack x.neg (2 * f.bias + 1) ((x.sig % 2 ^ 63) >>> (64 - f.p))

/-- The conversion of a register value to a single or double store (R523). -/
def convertStore (c : FCtl) (f : MemFmt) (x : F80) : FRes Nat :=
  match x.cls with
  | .zero => { exc := 0, res := some (f.pack x.neg 0 0), c1 := false }
  | .denormal | .normal => deliverMem c f x.neg ⟨x.sig, x.val.exp, false⟩
  | .infinity => { exc := 0, res := some (f.pack x.neg (2 * f.bias + 1) 0), c1 := false }
  | .qnan => { exc := 0, res := some (f.nan x), c1 := false }
  | .snan => { exc := xIE, res := if c.im then some (f.nan x.quiet) else none, c1 := false }
  | .unsupported => { exc := xIE, res := if c.im then some (f.nan F80.indefinite) else none, c1 := false }

/-! ### Operands (R518 step 2, R525) -/

/-- A source operand: its extended value, and whether it came from memory as a single or double denormal. -/
structure Opnd where
  v   : F80
  den : Bool
deriving DecidableEq, Repr

/-- A register operand. -/
def Opnd.reg (v : F80) : Opnd := ⟨v, false⟩

/-- A single or double value converted exactly to extended (R525); an SNaN stays one until it is checked. -/
def MemFmt.load (f : MemFmt) (v : Nat) : Opnd :=
  let neg := v.testBit (f.p + f.ebit - 1)
  let exp := (v >>> (f.p - 1)) % 2 ^ f.ebit
  let frac := v % 2 ^ (f.p - 1)
  if exp = 2 * f.bias + 1 then ⟨F80.mk neg 0x7FFF (2 ^ 63 + frac <<< (64 - f.p)), false⟩
  else if exp = 0 then
    if frac = 0 then ⟨F80.zero neg, false⟩
    else ⟨(encodeReg neg frac (f.emin - f.p + 1)).getD 0, true⟩
  else ⟨F80.mk neg (exp + 16383 - f.bias) (2 ^ 63 + frac <<< (64 - f.p)), false⟩

/-- An integer converted exactly to extended (R525). -/
def intToF80 (i : Int) : F80 := (encodeReg (decide (i < 0)) i.natAbs 0).getD 0

/-- The operand is a denormal or a pseudo-denormal, so that it raises DE (R515). -/
def Opnd.isDenormal (o : Opnd) : Bool := o.den || o.v.cls == .denormal

/-! ### NaNs and invalid operations (R513, R514, R517) -/

def F80.isNan (x : F80) : Bool := x.cls == .qnan || x.cls == .snan

/-- The significand of a NaN below its quiet bit. -/
def F80.payload (x : F80) : Nat := x.sig % 2 ^ 62

/-- The significand of the NaN a is smaller than that of the NaN b, whether or not the quiet bit counts in it (R514,
notes/assumptions/43.md). -/
def F80.nanBelow (a b : F80) : Bool := decide (a.sig < b.sig) && decide (a.payload < b.payload)

/-- The NaN result of two operands of which at least one is a NaN: the larger significand, quieted; on a tie, or where the quiet
bit decides which is larger, a draw (R514). -/
def nanOf (d : Nat) (a b : F80) : F80 :=
  if !b.isNan then a.quiet
  else if !a.isNan then b.quiet
  else if b.nanBelow a then a.quiet
  else if a.nanBelow b then b.quiet
  else if drawTie d then b.quiet else a.quiet

/-- The response to an invalid operation: masked, a result; unmasked, none. -/
def invalidWith (c : FCtl) (v : F80) : FRes F80 := { exc := xIE, res := if c.im then some v else none, c1 := false }

/-- The checks of R517 levels 2 and 3: unsupported and SNaN operands, then QNaN operands. -/
def operandCheck (c : FCtl) (d : Nat) (a b : F80) : Option (FRes F80) :=
  if a.cls == .unsupported || b.cls == .unsupported then some (invalidWith c F80.indefinite)
  else if a.cls == .snan || b.cls == .snan then some (invalidWith c (nanOf d a b))
  else if a.cls == .qnan || b.cls == .qnan then some { exc := 0, res := some (nanOf d a b), c1 := false }
  else none

/-- What an operation on non-NaN operands comes to: an invalid operation, a zero divide with an infinity of a sign, a value
with its PE and C1, an exact real to deliver, or an undefined value with no exception. -/
inductive Calc where
  | invalid
  | zeroDivide (neg : Bool)
  | value (v : F80) (pe c1 : Bool)
  | real (neg : Bool) (a : Approx)
  | free
deriving DecidableEq, Repr

/-- A value that is exact. -/
abbrev Calc.exact (v : F80) : Calc := .value v false false

/-- The response to the denormal operands of an operation: masked, its result with DE; unmasked, none (R515). -/
def withDenormal (c : FCtl) (den : Bool) (r : FRes F80) : FRes F80 :=
  if den then (if c.dm then { r with exc := r.exc ||| xDE } else { exc := xDE, res := none, c1 := false }) else r

/-- The end of the checks of R517 once the operands are not NaNs: levels 4 to 7. A zero divide supplies its result, so no
denormal operand is looked at (notes/assumptions/44.md). -/
def Calc.finish (c : FCtl) (d p : Nat) (den : Bool) : Calc → FRes F80
  | .invalid => invalidWith c F80.indefinite
  | .zeroDivide neg => { exc := xZE, res := if c.zm then some (F80.inf neg) else none, c1 := false }
  | .value v pe c1 => withDenormal c den { exc := peIf pe, res := some v, c1 := c1 }
  | .real neg a => withDenormal c den (deliverReg c d p neg a)
  | .free => { exc := 0, res := some (drawF80 d), c1 := drawC1 d }

/-- An operation of two operands: the checks of R517 in their order, then the result. -/
def arith2 (c : FCtl) (d p : Nat) (op : F80 → F80 → Calc) (a b : Opnd) : FRes F80 :=
  match operandCheck c d a.v b.v with
  | some r => r
  | none => (op a.v b.v).finish c d p (a.isDenormal || b.isDenormal)

/-- An operation of one operand. -/
def arith1 (c : FCtl) (d p : Nat) (op : F80 → Calc) (a : F80) : FRes F80 :=
  match operandCheck c d a F80.one with
  | some r => r
  | none => (op a).finish c d p (a.cls == .denormal)

/-! ### The operation tables -/

def F80.isInf (x : F80) : Bool := x.cls == .infinity
def F80.isZero (x : F80) : Bool := x.cls == .zero

/-- A dyadic value as an integer multiple of 2^e, for e at or below its exponent. -/
def ExactVal.scaled (v : ExactVal) (e : Int) : Int :=
  (if v.neg then -1 else 1) * (v.mant * 2 ^ (v.exp - e).toNat : Nat)

/-- Addition (R526), with the signs of zero of R521. -/
def addCalc (rc : Rc) (a b : F80) : Calc :=
  if a.isInf && b.isInf then (if a.neg == b.neg then .exact a else .invalid)
  else if a.isInf then .exact a
  else if b.isInf then .exact b
  else
    let e := min a.val.exp b.val.exp
    let t := a.val.scaled e + b.val.scaled e
    if t = 0 then .exact (F80.zero (if a.neg == b.neg then a.neg else rc == .down))
    else .real (decide (t < 0)) ⟨t.natAbs, e, false⟩

/-- Subtraction a - b as a + (-b) (R526). -/
def subCalc (rc : Rc) (a b : F80) : Calc := addCalc rc a b.flip

/-- Multiplication (R527). -/
def mulCalc (_rc : Rc) (a b : F80) : Calc :=
  let neg := a.neg != b.neg
  if a.isInf || b.isInf then (if a.isZero || b.isZero then .invalid else .exact (F80.inf neg))
  else if a.isZero || b.isZero then .exact (F80.zero neg)
  else .real neg ⟨a.sig * b.sig, a.val.exp + b.val.exp, false⟩

/-- The magnitude n / m * 2^e of a nonzero quotient, with at least 67 bits and the rest as `sticky`. -/
def ratio (n m : Nat) (e : Int) : Approx :=
  let s := 67 + Nat.log2 m
  { m := n <<< s / m, e := e - s, sticky := n <<< s % m != 0 }

/-- Division (R528). -/
def divCalc (_rc : Rc) (a b : F80) : Calc :=
  let neg := a.neg != b.neg
  if a.isInf then (if b.isInf then .invalid else .exact (F80.inf neg))
  else if b.isInf then .exact (F80.zero neg)
  else if b.isZero then (if a.isZero then .invalid else .zeroDivide neg)
  else if a.isZero then .exact (F80.zero neg)
  else .real neg (ratio a.sig b.sig (a.val.exp - b.val.exp))

/-- The integer square root of a number below 4^fuel, bit pair by bit pair. -/
def isqrt : Nat → Nat → Nat
  | 0, _ => 0
  | fuel + 1, n =>
    let r := 2 * isqrt fuel (n / 4)
    if (r + 1) * (r + 1) ≤ n then r + 1 else r

/-- The square root of m * 2^e. -/
def sqrtApprox (m : Nat) (e : Int) : Approx :=
  let s := 134 + (e % 2).toNat
  let n := m <<< s
  let r := isqrt 128 n
  { m := r, e := (e - s) / 2, sticky := r * r != n }

/-- Square root (R530). -/
def sqrtCalc (a : F80) : Calc :=
  if a.isZero then .exact a
  else if a.neg then .invalid
  else if a.isInf then .exact a
  else .real false (sqrtApprox a.sig a.val.exp)

/-- The magnitude of a finite value rounded to an integer (R522). -/
def F80.roundInt (rc : Rc) (x : F80) : Rounded := roundAt rc x.neg ⟨x.sig, x.val.exp, false⟩ 0

/-- FRNDINT of a value that is no NaN, without its exception for a denormal (R522, 47_fpu_transfer_arith.md R600). -/
def rndintCalc (rc : Rc) (a : F80) : Calc :=
  if a.isInf || a.isZero then .exact a
  else
    let r := a.roundInt rc
    .value ((encodeReg a.neg r.k 0).getD 0) r.inexact r.above

/-- The magnitude of the truncation of a finite value toward zero, at most 65536, beyond which every scaling overflows or
underflows alike. -/
def F80.truncMag (x : F80) : Nat :=
  if 0 ≤ x.val.exp then 65536 else min 65536 (x.sig >>> (-x.val.exp).toNat)

/-- FSCALE (47_fpu_transfer_arith.md R601). -/
def scaleCalc (a b : F80) : Calc :=
  if a.isZero then (if b.isInf && !b.neg then .invalid else .exact a)
  else if a.isInf then (if b.isInf && b.neg then .invalid else .exact a)
  else if b.isInf then .exact (if b.neg then F80.zero a.neg else F80.inf a.neg)
  else
    let n : Int := if b.neg then -b.truncMag else b.truncMag
    .real a.neg ⟨a.sig, a.val.exp + n, false⟩

/-- FRNDINT: a denormal raises DE as R600 lists it or not as R522 says, by the machine's one choice (notes/assumptions/22.md). -/
def rndint (c : FCtl) (d : Nat) (a : F80) : FRes F80 :=
  match operandCheck c d a F80.one with
  | some r => r
  | none => (rndintCalc c.rc a).finish c d 64 (a.cls == .denormal && Config.frndintDe)

/-! ### Comparison (48_fpu_compare_trans_control.md R640) -/

/-- The comparison of two values that are not NaNs: exact, with +0 = -0. -/
def fCompare (a b : F80) : Ordering :=
  let rank (x : F80) : Int := if x.isInf then (if x.neg then -1 else 1) else 0
  if a.isInf || b.isInf then compare (rank a) (rank b)
  else
    let e := min a.val.exp b.val.exp
    compare (a.val.scaled e) (b.val.scaled e)

/-! ### Transcendental results (R529) -/

/-- The functions of P_TRANS. -/
inductive TransFn where
  | sin
  | cos
  | tan
  | atan2
  | f2xm1
  | yl2x
  | yl2xp1
deriving DecidableEq, Repr

/-- A nonzero rational: (num + 1) / (den + 1) with a sign. -/
structure NzRat where
  neg : Bool
  num : Nat
  den : Nat
deriving DecidableEq, Repr, Inhabited

end Sys2Proof.Machine

namespace Sys2Proof.Config

/-- P_TRANS: the nonzero rational a function returns for the exact values of its operands; a function of one operand takes it
twice (46_fpu_model.md R529, notes/assumptions/10.md). -/
opaque trans : Machine.TransFn → Machine.ExactVal → Machine.ExactVal → Machine.NzRat

end Sys2Proof.Config

namespace Sys2Proof.Machine

/-- The exact real P_TRANS names, to be delivered. -/
def transCalc (f : TransFn) (y x : F80) : Calc :=
  let r := Config.trans f y.val x.val
  .real r.neg (ratio (r.num + 1) (r.den + 1) 0)

end Sys2Proof.Machine
end

