-- ==== Sys2Proof/Machine/Fpu.lean ====
section
/-! DEFINITION. The FPU as state: the register stack (46_fpu_model.md R540 to R546), the status and control words (10_state.md
R66 to R69), the tag word (R65), and the end of an FPU instruction: pointers and exception report (R520, R545). -/

namespace Sys2Proof.Machine

/-! ### The control word -/

/-- RC (10_state.md R68). -/
def Fpu.rc (f : Fpu) : Rc :=
  match (f.cw.extractLsb' 10 2).toNat with
  | 0 => .nearest
  | 1 => .down
  | 2 => .up
  | _ => .zero

/-- The rounding mode and the exception masks. -/
def Fpu.ctl (f : Fpu) : FCtl := { rc := f.rc, mask := f.cw.extractLsb' 0 6 }

/-- The invalid-operation mask IM, which masks stack faults too (46_fpu_model.md R511). -/
def Fpu.im (f : Fpu) : Bool := f.cw.getLsbD 0

/-- The bits of significand of a precision. -/
def Precision.bits : Precision → Nat
  | .p24 => 24
  | .p53 => 53
  | .p64 => 64

/-- The precision p that PC selects (46_fpu_model.md R508). -/
def Fpu.prec (par : Params) (f : Fpu) : Nat :=
  match (f.cw.extractLsb' 8 2).toNat with
  | 0 => 24
  | 1 => Precision.bits par.pc01
  | 2 => 53
  | _ => 64

/-- A write of CW: bit 6 forced to 1, bits 7, 13, 14 and 15 to 0 (10_state.md R69). -/
def forceCw (v : BitVec 16) : BitVec 16 := v &&& 0x1F7F ||| 0x0040

/-! ### The status word -/

/-- The 16-bit word of the fields (10_state.md R66). -/
def FpuStatus.image (w : FpuStatus) : BitVec 16 :=
  BitVec.ofBool w.b ++ BitVec.ofBool w.c3 ++ w.top ++ BitVec.ofBool w.c2 ++ BitVec.ofBool w.c1 ++ BitVec.ofBool w.c0 ++
    BitVec.ofBool w.es ++ BitVec.ofBool w.sf ++ BitVec.ofBool w.pe ++ BitVec.ofBool w.ue ++ BitVec.ofBool w.oe ++
    BitVec.ofBool w.ze ++ BitVec.ofBool w.de ++ BitVec.ofBool w.ie

/-- The fields of a 16-bit word. -/
def FpuStatus.ofImage (v : BitVec 16) : FpuStatus where
  ie := v.getLsbD 0
  de := v.getLsbD 1
  ze := v.getLsbD 2
  oe := v.getLsbD 3
  ue := v.getLsbD 4
  pe := v.getLsbD 5
  sf := v.getLsbD 6
  es := v.getLsbD 7
  c0 := v.getLsbD 8
  c1 := v.getLsbD 9
  c2 := v.getLsbD 10
  top := v.extractLsb' 11 3
  c3 := v.getLsbD 14
  b := v.getLsbD 15

/-- SW. -/
def Fpu.sw (f : Fpu) : BitVec 16 := f.status.image

/-- TOP, bits 13:11 of SW (10_state.md R64). -/
def Fpu.top (f : Fpu) : BitVec 3 := f.status.top

/-- A field of 3 bits written to TOP. -/
def Fpu.setTop (f : Fpu) (t : BitVec 3) : Fpu := { f with status := { f.status with top := t } }

def Fpu.setC0 (f : Fpu) (b : Bool) : Fpu := { f with status := { f.status with c0 := b } }
def Fpu.setC1 (f : Fpu) (b : Bool) : Fpu := { f with status := { f.status with c1 := b } }
def Fpu.setC2 (f : Fpu) (b : Bool) : Fpu := { f with status := { f.status with c2 := b } }
def Fpu.setC3 (f : Fpu) (b : Bool) : Fpu := { f with status := { f.status with c3 := b } }

/-- Exception flags set, IE to SF by bits 0 to 6; they are sticky (10_state.md R67). -/
def Fpu.raiseExc (f : Fpu) (x : BitVec 16) : Fpu :=
  { f with status := { f.status with
      ie := f.status.ie || x.getLsbD 0
      de := f.status.de || x.getLsbD 1
      ze := f.status.ze || x.getLsbD 2
      oe := f.status.oe || x.getLsbD 3
      ue := f.status.ue || x.getLsbD 4
      pe := f.status.pe || x.getLsbD 5
      sf := f.status.sf || x.getLsbD 6 } }

/-- ES: an exception flag is set whose mask bit is clear (46_fpu_model.md R520). -/
def Fpu.es (f : Fpu) : Bool :=
  !f.cw.getLsbD 0 && f.status.ie || !f.cw.getLsbD 1 && f.status.de || !f.cw.getLsbD 2 && f.status.ze ||
    !f.cw.getLsbD 3 && f.status.oe || !f.cw.getLsbD 4 && f.status.ue || !f.cw.getLsbD 5 && f.status.pe

/-- ES and B recomputed (R520). -/
def Fpu.summary (f : Fpu) : Fpu := { f with status := { f.status with es := f.es, b := f.es } }

/-- C0, C2 and C3 undefined: bits of the instruction's draw (R518 step 6). -/
def Fpu.drawCodes (f : Fpu) (d : Nat) : Fpu := ((f.setC0 (drawC0 d)).setC2 (drawC2 d)).setC3 (drawC3 d)

/-! ### The register stack (R540 to R543) -/

/-- The physical register of ST(i) (10_state.md R64). -/
def Fpu.phys (f : Fpu) (i : BitVec 3) : BitVec 3 := f.top + i

/-- ST(i) is empty. -/
def Fpu.isEmpty (f : Fpu) (i : BitVec 3) : Bool := f.empty.getLsbD (f.phys i).toNat

/-- The bits of ST(i). -/
def Fpu.st (f : Fpu) (i : BitVec 3) : F80 := f.regs[(f.phys i).toNat]'(f.phys i).isLt

/-- The empty bit of a physical register written. -/
def Fpu.setEmpty (f : Fpu) (k : BitVec 3) (b : Bool) : Fpu :=
  { f with empty := if b then f.empty ||| (1#8 <<< k.toNat) else f.empty &&& ~~~(1#8 <<< k.toNat) }

/-- `WriteST(i, v)` (R543). -/
def Fpu.setSt (f : Fpu) (i : BitVec 3) (v : F80) : Fpu :=
  { f with regs := f.regs.set (f.phys i).toNat v (f.phys i).isLt }.setEmpty (f.phys i) false

/-- `FPop()`: the register's bits stay (R541). -/
def Fpu.pop (f : Fpu) : Fpu := (f.setEmpty f.top true).setTop (f.top + 1)

/-- TOP moved down and ST(0) written. -/
def Fpu.pushRaw (f : Fpu) (v : F80) : Fpu := (f.setTop (f.top - 1)).setSt 0 v

/-- `FPush(v)`: on a full stack a stack overflow, which pushes the indefinite if masked and nothing if not (R540). -/
def Fpu.push (f : Fpu) (v : F80) : Fpu :=
  if f.isEmpty 7 then f.pushRaw v
  else
    let f := (f.raiseExc (xIE ||| xSF)).setC1 true
    if f.im then f.pushRaw F80.indefinite else f

/-- A stack underflow as the result of an operation: IE and SF, C1 clear, and the indefinite if masked (R512). -/
def Fpu.underflow {α : Type} (f : Fpu) (indefinite : α) : FRes α :=
  { exc := xIE ||| xSF, res := if f.im then some indefinite else none, c1 := false }

/-- The result of an operation written to ST(i), with its flags; then a pop. With no result there is neither
(R518, R519). -/
def Fpu.deliver (f : Fpu) (r : FRes F80) (i : BitVec 3) (pops : Bool) : Fpu :=
  let f := (f.raiseExc r.exc).setC1 r.c1
  match r.res with
  | none => f
  | some v => if pops then (f.setSt i v).pop else f.setSt i v

/-! ### The tag word (10_state.md R65) -/

/-- The tag of a physical register: valid 0, zero 1, special 2, empty 3. -/
def Fpu.tag (f : Fpu) (k : Fin 8) : Nat :=
  if f.empty.getLsbD k then 3
  else
    match F80.cls f.regs[k] with
    | .normal => 0
    | .zero => 1
    | _ => 2

/-- TW, derived from the registers. -/
def Fpu.tw (f : Fpu) : Nat :=
  f.tag 0 + 4 * f.tag 1 + 4 ^ 2 * f.tag 2 + 4 ^ 3 * f.tag 3 + 4 ^ 4 * f.tag 4 + 4 ^ 5 * f.tag 5 + 4 ^ 6 * f.tag 6 +
    4 ^ 7 * f.tag 7

/-- Bit k of the empty bits a loaded TW gives. -/
def twEmptyBit (tw k : Nat) : BitVec 8 := if tw / 4 ^ k % 4 = 3 then 1#8 <<< k else 0

/-- The empty bits a loaded TW gives: only empty or not is kept. -/
def emptyOfTw (tw : Nat) : BitVec 8 :=
  twEmptyBit tw 0 ||| twEmptyBit tw 1 ||| twEmptyBit tw 2 ||| twEmptyBit tw 3 ||| twEmptyBit tw 4 ||| twEmptyBit tw 5 |||
    twEmptyBit tw 6 ||| twEmptyBit tw 7

/-! ### The FPU in the machine -/

def State.setFpu (s : State) (f : Fpu) : State := { s with fpu := f }

/-- FOP of an instruction: the low three bits of its escape byte, then its ModRM byte (R545). -/
def fopOf (i : Instr) : BitVec 11 :=
  match bodyBytes i with
  | esc :: modrm :: _ => esc.extractLsb' 0 3 ++ modrm
  | _ => 0

/-- The pointer update; FDP stays where there is no memory operand (R545). -/
def Fpu.setPointers (f : Fpu) (fip : Nat) (fop : BitVec 11) (fdp : Option Nat) : Fpu :=
  { f with
    fip := BitVec.ofNat 32 fip
    fop := fop
    fdp := match fdp with
      | some a => BitVec.ofNat 32 a
      | none => f.fdp }

/-- The end of an FPU instruction that is not a control instruction: the pointers, ES and B, and the interrupt if an
exception is unmasked (R518 step 7, R520, R545). `fdp` is the linear address of its memory operand. -/
def State.fpuEnd (s : State) (i : Instr) (fdp : Option Nat) : Exec State :=
  let f := (s.fpu.setPointers (s.lin s.ctx.startCs s.ctx.startIp) (fopOf i) fdp).summary
  if f.es then raise (s.setFpu f) s.par.fpuVector s.ctx.nextIp else .ok (s.setFpu f).commit

/-- The end of an FPU instruction without a memory operand that leaves the FPU as `f`. -/
def State.fpuReg (s : State) (i : Instr) (f : Fpu) : Exec State := (s.setFpu f).useDraw.fpuEnd i none

/-- The end of an FPU instruction with the memory operand m that leaves the FPU as `f`. -/
def State.fpuMem (s : State) (i : Instr) (m : Mem) (f : Fpu) : Exec State :=
  (s.setFpu f).useDraw.fpuEnd i (some (s.memAddr i.prefixes m))

/-- The end of a control instruction: no pointers and no interrupt (48_fpu_compare_trans_control.md R695). -/
def State.fpuControl (s : State) (f : Fpu) : State := (s.setFpu f).commit

end Sys2Proof.Machine
end

