-- ==== Sys2Proof/Machine/FpuTransfer.lean ====
section
/-! DEFINITION. The FPU loads, stores and exchange (47_fpu_transfer_arith.md R570 to R578). -/

namespace Sys2Proof.Machine

/-! ### Loads -/

/-- The push of a single or double: stack overflow first, then an SNaN, then a denormal (R517, R570,
notes/assumptions/20.md). -/
def Fpu.loadConv (f : Fpu) (o : Opnd) : Fpu :=
  let f := f.setC1 false
  if !f.isEmpty 7 then f.push o.v
  else if o.v.cls == .snan then
    let f := f.raiseExc xIE
    if f.im then f.pushRaw o.v.quiet else f
  else if o.den then
    let f := f.raiseExc xDE
    if f.ctl.dm then f.pushRaw o.v else f
  else f.pushRaw o.v

/-- The push of a value that no check concerns: an m80fp, an integer, a BCD number. -/
def Fpu.loadBits (f : Fpu) (v : F80) : Fpu := (f.setC1 false).push v

/-- The push of ST(i), read before the push (R570). -/
def Fpu.loadSt (f : Fpu) (i : BitVec 3) : Fpu :=
  if f.isEmpty i then
    let f := (f.raiseExc (xIE ||| xSF)).setC1 false
    if f.im then f.push F80.indefinite else f
  else f.loadBits (f.st i)

/-- A load from memory: n bytes, then the push they give. -/
def State.fpuLoad (s : State) (i : Instr) (m : Mem) (n : Nat) (op : Fpu → Nat → Fpu) : Exec State := do
  let v ← s.readMemN i.prefixes m n
  s.fpuMem i m ((op s.fpu v).drawCodes s.drawn)

/-- The push of a two's-complement integer of n bytes (R571). -/
def Fpu.loadInt (n : Nat) (f : Fpu) (v : Nat) : Fpu := f.loadBits (intToF80 (BitVec.ofNat (8 * n) v).toInt)

/-- The value of n BCD digits, the lowest first (R505). -/
def bcdValue : Nat → Nat → Nat
  | 0, _ => 0
  | n + 1, v => v % 16 + 10 * bcdValue n (v / 16)

/-- Every one of n nibbles is a decimal digit. -/
def bcdValid : Nat → Nat → Bool
  | 0, _ => true
  | n + 1, v => v % 16 < 10 && bcdValid n (v / 16)

/-- The push of a BCD number; a digit above 9 gives an undefined value (R524, R572). -/
def Fpu.loadBcd (d : Nat) (f : Fpu) (v : Nat) : Fpu :=
  f.loadBits (if bcdValid 18 v then (encodeReg (v.testBit 79) (bcdValue 18 v) 0).getD 0 else drawF80 d)

/-- FLD (R570). -/
def execFld (p : Prefixes) (f : FLoad) (s : State) : Host.Outcome State Fault Refusal :=
  let i := Instr.fld p f
  finish (match f with
    | .m32 m => s.fpuLoad i m 4 fun u v => u.loadConv (fmtSingle.load v)
    | .m64 m => s.fpuLoad i m 8 fun u v => u.loadConv (fmtDouble.load v)
    | .m80 m => s.fpuLoad i m 10 fun u v => u.loadBits (BitVec.ofNat 80 v)
    | .st k => s.fpuReg i ((s.fpu.loadSt k).drawCodes s.drawn))

/-- FILD (R571). -/
def execFild (p : Prefixes) (f : FInt3) (s : State) : Host.Outcome State Fault Refusal :=
  let i := Instr.fild p f
  finish (match f with
    | .m16 m => s.fpuLoad i m 2 (Fpu.loadInt 2)
    | .m32 m => s.fpuLoad i m 4 (Fpu.loadInt 4)
    | .m64 m => s.fpuLoad i m 8 (Fpu.loadInt 8))

/-- FBLD (R572). -/
def execFbld (p : Prefixes) (m : Mem) (s : State) : Host.Outcome State Fault Refusal :=
  finish (s.fpuLoad (.fbld p m) m 10 (Fpu.loadBcd s.drawn))

/-! ### Stores -/

/-- A store of n bytes: the flags, then the write, then the pop; a store without a result writes and pops nothing (R519,
R544). -/
def State.fpuStore (s : State) (i : Instr) (m : Mem) (n : Nat) (r : FRes Nat) (pops : Bool) : Exec State := do
  let f := ((s.fpu.raiseExc r.exc).setC1 r.c1).drawCodes s.drawn
  match r.res with
  | none => s.fpuMem i m f
  | some v =>
    let s ← (s.setFpu f).writeMemN i.prefixes m n v
    s.fpuMem i m (if pops then f.pop else f)

/-- ST(0) as a single or double (R523). -/
def Fpu.storeReal (f : Fpu) (fmt : MemFmt) : FRes Nat :=
  if f.isEmpty 0 then f.underflow (fmt.nan F80.indefinite) else convertStore f.ctl fmt (f.st 0)

/-- The bits of ST(0), without a check of its value (R574). -/
def Fpu.storeBits (f : Fpu) : FRes Nat :=
  if f.isEmpty 0 then f.underflow F80.indefinite.toNat else { exc := 0, res := some (f.st 0).toNat, c1 := false }

/-- The integer invalid response: the integer indefinite of a width, if masked (R504, R522). -/
def intInvalid (c : FCtl) (indefinite : Nat) : FRes Nat :=
  { exc := xIE, res := if c.im then some indefinite else none, c1 := false }

/-- The conversion of a value to an integer of n bytes (R522). -/
def convertInt (c : FCtl) (n : Nat) (x : F80) : FRes Nat :=
  match x.cls with
  | .zero | .denormal | .normal =>
    let r := x.roundInt c.rc
    let v : Int := if x.neg then -(r.k : Int) else r.k
    if v < -(2 ^ (8 * n - 1)) ∨ 2 ^ (8 * n - 1) ≤ v then intInvalid c (2 ^ (8 * n - 1))
    else { exc := peIf r.inexact, res := some (BitVec.ofInt (8 * n) v).toNat, c1 := r.above }
  | .infinity | .qnan | .snan | .unsupported => intInvalid c (2 ^ (8 * n - 1))

/-- ST(0) as an integer of n bytes. -/
def Fpu.storeInt (f : Fpu) (n : Nat) : FRes Nat :=
  if f.isEmpty 0 then f.underflow (2 ^ (8 * n - 1)) else convertInt f.ctl n (f.st 0)

/-- n decimal digits as nibbles, the lowest first (R505). -/
def bcdPack : Nat → Nat → Nat
  | 0, _ => 0
  | n + 1, v => v % 10 + 16 * bcdPack n (v / 10)

/-- The BCD indefinite (R504). -/
def bcdIndefinite : Nat := 0xFFFFC000000000000000

/-- The conversion of a value to packed BCD (R524). -/
def convertBcd (c : FCtl) (x : F80) : FRes Nat :=
  match x.cls with
  | .zero | .denormal | .normal =>
    let r := x.roundInt c.rc
    if 10 ^ 18 ≤ r.k then intInvalid c bcdIndefinite
    else { exc := peIf r.inexact, res := some ((if x.neg then 2 ^ 79 else 0) + bcdPack 18 r.k), c1 := r.above }
  | .infinity | .qnan | .snan | .unsupported => intInvalid c bcdIndefinite

/-- ST(0) as packed BCD. -/
def Fpu.storeBcd (f : Fpu) : FRes Nat :=
  if f.isEmpty 0 then f.underflow bcdIndefinite else convertBcd f.ctl (f.st 0)

/-- ST(0) copied to ST(i), bit for bit (R573). -/
def Fpu.copySt (f : Fpu) (d : Nat) (i : BitVec 3) (pops : Bool) : Fpu :=
  let r : FRes F80 :=
    if f.isEmpty 0 then f.underflow F80.indefinite else { exc := 0, res := some (f.st 0), c1 := false }
  (f.deliver r i pops).drawCodes d

/-- FST (R573). -/
def execFst (p : Prefixes) (f : FStore) (s : State) : Host.Outcome State Fault Refusal :=
  let i := Instr.fst p f
  finish (match f with
    | .m32 m => s.fpuStore i m 4 (s.fpu.storeReal fmtSingle) false
    | .m64 m => s.fpuStore i m 8 (s.fpu.storeReal fmtDouble) false
    | .st k => s.fpuReg i (s.fpu.copySt s.drawn k false))

/-- FSTP (R574). -/
def execFstp (p : Prefixes) (f : FStoreP) (s : State) : Host.Outcome State Fault Refusal :=
  let i := Instr.fstp p f
  finish (match f with
    | .m32 m => s.fpuStore i m 4 (s.fpu.storeReal fmtSingle) true
    | .m64 m => s.fpuStore i m 8 (s.fpu.storeReal fmtDouble) true
    | .m80 m => s.fpuStore i m 10 s.fpu.storeBits true
    | .st k => s.fpuReg i (s.fpu.copySt s.drawn k true))

/-- FIST (R575). -/
def execFist (p : Prefixes) (f : FInt) (s : State) : Host.Outcome State Fault Refusal :=
  let i := Instr.fist p f
  finish (match f with
    | .m16 m => s.fpuStore i m 2 (s.fpu.storeInt 2) false
    | .m32 m => s.fpuStore i m 4 (s.fpu.storeInt 4) false)

/-- FISTP (R576). -/
def execFistp (p : Prefixes) (f : FInt3) (s : State) : Host.Outcome State Fault Refusal :=
  let i := Instr.fistp p f
  finish (match f with
    | .m16 m => s.fpuStore i m 2 (s.fpu.storeInt 2) true
    | .m32 m => s.fpuStore i m 4 (s.fpu.storeInt 4) true
    | .m64 m => s.fpuStore i m 8 (s.fpu.storeInt 8) true)

/-- FBSTP (R577). -/
def execFbstp (p : Prefixes) (m : Mem) (s : State) : Host.Outcome State Fault Refusal :=
  finish (s.fpuStore (.fbstp p m) m 10 s.fpu.storeBcd true)

/-! ### Exchange -/

/-- An empty ST(i) set to the indefinite (R578). -/
def Fpu.fillEmpty (f : Fpu) (i : BitVec 3) : Fpu := if f.isEmpty i then f.setSt i F80.indefinite else f

/-- ST(0) and ST(i) exchanged; both are nonempty when it is called. -/
def Fpu.swap (f : Fpu) (i : BitVec 3) : Fpu := (f.setSt 0 (f.st i)).setSt i (f.st 0)

/-- The exchange with its stack check (R578). -/
def Fpu.exchange (f : Fpu) (i : BitVec 3) : Fpu :=
  if f.isEmpty 0 || f.isEmpty i then
    let f := (f.raiseExc (xIE ||| xSF)).setC1 false
    if f.im then ((f.fillEmpty 0).fillEmpty i).swap i else f
  else (f.setC1 false).swap i

/-- FXCH (R578). -/
def execFxch (p : Prefixes) (k : BitVec 3) (s : State) : Host.Outcome State Fault Refusal :=
  finish (s.fpuReg (.fxch p k) ((s.fpu.exchange k).drawCodes s.drawn))

end Sys2Proof.Machine
end

