-- ==== Sys2Proof/Machine/FpuArith.lean ====
section
/-! DEFINITION. The FPU arithmetic instructions (47_fpu_transfer_arith.md R579 to R604). -/

namespace Sys2Proof.Machine

/-! ### The common algorithm (46_fpu_model.md R518) -/

/-- An operation of the destination value and another, in the order of its operands under a rounding mode. -/
abbrev FOp := Rc → F80 → F80 → Calc

/-- The operands of an operation taken the other way round. -/
def FOp.rev (op : FOp) : FOp := fun rc a b => op rc b a

/-- An operation of two operands under CW, at the precision of PC (R508). -/
def Fpu.binary (f : Fpu) (par : Params) (d : Nat) (op : FOp) (a b : Opnd) : FRes F80 :=
  arith2 f.ctl d (f.prec par) (op f.rc) a b

/-- ST(i) with ST(j), into ST(i), then perhaps a pop. -/
def State.fpuStSt (s : State) (i : Instr) (op : FOp) (dst src : BitVec 3) (pops : Bool) : Exec State :=
  let f := s.fpu
  let r := if f.isEmpty dst || f.isEmpty src then f.underflow F80.indefinite
    else f.binary s.par s.drawn op (.reg (f.st dst)) (.reg (f.st src))
  s.fpuReg i ((f.deliver r dst pops).drawCodes s.drawn)

/-- ST(0) with a memory source of n bytes. A stack underflow is flagged before the source is read, and if unmasked the source
is not read (R518, notes/assumptions/25.md). -/
def State.fpuStMem (s : State) (i : Instr) (op : FOp) (m : Mem) (n : Nat) (load : Nat → Opnd) : Exec State :=
  let f := s.fpu
  if f.isEmpty 0 then
    let r := f.underflow F80.indefinite
    let g := (f.deliver r 0 false).drawCodes s.drawn
    if f.im then do
      let _ ← (s.setFpu ((f.raiseExc r.exc).setC1 r.c1)).readMemN i.prefixes m n
      s.fpuMem i m g
    else s.fpuMem i m g
  else do
    let v ← s.readMemN i.prefixes m n
    let r := f.binary s.par s.drawn op (.reg (f.st 0)) (load v)
    s.fpuMem i m ((f.deliver r 0 false).drawCodes s.drawn)

/-- An integer source of n bytes, converted exactly (R607). -/
def loadIntOpnd (n v : Nat) : Opnd := .reg (intToF80 (BitVec.ofNat (8 * n) v).toInt)

/-- The four operand forms of an arithmetic instruction (30_encoding.md R161). -/
def State.fpuArith (s : State) (i : Instr) (op : FOp) : FArith → Exec State
  | .m32 m => s.fpuStMem i op m 4 fmtSingle.load
  | .m64 m => s.fpuStMem i op m 8 fmtDouble.load
  | .st0 k => s.fpuStSt i op 0 k false
  | .sti k => s.fpuStSt i op k 0 false

/-- The two forms with an integer in memory. -/
def State.fpuArithInt (s : State) (i : Instr) (op : FOp) : FInt → Exec State
  | .m16 m => s.fpuStMem i op m 2 (loadIntOpnd 2)
  | .m32 m => s.fpuStMem i op m 4 (loadIntOpnd 4)

/-! ### Add, subtract, multiply, divide -/

/-- FADD (R579). -/
def execFadd (p : Prefixes) (f : FArith) (s : State) : Host.Outcome State Fault Refusal :=
  finish (s.fpuArith (.fadd p f) addCalc f)

/-- FADDP (R580). -/
def execFaddp (p : Prefixes) (k : BitVec 3) (s : State) : Host.Outcome State Fault Refusal :=
  finish (s.fpuStSt (.faddp p k) addCalc k 0 true)

/-- FIADD (R581). -/
def execFiadd (p : Prefixes) (f : FInt) (s : State) : Host.Outcome State Fault Refusal :=
  finish (s.fpuArithInt (.fiadd p f) addCalc f)

/-- FSUB (R582). -/
def execFsub (p : Prefixes) (f : FArith) (s : State) : Host.Outcome State Fault Refusal :=
  finish (s.fpuArith (.fsub p f) subCalc f)

/-- FSUBP (R583). -/
def execFsubp (p : Prefixes) (k : BitVec 3) (s : State) : Host.Outcome State Fault Refusal :=
  finish (s.fpuStSt (.fsubp p k) subCalc k 0 true)

/-- FISUB (R584). -/
def execFisub (p : Prefixes) (f : FInt) (s : State) : Host.Outcome State Fault Refusal :=
  finish (s.fpuArithInt (.fisub p f) subCalc f)

/-- FSUBR (R585). -/
def execFsubr (p : Prefixes) (f : FArith) (s : State) : Host.Outcome State Fault Refusal :=
  finish (s.fpuArith (.fsubr p f) (FOp.rev subCalc) f)

/-- FSUBRP (R586). -/
def execFsubrp (p : Prefixes) (k : BitVec 3) (s : State) : Host.Outcome State Fault Refusal :=
  finish (s.fpuStSt (.fsubrp p k) (FOp.rev subCalc) k 0 true)

/-- FISUBR (R587). -/
def execFisubr (p : Prefixes) (f : FInt) (s : State) : Host.Outcome State Fault Refusal :=
  finish (s.fpuArithInt (.fisubr p f) (FOp.rev subCalc) f)

/-- FMUL (R588). -/
def execFmul (p : Prefixes) (f : FArith) (s : State) : Host.Outcome State Fault Refusal :=
  finish (s.fpuArith (.fmul p f) mulCalc f)

/-- FMULP (R589). -/
def execFmulp (p : Prefixes) (k : BitVec 3) (s : State) : Host.Outcome State Fault Refusal :=
  finish (s.fpuStSt (.fmulp p k) mulCalc k 0 true)

/-- FIMUL (R590). -/
def execFimul (p : Prefixes) (f : FInt) (s : State) : Host.Outcome State Fault Refusal :=
  finish (s.fpuArithInt (.fimul p f) mulCalc f)

/-- FDIV (R591). -/
def execFdiv (p : Prefixes) (f : FArith) (s : State) : Host.Outcome State Fault Refusal :=
  finish (s.fpuArith (.fdiv p f) divCalc f)

/-- FDIVP (R592). -/
def execFdivp (p : Prefixes) (k : BitVec 3) (s : State) : Host.Outcome State Fault Refusal :=
  finish (s.fpuStSt (.fdivp p k) divCalc k 0 true)

/-- FIDIV (R593). -/
def execFidiv (p : Prefixes) (f : FInt) (s : State) : Host.Outcome State Fault Refusal :=
  finish (s.fpuArithInt (.fidiv p f) divCalc f)

/-- FDIVR (R594). -/
def execFdivr (p : Prefixes) (f : FArith) (s : State) : Host.Outcome State Fault Refusal :=
  finish (s.fpuArith (.fdivr p f) (FOp.rev divCalc) f)

/-- FDIVRP (R595). -/
def execFdivrp (p : Prefixes) (k : BitVec 3) (s : State) : Host.Outcome State Fault Refusal :=
  finish (s.fpuStSt (.fdivrp p k) (FOp.rev divCalc) k 0 true)

/-- FIDIVR (R596). -/
def execFidivr (p : Prefixes) (f : FInt) (s : State) : Host.Outcome State Fault Refusal :=
  finish (s.fpuArithInt (.fidivr p f) (FOp.rev divCalc) f)

/-! ### One operand -/

/-- An instruction that replaces ST(0) by an operation on it. -/
def State.fpuUnary (s : State) (i : Instr) (op : F80 → FRes F80) : Exec State :=
  let f := s.fpu
  let r := if f.isEmpty 0 then f.underflow F80.indefinite else op (f.st 0)
  s.fpuReg i ((f.deliver r 0 false).drawCodes s.drawn)

/-- A result that is the operand's bits changed, with no numeric check. -/
def FRes.bits (v : F80) : FRes F80 := { exc := 0, res := some v, c1 := false }

/-- FSQRT, at the precision of PC (R597). -/
def execFsqrt (p : Prefixes) (s : State) : Host.Outcome State Fault Refusal :=
  finish (s.fpuUnary (.fsqrt p) (arith1 s.fpu.ctl s.drawn (s.fpu.prec s.par) sqrtCalc))

/-- FABS: no NaN is signalled (R598). -/
def execFabs (p : Prefixes) (s : State) : Host.Outcome State Fault Refusal :=
  finish (s.fpuUnary (.fabs p) fun v => .bits (v &&& ~~~(1#80 <<< 79)))

/-- FCHS: no NaN is signalled (R599). -/
def execFchs (p : Prefixes) (s : State) : Host.Outcome State Fault Refusal :=
  finish (s.fpuUnary (.fchs p) fun v => .bits v.flip)

/-- FRNDINT (R600, notes/assumptions/22.md). -/
def execFrndint (p : Prefixes) (s : State) : Host.Outcome State Fault Refusal :=
  finish (s.fpuUnary (.frndint p) (rndint s.fpu.ctl s.drawn))

/-- FSCALE: ST(0) by ST(1), which stays (R601). -/
def execFscale (p : Prefixes) (s : State) : Host.Outcome State Fault Refusal :=
  let f := s.fpu
  let r := if f.isEmpty 0 || f.isEmpty 1 then f.underflow F80.indefinite
    else arith2 f.ctl s.drawn 64 scaleCalc (.reg (f.st 0)) (.reg (f.st 1))
  finish (s.fpuReg (.fscale p) ((f.deliver r 0 false).drawCodes s.drawn))

/-! ### Two results (46_fpu_model.md R546) -/

/-- ST(0) replaced by `a`, then `b` pushed. -/
def Fpu.two (f : Fpu) (a b : F80) : Fpu := (f.setSt 0 a).push b

/-- The stack checks of a two-result instruction: an underflow, or an overflow; if masked, both results are the indefinite. Where
both faults meet, C1 is 0 if they are not masked, and else 1 from the push (R546, notes/assumptions/45.md). -/
def Fpu.twoCheck (f : Fpu) : Option Fpu :=
  if f.isEmpty 0 || !f.isEmpty 7 then
    let f := (f.raiseExc (xIE ||| xSF)).setC1 (!f.isEmpty 0)
    some (if f.im then f.two F80.indefinite F80.indefinite else f)
  else none

/-- The exponent and the significand of a nonzero finite value (R602). -/
def F80.exponent (x : F80) : F80 := intToF80 x.val.top
def F80.significand (x : F80) : F80 := F80.mk x.neg 0x3FFF (x.sig <<< (63 - Nat.log2 x.sig))

/-- The two results of FXTRACT: the flags, and the exponent and the significand unless an unmasked exception stopped it
(R602, notes/assumptions/32.md). -/
def extract (c : FCtl) (x : F80) : BitVec 16 × Option (F80 × F80) :=
  match x.cls with
  | .unsupported => (xIE, if c.im then some (F80.indefinite, F80.indefinite) else none)
  | .snan => (xIE, if c.im then some (x.quiet, x.quiet) else none)
  | .qnan => (0, some (x, x))
  | .infinity => (0, some (F80.inf false, x))
  | .zero => (xZE, if c.zm then some (F80.inf true, x) else none)
  | .denormal => (xDE, if c.dm then some (x.exponent, x.significand) else none)
  | .normal => (0, some (x.exponent, x.significand))

/-- The FPU after FXTRACT. -/
def Fpu.fxtract (f : Fpu) : Fpu :=
  match f.twoCheck with
  | some g => g
  | none =>
    let (exc, r) := extract f.ctl (f.st 0)
    let g := (f.raiseExc exc).setC1 false
    match r with
    | some (e, sg) => g.two e sg
    | none => g

/-- FXTRACT (R602). -/
def execFxtract (p : Prefixes) (s : State) : Host.Outcome State Fault Refusal :=
  finish (s.fpuReg (.fxtract p) (s.fpu.fxtract.drawCodes s.drawn))

/-! ### Partial remainders (R603, R604) -/

/-- The condition codes of a partial remainder: C0, C1, C2, C3. -/
structure RemCodes where
  c0 : Bool
  c1 : Bool
  c2 : Bool
  c3 : Bool
deriving DecidableEq, Repr

/-- The codes of a complete reduction by the quotient q. -/
def RemCodes.ofQuot (q : Nat) : RemCodes := { c0 := q.testBit 2, c1 := q.testBit 0, c2 := false, c3 := q.testBit 1 }

/-- A remainder with the sign `neg` unless it is negative: an exact real, or a zero of the sign. -/
def remCalc (neg : Bool) (t e : Int) : Calc :=
  if t = 0 then .exact (F80.zero neg) else .real (neg != decide (t < 0)) ⟨t.natAbs, e, false⟩

/-- n / m rounded to the nearest integer, ties to even. -/
def nearestQuot (n m : Nat) : Nat :=
  let q := n / m
  match compare (2 * (n % m)) m with
  | .lt => q
  | .gt => q + 1
  | .eq => if q.testBit 0 then q + 1 else q

/-- The remainder of two finite nonzero values and its codes; `nearest` is FPREM1's quotient. A difference of exponents of 64
or more gives a partial remainder, with C0, C1 and C3 undefined. -/
def remFinite (d : Nat) (nearest : Bool) (a b : F80) : Calc × RemCodes :=
  let e := min a.val.exp b.val.exp
  let n := a.sig * 2 ^ (a.val.exp - e).toNat
  let m := b.sig * 2 ^ (b.val.exp - e).toNat
  let dexp := a.val.top - b.val.top
  if dexp < 64 then
    let q := if nearest then nearestQuot n m else n / m
    (remCalc a.neg ((n : Int) - m * q) e, RemCodes.ofQuot q)
  else
    let step := m * 2 ^ (dexp - drawN d).toNat
    (remCalc a.neg ((n : Int) - step * (n / step)) e,
      { c0 := drawC0 d, c1 := drawC1 d, c2 := true, c3 := drawC3 d })

/-- FPREM and FPREM1 of two non-NaN values: the result and the codes of a result. -/
def remainder (d : Nat) (nearest : Bool) (a b : F80) : Calc × RemCodes :=
  if a.isInf || b.isZero then (.invalid, { c0 := drawC0 d, c1 := false, c2 := false, c3 := drawC3 d })
  else if b.isInf || a.isZero then (.exact a, { c0 := false, c1 := false, c2 := false, c3 := false })
  else remFinite d nearest a b

/-- The codes written to SW. -/
def Fpu.setCodes (f : Fpu) (c : RemCodes) : Fpu := (((f.setC0 c.c0).setC1 c.c1).setC2 c.c2).setC3 c.c3

/-- The FPU after FPREM or FPREM1. C0, C2 and C3 are undefined where R603 does not write them: after a stack fault, a NaN or
unsupported operand, and an exception that left no result (R605). -/
def Fpu.prem (f : Fpu) (d : Nat) (nearest : Bool) : Fpu :=
  if f.isEmpty 0 || f.isEmpty 1 then (f.deliver (f.underflow F80.indefinite) 0 false).drawCodes d
  else
    let a := f.st 0
    let b := f.st 1
    let den := a.cls == .denormal || b.cls == .denormal
    match operandCheck f.ctl d a b with
    | some r => (f.deliver r 0 false).drawCodes d
    | none =>
      let (k, codes) := remainder d nearest a b
      let r := k.finish f.ctl d 64 den
      let g := f.deliver r 0 false
      if r.res.isSome then g.setCodes codes else g.drawCodes d

/-- FPREM (R603). -/
def execFprem (p : Prefixes) (s : State) : Host.Outcome State Fault Refusal :=
  finish (s.fpuReg (.fprem p) (s.fpu.prem s.drawn false))

/-- FPREM1 (R604). -/
def execFprem1 (p : Prefixes) (s : State) : Host.Outcome State Fault Refusal :=
  finish (s.fpuReg (.fprem1 p) (s.fpu.prem s.drawn true))

end Sys2Proof.Machine
end

