-- ==== Sys2Proof/Machine/FpuCompare.lean ====
section
/-! DEFINITION. The FPU comparisons and FXAM (48_fpu_compare_trans_control.md R640 to R650). -/

namespace Sys2Proof.Machine

/-- The codes C3, C2, C0 of a relation (R640). -/
structure CmpCodes where
  c3 : Bool
  c2 : Bool
  c0 : Bool
deriving DecidableEq, Repr

def CmpCodes.ofOrd : Ordering → CmpCodes
  | .gt => { c3 := false, c2 := false, c0 := false }
  | .lt => { c3 := false, c2 := false, c0 := true }
  | .eq => { c3 := true, c2 := false, c0 := false }

def CmpCodes.unordered : CmpCodes := { c3 := true, c2 := true, c0 := true }

/-- An invalid comparison: masked, unordered; unmasked, no codes (R640). -/
def cmpInvalid (c : FCtl) : FRes CmpCodes :=
  { exc := xIE, res := if c.im then some .unordered else none, c1 := false }

/-- A comparison of two operands; an ordered one is invalid on a QNaN too (R640). -/
def fcompare (c : FCtl) (ordered : Bool) (a b : Opnd) : FRes CmpCodes :=
  if a.v.cls == .unsupported || b.v.cls == .unsupported || a.v.cls == .snan || b.v.cls == .snan then cmpInvalid c
  else if a.v.cls == .qnan || b.v.cls == .qnan then
    if ordered then cmpInvalid c else { exc := 0, res := some .unordered, c1 := false }
  else
    let r := CmpCodes.ofOrd (fCompare a.v b.v)
    if a.isDenormal || b.isDenormal then { exc := xDE, res := if c.dm then some r else none, c1 := false }
    else { exc := 0, res := some r, c1 := false }

/-- Pops of a comparison: none, one or two. -/
def Fpu.popN (f : Fpu) : Nat → Fpu
  | 0 => f
  | n + 1 => f.pop.popN n

/-- The end of a comparison: the flags, the codes and the pops; with no codes, no pops (R640). -/
def Fpu.compared (f : Fpu) (r : FRes CmpCodes) (pops : Nat) : Fpu :=
  let f := (f.raiseExc r.exc).setC1 false
  match r.res with
  | some c => (((f.setC3 c.c3).setC2 c.c2).setC0 c.c0).popN pops
  | none => f

/-- A comparison of ST(0) with ST(i). -/
def State.fpuCmpSt (s : State) (i : Instr) (ordered : Bool) (k : BitVec 3) (pops : Nat) : Exec State :=
  let f := s.fpu
  let r := if f.isEmpty 0 || f.isEmpty k then f.underflow CmpCodes.unordered
    else fcompare f.ctl ordered (.reg (f.st 0)) (.reg (f.st k))
  s.fpuReg i (f.compared r pops)

/-- A comparison of ST(0) with a memory source of n bytes; the order is that of an arithmetic instruction (R518,
notes/assumptions/25.md). -/
def State.fpuCmpMem (s : State) (i : Instr) (m : Mem) (n : Nat) (load : Nat → Opnd) (pops : Nat) : Exec State :=
  let f := s.fpu
  if f.isEmpty 0 then
    let r := f.underflow CmpCodes.unordered
    let g := f.compared r pops
    if f.im then do
      let _ ← (s.setFpu ((f.raiseExc r.exc).setC1 r.c1)).readMemN i.prefixes m n
      s.fpuMem i m g
    else s.fpuMem i m g
  else do
    let v ← s.readMemN i.prefixes m n
    s.fpuMem i m (f.compared (fcompare f.ctl true (.reg (f.st 0)) (load v)) pops)

/-- The forms of FCOM and FCOMP. -/
def State.fpuCmp (s : State) (i : Instr) (pops : Nat) : FCmp → Exec State
  | .m32 m => s.fpuCmpMem i m 4 fmtSingle.load pops
  | .m64 m => s.fpuCmpMem i m 8 fmtDouble.load pops
  | .st k => s.fpuCmpSt i true k pops

/-- The forms of FICOM and FICOMP. -/
def State.fpuCmpInt (s : State) (i : Instr) (pops : Nat) : FInt → Exec State
  | .m16 m => s.fpuCmpMem i m 2 (loadIntOpnd 2) pops
  | .m32 m => s.fpuCmpMem i m 4 (loadIntOpnd 4) pops

/-- FCOM (R641). -/
def execFcom (p : Prefixes) (f : FCmp) (s : State) : Host.Outcome State Fault Refusal :=
  finish (s.fpuCmp (.fcom p f) 0 f)

/-- FCOMP (R642). -/
def execFcomp (p : Prefixes) (f : FCmp) (s : State) : Host.Outcome State Fault Refusal :=
  finish (s.fpuCmp (.fcomp p f) 1 f)

/-- FCOMPP (R643). -/
def execFcompp (p : Prefixes) (s : State) : Host.Outcome State Fault Refusal :=
  finish (s.fpuCmpSt (.fcompp p) true 1 2)

/-- FUCOM (R644). -/
def execFucom (p : Prefixes) (k : BitVec 3) (s : State) : Host.Outcome State Fault Refusal :=
  finish (s.fpuCmpSt (.fucom p k) false k 0)

/-- FUCOMP (R645). -/
def execFucomp (p : Prefixes) (k : BitVec 3) (s : State) : Host.Outcome State Fault Refusal :=
  finish (s.fpuCmpSt (.fucomp p k) false k 1)

/-- FUCOMPP (R646). -/
def execFucompp (p : Prefixes) (s : State) : Host.Outcome State Fault Refusal :=
  finish (s.fpuCmpSt (.fucompp p) false 1 2)

/-- FICOM (R647). -/
def execFicom (p : Prefixes) (f : FInt) (s : State) : Host.Outcome State Fault Refusal :=
  finish (s.fpuCmpInt (.ficom p f) 0 f)

/-- FICOMP (R648). -/
def execFicomp (p : Prefixes) (f : FInt) (s : State) : Host.Outcome State Fault Refusal :=
  finish (s.fpuCmpInt (.ficomp p f) 1 f)

/-- FTST (R649). -/
def execFtst (p : Prefixes) (s : State) : Host.Outcome State Fault Refusal :=
  let f := s.fpu
  let r := if f.isEmpty 0 then f.underflow CmpCodes.unordered
    else fcompare f.ctl true (.reg (f.st 0)) (.reg (F80.zero false))
  finish (s.fpuReg (.ftst p) (f.compared r 0))

/-- The codes of FXAM but for C1 (R650). -/
def examCodes (empty : Bool) (x : F80) : CmpCodes :=
  if empty then { c3 := true, c2 := false, c0 := true }
  else
    match x.cls with
    | .unsupported => { c3 := false, c2 := false, c0 := false }
    | .qnan | .snan => { c3 := false, c2 := false, c0 := true }
    | .normal => { c3 := false, c2 := true, c0 := false }
    | .infinity => { c3 := false, c2 := true, c0 := true }
    | .zero => { c3 := true, c2 := false, c0 := false }
    | .denormal => { c3 := true, c2 := true, c0 := false }

/-- FXAM: C1 is the sign bit of the register, empty or not; an empty register is no stack fault (R650). -/
def execFxam (p : Prefixes) (s : State) : Host.Outcome State Fault Refusal :=
  let f := s.fpu
  let c := examCodes (f.isEmpty 0) (f.st 0)
  finish (s.fpuReg (.fxam p) ((((f.setC1 (f.st 0).neg).setC3 c.c3).setC2 c.c2).setC0 c.c0))

end Sys2Proof.Machine
end

