-- ==== Sys2Proof/Machine/FpuControl.lean ====
section
/-! DEFINITION. The FPU control instructions (48_fpu_compare_trans_control.md R680 to R696). -/

namespace Sys2Proof.Machine

/-! ### The environment (R680) -/

/-- Fields of n bits each, the lowest first, as one number. -/
def packFields (n : Nat) : List Nat → Nat
  | [] => 0
  | v :: rest => v + 2 ^ n * packFields n rest

/-- Field k of n bits. -/
def fieldOf (n v k : Nat) : Nat := v / 2 ^ (n * k) % 2 ^ n

/-- The bytes of the environment (R680). -/
abbrev envSize (os32 : Bool) : Nat := if os32 then 28 else 14

/-- A reserved upper half: bits of the instruction's draw (R680). -/
def reserved (d k : Nat) : Nat := (d >>> (16 * k)) % 2 ^ 16

/-- The environment as it is stored (R680). -/
def Fpu.env (f : Fpu) (os32 : Bool) (d : Nat) : Nat :=
  let fip := f.fip.toNat
  let fdp := f.fdp.toNat
  if os32 then
    packFields 32
      [f.cw.toNat + 2 ^ 16 * reserved d 0, f.sw.toNat + 2 ^ 16 * reserved d 1, f.tw + 2 ^ 16 * reserved d 2,
       fip % 2 ^ 16 + 2 ^ 16 * reserved d 3, f.fop.toNat + 2 ^ 12 * (fip / 2 ^ 16),
       fdp % 2 ^ 16 + 2 ^ 16 * reserved d 4, 2 ^ 12 * (fdp / 2 ^ 16)]
  else
    packFields 16
      [f.cw.toNat, f.sw.toNat, f.tw, fip % 2 ^ 16, f.fop.toNat + 2 ^ 12 * (fip / 2 ^ 16 % 16), fdp % 2 ^ 16,
       2 ^ 12 * (fdp / 2 ^ 16 % 16)]

/-- The upper part of a stored pointer, bits 31:16 or 19:16. -/
def envHigh (os32 : Bool) (v : Nat) : Nat := if os32 then v / 2 ^ 12 % 2 ^ 16 else v / 2 ^ 12 % 16

/-- The FPU after a load of the environment (R686); the reserved bits and the bits stored as 0 are ignored. -/
def Fpu.loadEnv (f : Fpu) (os32 : Bool) (v : Nat) : Fpu :=
  let field := fieldOf (if os32 then 32 else 16) v
  ({ f with
    cw := forceCw (BitVec.ofNat 16 (field 0))
    status := FpuStatus.ofImage (BitVec.ofNat 16 (field 1))
    empty := emptyOfTw (field 2 % 2 ^ 16)
    fip := BitVec.ofNat 32 (field 3 % 2 ^ 16 + 2 ^ 16 * envHigh os32 (field 4))
    fop := BitVec.ofNat 11 (field 4)
    fdp := BitVec.ofNat 32 (field 5 % 2 ^ 16 + 2 ^ 16 * envHigh os32 (field 6)) } : Fpu).summary

/-- The state FNINIT leaves; R0 to R7 keep their bits (R685). -/
def Fpu.init (f : Fpu) : Fpu :=
  { f with cw := 0x037F, status := FpuStatus.clear, empty := 0xFF, fip := 0, fop := 0, fdp := 0 }

/-- The registers as FNSAVE stores them, ST(0) first (R689). -/
def Fpu.image (f : Fpu) : Nat :=
  packFields 80 [(f.st 0).toNat, (f.st 1).toNat, (f.st 2).toNat, (f.st 3).toNat, (f.st 4).toNat, (f.st 5).toNat,
    (f.st 6).toNat, (f.st 7).toNat]

/-- R[(TOP + i) mod 8] written, with its empty bit kept. -/
def Fpu.setBits (f : Fpu) (i : BitVec 3) (v : Nat) : Fpu :=
  { f with regs := f.regs.set (f.phys i).toNat (BitVec.ofNat 80 v) (f.phys i).isLt }

/-- The registers loaded by FRSTOR, ST(0) first (R688). -/
def Fpu.loadImage (f : Fpu) (v : Nat) : Fpu :=
  (((((((f.setBits 0 (fieldOf 80 v 0)).setBits 1 (fieldOf 80 v 1)).setBits 2 (fieldOf 80 v 2)).setBits 3
    (fieldOf 80 v 3)).setBits 4 (fieldOf 80 v 4)).setBits 5 (fieldOf 80 v 5)).setBits 6 (fieldOf 80 v 6)).setBits 7
    (fieldOf 80 v 7)

/-! ### Control and status words -/

/-- FLDCW: ES and B are recomputed, with no interrupt (R681). -/
def execFldcw (p : Prefixes) (m : Mem) (s : State) : Host.Outcome State Fault Refusal :=
  finish do
    let v ← s.readMemN p m 2
    .ok (s.fpuControl { s.fpu with cw := forceCw (BitVec.ofNat 16 v) }.summary)

/-- FNSTCW (R682). -/
def execFnstcw (p : Prefixes) (m : Mem) (s : State) : Host.Outcome State Fault Refusal :=
  finish do
    let s ← s.writeMemN p m 2 s.fpu.cw.toNat
    .ok s.commit

/-- FNSTSW: the AX form keeps EAX[31:16] (R683). -/
def execFnstsw (p : Prefixes) (d : FSwDst) (s : State) : Host.Outcome State Fault Refusal :=
  finish (match d with
    | .m16 m => do
      let s ← s.writeMemN p m 2 s.fpu.sw.toNat
      .ok s.commit
    | .ax => .ok (s.setR16 rAX s.fpu.sw).commit)

/-- FNCLEX: C0 to C3 and TOP stay (R684). -/
def execFnclex (_p : Prefixes) (s : State) : Host.Outcome State Fault Refusal :=
  finish (.ok (s.fpuControl { s.fpu with status := FpuStatus.ofImage (s.fpu.sw &&& 0x7F00) }))

/-- FNINIT (R685). -/
def execFninit (_p : Prefixes) (s : State) : Host.Outcome State Fault Refusal :=
  finish (.ok (s.fpuControl s.fpu.init))

/-! ### Environments and save areas -/

/-- FLDENV (R686). -/
def execFldenv (p : Prefixes) (m : Mem) (s : State) : Host.Outcome State Fault Refusal :=
  finish do
    let v ← s.readMemN p m (envSize p.os32)
    .ok (s.fpuControl (s.fpu.loadEnv p.os32 v))

/-- FNSTENV: after the store every exception is masked (R687). -/
def execFnstenv (p : Prefixes) (m : Mem) (s : State) : Host.Outcome State Fault Refusal :=
  finish do
    let s' ← s.useDraw.writeMemN p m (envSize p.os32) (s.fpu.env p.os32 s.drawn)
    .ok (s'.fpuControl { s.fpu with cw := s.fpu.cw ||| 0x003F }.summary)

/-- FRSTOR: the environment, then the registers from the loaded TOP (R688). -/
def execFrstor (p : Prefixes) (m : Mem) (s : State) : Host.Outcome State Fault Refusal :=
  finish do
    let v ← s.readMemN p m (envSize p.os32 + 80)
    .ok (s.fpuControl ((s.fpu.loadEnv p.os32 v).loadImage (v / 2 ^ (8 * envSize p.os32))))

/-- FNSAVE: the environment and the registers, then FNINIT (R689). -/
def execFnsave (p : Prefixes) (m : Mem) (s : State) : Host.Outcome State Fault Refusal :=
  finish do
    let s' ← s.useDraw.writeMemN p m (envSize p.os32 + 80)
      (s.fpu.env p.os32 s.drawn + 2 ^ (8 * envSize p.os32) * s.fpu.image)
    .ok (s'.fpuControl s.fpu.init)

/-! ### The stack pointer, FFREE, FNOP and the no-ops -/

/-- FINCSTP: no empty bit changes (R690). -/
def execFincstp (p : Prefixes) (s : State) : Host.Outcome State Fault Refusal :=
  finish (s.fpuReg (.fincstp p) (((s.fpu.setTop (s.fpu.top + 1)).setC1 false).drawCodes s.drawn))

/-- FDECSTP: no empty bit changes (R691). -/
def execFdecstp (p : Prefixes) (s : State) : Host.Outcome State Fault Refusal :=
  finish (s.fpuReg (.fdecstp p) (((s.fpu.setTop (s.fpu.top - 1)).setC1 false).drawCodes s.drawn))

/-- FFREE: C0 to C3 are undefined (R692). -/
def execFfree (p : Prefixes) (k : BitVec 3) (s : State) : Host.Outcome State Fault Refusal :=
  finish (s.fpuReg (.ffree p k)
    (((s.fpu.setEmpty (s.fpu.phys k) true).setC1 (drawC1 s.drawn)).drawCodes s.drawn))

/-- FNOP: the pointers, and an exception left pending (R693). -/
def execFnop (p : Prefixes) (s : State) : Host.Outcome State Fault Refusal :=
  finish (s.fpuReg (.fnop p) ((s.fpu.setC1 (drawC1 s.drawn)).drawCodes s.drawn))

/-- FENI: no effect (R694). -/
def execFeni (_p : Prefixes) (s : State) : Host.Outcome State Fault Refusal := finish (.ok s.commit)

/-- FDISI: no effect (R694). -/
def execFdisi (_p : Prefixes) (s : State) : Host.Outcome State Fault Refusal := finish (.ok s.commit)

/-- FSETPM: no effect (R694). -/
def execFsetpm (_p : Prefixes) (s : State) : Host.Outcome State Fault Refusal := finish (.ok s.commit)

end Sys2Proof.Machine
end

