-- ==== Sys2Proof/Machine/FpuTrans.lean ====
section
/-! DEFINITION. The transcendental instructions and the constants (48_fpu_compare_trans_control.md R651 to R668). C0 and C3
are undefined; what becomes of C2 where no rule writes it is in notes/assumptions/34.md. -/

namespace Sys2Proof.Machine

/-- C0 and C3 undefined (R666). -/
def Fpu.drawC03 (f : Fpu) (d : Nat) : Fpu := (f.setC0 (drawC0 d)).setC3 (drawC3 d)

/-- |x| is at least 2^63, for a finite x (R651). -/
def F80.huge (x : F80) : Bool := x.cls == .normal && decide (63 ≤ x.val.top)

/-! ### Sine, cosine, tangent -/

/-- FSIN of a value below 2^63 or not finite (R651). -/
def sinCalc (x : F80) : Calc :=
  if x.isInf then .invalid else if x.isZero then .exact x else transCalc .sin x x

/-- FCOS: a zero gives +1 (R652). -/
def cosCalc (x : F80) : Calc :=
  if x.isInf then .invalid else if x.isZero then .exact F80.one else transCalc .cos x x

/-- The tangent of FPTAN (R654). -/
def tanCalc (x : F80) : Calc :=
  if x.isInf then .invalid else if x.isZero then .exact x else transCalc .tan x x

/-- The rules of FSIN, FCOS, FSINCOS and FPTAN write C2 for x: it is neither a NaN nor unsupported. -/
def F80.trigOperand (x : F80) : Bool := !x.isNan && x.cls != .unsupported

/-- The codes of FSIN, FCOS, FSINCOS and FPTAN of x within the range: C2 clear where the rules write it, whether or not an
unmasked exception left a result (R651), and else undefined as C0 and C3 are (notes/assumptions/34.md). -/
def Fpu.trigCodes (f : Fpu) (d : Nat) (x : F80) : Fpu :=
  if x.trigOperand then (f.setC2 false).drawC03 d else f.drawCodes d

/-- FSIN and FCOS: beyond the range only C2 changes (R651). -/
def Fpu.sinCos (f : Fpu) (d : Nat) (op : F80 → Calc) : Fpu :=
  if f.isEmpty 0 then (f.deliver (f.underflow F80.indefinite) 0 false).drawCodes d
  else if (f.st 0).huge then f.setC2 true
  else
    (f.deliver (arith1 f.ctl d 64 op (f.st 0)) 0 false).trigCodes d (f.st 0)

/-- FSIN (R651). -/
def execFsin (p : Prefixes) (s : State) : Host.Outcome State Fault Refusal :=
  finish (s.fpuReg (.fsin p) (s.fpu.sinCos s.drawn sinCalc))

/-- FCOS (R652). -/
def execFcos (p : Prefixes) (s : State) : Host.Outcome State Fault Refusal :=
  finish (s.fpuReg (.fcos p) (s.fpu.sinCos s.drawn cosCalc))

/-- The second result that goes with a first: the same NaN or indefinite, or the pushed value (R653, R654,
notes/assumptions/32.md). -/
def pairWith (first : FRes F80) (second : FRes F80) (x : F80) : FRes F80 :=
  if x.isNan || x.cls == .unsupported || x.isInf then first else second

/-- A two-result instruction on ST(0): `first` replaces it and the result of `push` is pushed; C1 is that of the pushed
result (R653, R654). A free value in the pushed result is not the one in the first: `push` takes no draw of `d` that `op` takes
(execFsincos; what FPTAN pushes is no free value). -/
def Fpu.sinCosTwo (f : Fpu) (d : Nat) (op : F80 → Calc) (push : F80 → FRes F80) : Fpu :=
  match f.twoCheck with
  | some g => g.drawCodes d
  | none =>
    let x := f.st 0
    if x.huge then f.setC2 true
    else
      let a := arith1 f.ctl d 64 op x
      let b := pairWith a (push x) x
      let g := (f.raiseExc (a.exc ||| b.exc)).setC1 b.c1
      let written := match a.res, b.res with
        | some u, some v => g.two u v
        | _, _ => g
      written.trigCodes d x

/-- FSINCOS (R653). Where neither bias-adjusted result is a value of the format, the two free values that stand for them
(notes/assumptions/19.md) are of disjoint bits of the draw, so that they may differ: the cosine takes `drawSecond`. -/
def execFsincos (p : Prefixes) (s : State) : Host.Outcome State Fault Refusal :=
  finish (s.fpuReg (.fsincos p)
    (s.fpu.sinCosTwo s.drawn sinCalc (arith1 s.fpu.ctl (drawSecond s.drawn) 64 cosCalc)))

/-- FPTAN: +1 is pushed, and C1 is that of the tangent (R654). -/
def execFptan (p : Prefixes) (s : State) : Host.Outcome State Fault Refusal :=
  finish (s.fpuReg (.fptan p)
    (s.fpu.sinCosTwo s.drawn tanCalc
      (fun x => { (arith1 s.fpu.ctl s.drawn 64 tanCalc x) with
        res := (arith1 s.fpu.ctl s.drawn 64 tanCalc x).res.map fun _ => F80.one })))

/-! ### Arctangent and multiples of π -/

/-- A multiple of π by its exponent and its significand rounded down; the next one up is its rounding away from zero
(R667). Rounding to nearest rounds every one of them up. -/
def piCalc (rc : Rc) (neg : Bool) (exp sig : Nat) : Calc :=
  let up := overflowsToInf rc neg
  .value (F80.mk neg exp (if up then sig + 1 else sig)) true up

/-- FPATAN of y by x (R655). -/
def atanCalc (rc : Rc) (y x : F80) : Calc :=
  if y.isInf then
    if x.isInf then
      if x.neg then piCalc rc y.neg 0x4000 0x96CBE3F9990E91A7 else piCalc rc y.neg 0x3FFE 0xC90FDAA22168C234
    else piCalc rc y.neg 0x3FFF 0xC90FDAA22168C234
  else if x.isInf then
    if x.neg then piCalc rc y.neg 0x4000 0xC90FDAA22168C234 else .exact (F80.zero y.neg)
  else if y.isZero then
    if x.neg then piCalc rc y.neg 0x4000 0xC90FDAA22168C234 else .exact (F80.zero y.neg)
  else if x.isZero then piCalc rc y.neg 0x3FFF 0xC90FDAA22168C234
  else transCalc .atan2 y x

/-- An instruction of y = ST(1) and x = ST(0) whose result replaces ST(1), with a pop. -/
def State.fpuYx (s : State) (i : Instr) (op : F80 → F80 → Calc) : Exec State :=
  let f := s.fpu
  let r := if f.isEmpty 0 || f.isEmpty 1 then f.underflow F80.indefinite
    else arith2 f.ctl s.drawn 64 op (.reg (f.st 1)) (.reg (f.st 0))
  s.fpuReg i ((f.deliver r 1 true).drawC03 s.drawn)

/-- FPATAN (R655). -/
def execFpatan (p : Prefixes) (s : State) : Host.Outcome State Fault Refusal :=
  finish (s.fpuYx (.fpatan p) (atanCalc s.fpu.rc))

/-! ### Exponential and logarithms -/

/-- F2XM1 (R656). -/
def f2xm1Calc (x : F80) : Calc :=
  if x.isZero then .exact x
  else if x.isInf then .free
  else if x = F80.one then .exact F80.one
  else if x = F80.one.flip then .exact (F80.mk true 0x3FFE (2 ^ 63))
  else if x.val.top < 0 then transCalc .f2xm1 x x
  else .free

/-- F2XM1 (R656). -/
def execF2xm1 (p : Prefixes) (s : State) : Host.Outcome State Fault Refusal :=
  let f := s.fpu
  let r := if f.isEmpty 0 then f.underflow F80.indefinite else arith1 f.ctl s.drawn 64 f2xm1Calc (f.st 0)
  finish (s.fpuReg (.f2xm1 p) ((f.deliver r 0 false).drawC03 s.drawn))

/-- FYL2X: y * log2(x) (R657). -/
def yl2xCalc (y x : F80) : Calc :=
  if x.isZero then
    if y.isZero then .invalid
    else if y.isInf then .exact (F80.inf !y.neg)
    else .zeroDivide !y.neg
  else if x.neg then .invalid
  else if x.isInf then (if y.isZero then .invalid else .exact (F80.inf y.neg))
  else if x = F80.one then (if y.isInf then .invalid else .exact (F80.zero y.neg))
  else
    let below := decide (x.val.top < 0)
    if y.isZero then .exact (F80.zero (y.neg != below))
    else if y.isInf then .exact (F80.inf (y.neg != below))
    else transCalc .yl2x y x

/-- FYL2X (R657). -/
def execFyl2x (p : Prefixes) (s : State) : Host.Outcome State Fault Refusal :=
  finish (s.fpuYx (.fyl2x p) yl2xCalc)

/-- |x| < 1 - √2/2, that is |x| < 1 and 2 (1 - |x|)^2 > 1, for a finite x. -/
def F80.inLogRange (x : F80) : Bool :=
  x.isZero || (decide (x.val.top < 0) &&
    (let one := 2 ^ (-x.val.exp).toNat
     decide (one * one < 2 * ((one - x.sig) * (one - x.sig)))))

/-- FYL2XP1: y * log2(x + 1) (R658). -/
def yl2xp1Calc (y x : F80) : Calc :=
  let neg := x.neg != y.neg
  if x.isInf || !x.inLogRange then .free
  else if x.isZero then (if y.isInf then .invalid else .exact (F80.zero neg))
  else if y.isZero then .exact (F80.zero neg)
  else if y.isInf then .exact (F80.inf neg)
  else transCalc .yl2xp1 y x

/-- FYL2XP1 (R658). -/
def execFyl2xp1 (p : Prefixes) (s : State) : Host.Outcome State Fault Refusal :=
  finish (s.fpuYx (.fyl2xp1 p) yl2xp1Calc)

/-! ### Constants (R659 to R665) -/

/-- The push of a constant; no code but C1 changes, and PE is never set (R659). -/
def State.fpuConst (s : State) (i : Instr) (v : F80) : Exec State := s.fpuReg i (s.fpu.loadBits v)

/-- A constant that RC rounds: down and toward zero give the lower value, and nearest gives `near`. -/
def constBy (rc : Rc) (low up near : F80) : F80 :=
  match rc with
  | .nearest => near
  | .down => low
  | .up => up
  | .zero => low

/-- FLD1 (R659). -/
def execFld1 (p : Prefixes) (s : State) : Host.Outcome State Fault Refusal := finish (s.fpuConst (.fld1 p) F80.one)

/-- FLDL2T (R660). -/
def execFldl2t (p : Prefixes) (s : State) : Host.Outcome State Fault Refusal :=
  finish (s.fpuConst (.fldl2t p)
    (constBy s.fpu.rc 0x4000D49A784BCD1B8AFE 0x4000D49A784BCD1B8AFF 0x4000D49A784BCD1B8AFE))

/-- FLDL2E (R661). -/
def execFldl2e (p : Prefixes) (s : State) : Host.Outcome State Fault Refusal :=
  finish (s.fpuConst (.fldl2e p)
    (constBy s.fpu.rc 0x3FFFB8AA3B295C17F0BB 0x3FFFB8AA3B295C17F0BC 0x3FFFB8AA3B295C17F0BC))

/-- FLDPI (R662). -/
def execFldpi (p : Prefixes) (s : State) : Host.Outcome State Fault Refusal :=
  finish (s.fpuConst (.fldpi p)
    (constBy s.fpu.rc 0x4000C90FDAA22168C234 0x4000C90FDAA22168C235 0x4000C90FDAA22168C235))

/-- FLDLG2 (R663). -/
def execFldlg2 (p : Prefixes) (s : State) : Host.Outcome State Fault Refusal :=
  finish (s.fpuConst (.fldlg2 p)
    (constBy s.fpu.rc 0x3FFD9A209A84FBCFF798 0x3FFD9A209A84FBCFF799 0x3FFD9A209A84FBCFF799))

/-- FLDLN2 (R664). -/
def execFldln2 (p : Prefixes) (s : State) : Host.Outcome State Fault Refusal :=
  finish (s.fpuConst (.fldln2 p)
    (constBy s.fpu.rc 0x3FFEB17217F7D1CF79AB 0x3FFEB17217F7D1CF79AC 0x3FFEB17217F7D1CF79AC))

/-- FLDZ (R665). -/
def execFldz (p : Prefixes) (s : State) : Host.Outcome State Fault Refusal :=
  finish (s.fpuConst (.fldz p) (F80.zero false))

end Sys2Proof.Machine
end

