-- ==== Sys2Proof/Machine/Logic.lean ====
section
/-! DEFINITION. The logical, shift, rotate, bit and set instructions (42_logic_shift_bit.md R320 to R343). -/

namespace Sys2Proof.Machine

/-! ### Logical -/

/-- A logical instruction that writes its destination; the draw is AF (R343). -/
def State.logicWrite (s : State) (p : Prefixes) (f : AluForm)
    (op : BitVec (f.width p).bits → BitVec (f.width p).bits → BitVec (f.width p).bits) : Exec State := do
  let s' ← s.aluWrite p f fun a b => (op a b, s.flags.logicFlags s.drawn (op a b))
  .ok s'.useDraw

/-- AND (R320). -/
def execAnd (p : Prefixes) (f : AluForm) (s : State) : Host.Outcome State Fault Refusal :=
  finish (s.logicWrite p f fun a b => a &&& b)

/-- OR (R321). -/
def execOr (p : Prefixes) (f : AluForm) (s : State) : Host.Outcome State Fault Refusal :=
  finish (s.logicWrite p f fun a b => a ||| b)

/-- XOR (R322). -/
def execXor (p : Prefixes) (f : AluForm) (s : State) : Host.Outcome State Fault Refusal :=
  finish (s.logicWrite p f fun a b => a ^^^ b)

/-- NOT: no flag changes (R323). -/
def execNot (p : Prefixes) (f : EForm) (s : State) : Host.Outcome State Fault Refusal :=
  finish (s.unary p (f.width p) f.rm fun a => (~~~a, s.flags))

/-- The end of TEST: the flags of the conjunction. -/
def State.testFlags (s : State) {n : Nat} (r : BitVec n) : State :=
  (s.setFlags (s.flags.logicFlags s.drawn r)).useDraw.commit

/-- TEST: neither operand is written (R324). -/
def execTest (p : Prefixes) (f : TestForm) (s : State) : Host.Outcome State Fault Refusal :=
  finish (match f with
    | .ebGb rm r => do
      let a ← s.readRM p .b8 rm
      .ok (s.testFlags (a &&& s.reg .b8 r))
    | .evGv rm r => do
      let a ← s.readRM p (osW p) rm
      .ok (s.testFlags (a &&& s.reg (osW p) r))
    | .alIb i => .ok (s.testFlags (s.reg .b8 rAL &&& immB i))
    | .eaxIz i => .ok (s.testFlags (s.reg (osW p) rAX &&& immZ (osW p) i))
    | .ebIb rm i => do
      let a ← s.readRM p .b8 rm
      .ok (s.testFlags (a &&& immB i))
    | .evIz rm i => do
      let a ← s.readRM p (osW p) rm
      .ok (s.testFlags (a &&& immZ (osW p) i)))

/-! ### Shifts and rotates -/

/-- The masked count of a group-2 instruction (R325). -/
def State.shiftCount (s : State) : ShiftCount → Nat
  | .one => 1
  | .cl => (s.r8 rCL).toNat % 32
  | .imm i => i.toNat % 32

/-- A group-2 instruction: a count of 0 reads the operand and changes nothing (R325). -/
def State.shift (s : State) (p : Prefixes) (f : EForm) (n : ShiftCount)
    (op : BitVec (f.width p).bits → Nat → BitVec (f.width p).bits × Flags) : Exec State := do
  let a ← s.readRM p (f.width p) f.rm
  if s.shiftCount n = 0 then .ok s.commit
  else do
    let s' ← s.writeRM p (f.width p) f.rm (op a (s.shiftCount n)).1
    .ok (s'.setFlags (op a (s.shiftCount n)).2).useDraw.commit

/-- ROL (R326). -/
def execRol (p : Prefixes) (f : EForm) (n : ShiftCount) (s : State) : Host.Outcome State Fault Refusal :=
  finish (s.shift p f n (rolOp s.flags s.drawn))

/-- ROR (R327). -/
def execRor (p : Prefixes) (f : EForm) (n : ShiftCount) (s : State) : Host.Outcome State Fault Refusal :=
  finish (s.shift p f n (rorOp s.flags s.drawn))

/-- RCL (R328). -/
def execRcl (p : Prefixes) (f : EForm) (n : ShiftCount) (s : State) : Host.Outcome State Fault Refusal :=
  finish (s.shift p f n (rclOp s.flags s.drawn))

/-- RCR (R329). -/
def execRcr (p : Prefixes) (f : EForm) (n : ShiftCount) (s : State) : Host.Outcome State Fault Refusal :=
  finish (s.shift p f n (rcrOp s.flags s.drawn))

/-- SHL (R330). -/
def execShl (p : Prefixes) (f : EForm) (n : ShiftCount) (s : State) : Host.Outcome State Fault Refusal :=
  finish (s.shift p f n (shlOp s.flags s.drawn))

/-- SHR (R331). -/
def execShr (p : Prefixes) (f : EForm) (n : ShiftCount) (s : State) : Host.Outcome State Fault Refusal :=
  finish (s.shift p f n (shrOp s.flags s.drawn))

/-- SAR (R332). -/
def execSar (p : Prefixes) (f : EForm) (n : ShiftCount) (s : State) : Host.Outcome State Fault Refusal :=
  finish (s.shift p f n (sarOp s.flags s.drawn))

/-- The masked count of SHLD and SHRD (R333). -/
def State.dblCount (s : State) : DblCount → Nat
  | .imm i => i.toNat % 32
  | .cl => (s.r8 rCL).toNat % 32

/-- SHLD and SHRD: a count of 0 reads the operand and changes nothing; a count beyond the operand size writes the operand and
does not read it (R333). -/
def State.dblShift (s : State) (p : Prefixes) (rm : RM) (n : DblCount)
    (op : BitVec (osW p).bits → Nat → BitVec (osW p).bits × Flags) : Exec State := do
  let cnt := s.dblCount n
  let a ← if (osW p).bits < cnt then .ok 0 else s.readRM p (osW p) rm
  if cnt = 0 then .ok s.commit
  else do
    let s' ← s.writeRM p (osW p) rm (op a cnt).1
    .ok (s'.setFlags (op a cnt).2).useDraw.commit

/-- SHLD (R333). -/
def execShld (p : Prefixes) (rm : RM) (r : BitVec 3) (n : DblCount) (s : State) : Host.Outcome State Fault Refusal :=
  finish (s.dblShift p rm n fun a cnt => shldOp s.flags s.drawn a (s.reg (osW p) r) cnt)

/-- SHRD (R334). -/
def execShrd (p : Prefixes) (rm : RM) (r : BitVec 3) (n : DblCount) (s : State) : Host.Outcome State Fault Refusal :=
  finish (s.dblShift p rm n fun a cnt => shrdOp s.flags s.drawn a (s.reg (osW p) r) cnt)

/-! ### Bit test and scan -/

/-- Where the operand of a bit test stands: a register, or memory at a linear address. -/
inductive BitLoc where
  | reg (r : BitVec 3)
  | lin (a : Nat)
deriving DecidableEq, Repr

/-- The operand and the bit offset of a bit test at operand size (R335). A register index of a memory operand is signed and
reaches beyond the operand. -/
def State.bitLoc (s : State) (p : Prefixes) (rm : RM) (i : BitIndex) : BitLoc × Nat :=
  match rm, i with
  | .reg r, .reg x => (.reg r, (s.reg (osW p) x).toNat % (osW p).bits)
  | .reg r, .imm b => (.reg r, b.toNat % (osW p).bits)
  | .mem m, .imm b => (.lin (s.memAddr p m), b.toNat % (osW p).bits)
  | .mem m, .reg x =>
    let k := (s.reg (osW p) x).toInt
    (.lin (s.lin (s.seg p m) (s.ea m + BitVec.ofInt 16 ((osW p).bytes * (k / (osW p).bits)))),
      (k % (osW p).bits).toNat)

def State.readLoc (s : State) (w : Width) : BitLoc → Exec (BitVec w.bits)
  | .reg r => .ok (s.reg w r)
  | .lin a => s.linReadW w a

def State.writeLoc (s : State) (w : Width) (v : BitVec w.bits) : BitLoc → Exec State
  | .reg r => .ok (s.setReg w r v)
  | .lin a => s.linWrite a w.bytes v.toNat

/-- The flags of a bit test: CF is the bit, ZF stays, the others are undefined (R336). -/
def Flags.bitFlags (f : Flags) (d : Nat) (b : Bool) : Flags :=
  { f with cf := b, ofl := d.testBit 0, sf := d.testBit 1, af := d.testBit 2, pf := d.testBit 3 }

/-- A bit test that modifies its operand, read and written once (R335). -/
def State.bitModify (s : State) (p : Prefixes) (rm : RM) (i : BitIndex)
    (op : BitVec (osW p).bits → BitVec (osW p).bits → BitVec (osW p).bits) : Exec State := do
  let (loc, off) := s.bitLoc p rm i
  let v ← s.readLoc (osW p) loc
  let s' ← s.writeLoc (osW p) (op v (BitVec.ofNat _ (2 ^ off))) loc
  .ok (s'.setFlags (s.flags.bitFlags s.drawn (v.getLsbD off))).useDraw.commit

/-- BT (R336). -/
def execBt (p : Prefixes) (rm : RM) (i : BitIndex) (s : State) : Host.Outcome State Fault Refusal :=
  finish do
    let (loc, off) := s.bitLoc p rm i
    let v ← s.readLoc (osW p) loc
    .ok (s.setFlags (s.flags.bitFlags s.drawn (v.getLsbD off))).useDraw.commit

/-- BTS (R337). -/
def execBts (p : Prefixes) (rm : RM) (i : BitIndex) (s : State) : Host.Outcome State Fault Refusal :=
  finish (s.bitModify p rm i fun v m => v ||| m)

/-- BTR (R338). -/
def execBtr (p : Prefixes) (rm : RM) (i : BitIndex) (s : State) : Host.Outcome State Fault Refusal :=
  finish (s.bitModify p rm i fun v m => v &&& ~~~m)

/-- BTC (R339). -/
def execBtc (p : Prefixes) (rm : RM) (i : BitIndex) (s : State) : Host.Outcome State Fault Refusal :=
  finish (s.bitModify p rm i fun v m => v ^^^ m)

/-- The smallest i with v[i] = 1. -/
def lowestBit {n : Nat} (v : BitVec n) : Option Nat := (List.range n).find? fun i => v.getLsbD i

/-- The largest i with v[i] = 1. -/
def highestBit {n : Nat} (v : BitVec n) : Option Nat := (List.range n).reverse.find? fun i => v.getLsbD i

/-- The end of a bit scan: with no bit set, ZF is 1 and the register is undefined (R340). -/
def State.scanned (s : State) (w : Width) (r : BitVec 3) (i : Option Nat) : State :=
  let d := s.drawn
  ((s.setReg w r (BitVec.ofNat w.bits (i.getD (d >>> 5)))).setFlags { s.flags with
    zf := i.isNone, cf := d.testBit 0, ofl := d.testBit 1, sf := d.testBit 2, af := d.testBit 3,
    pf := d.testBit 4 }).useDraw.commit

/-- BSF (R340). -/
def execBsf (p : Prefixes) (r : BitVec 3) (rm : RM) (s : State) : Host.Outcome State Fault Refusal :=
  finish do
    let v ← s.readRM p (osW p) rm
    .ok (s.scanned (osW p) r (lowestBit v))

/-- BSR (R341). -/
def execBsr (p : Prefixes) (r : BitVec 3) (rm : RM) (s : State) : Host.Outcome State Fault Refusal :=
  finish do
    let v ← s.readRM p (osW p) rm
    .ok (s.scanned (osW p) r (highestBit v))

/-- SETcc (R342). -/
def execSetcc (p : Prefixes) (cc : BitVec 4) (rm : RM) (s : State) : Host.Outcome State Fault Refusal :=
  finish do
    let s ← s.writeRM p .b8 rm (if s.flags.cond cc then immB 1 else immB 0)
    .ok s.commit

end Sys2Proof.Machine
end

