-- ==== Sys2Proof/Machine/Processor.lean ====
section
/-! DEFINITION. Flag control, processor control and the unsupported instructions (45_processor_control.md R460 to R471). -/

namespace Sys2Proof.Machine

/-- The end of an instruction that only writes a flag. -/
def State.commitFlags (s : State) (f : Flags) : State := (s.setFlags f).commit

/-- CLC (R460). -/
def execClc (_p : Prefixes) (s : State) : Host.Outcome State Fault Refusal :=
  finish (.ok (s.commitFlags { s.flags with cf := false }))

/-- STC (R461). -/
def execStc (_p : Prefixes) (s : State) : Host.Outcome State Fault Refusal :=
  finish (.ok (s.commitFlags { s.flags with cf := true }))

/-- CMC (R462). -/
def execCmc (_p : Prefixes) (s : State) : Host.Outcome State Fault Refusal :=
  finish (.ok (s.commitFlags { s.flags with cf := !s.flags.cf }))

/-- CLD (R463). -/
def execCld (_p : Prefixes) (s : State) : Host.Outcome State Fault Refusal :=
  finish (.ok (s.commitFlags { s.flags with df := false }))

/-- STD (R464). -/
def execStd (_p : Prefixes) (s : State) : Host.Outcome State Fault Refusal :=
  finish (.ok (s.commitFlags { s.flags with df := true }))

/-- CLI: no privilege check (R465). -/
def execCli (_p : Prefixes) (s : State) : Host.Outcome State Fault Refusal :=
  finish (.ok (s.commitFlags { s.flags with ifl := false }))

/-- STI: no delay (R466). -/
def execSti (_p : Prefixes) (s : State) : Host.Outcome State Fault Refusal :=
  finish (.ok (s.commitFlags { s.flags with ifl := true }))

/-- NOP (R467). -/
def execNop (_p : Prefixes) (s : State) : Host.Outcome State Fault Refusal := finish (.ok s.commit)

/-- HLT: the core stops after it (R468). -/
def execHlt (_p : Prefixes) (s : State) : Host.Outcome State Fault Refusal :=
  finish (.ok { s.commit with run := .halted })

/-- WAIT: nothing is ever pending (R469). -/
def execWait (_p : Prefixes) (s : State) : Host.Outcome State Fault Refusal := finish (.ok s.commit)

/-- ARPL: a protected-mode instruction halts the run (R471). -/
def execArpl (_p : Prefixes) (s : State) : Host.Outcome State Fault Refusal :=
  finish (haltWith s (.unsupportedFeature .protectedMode))

/-- The system and protected-mode rows of the two-byte map halt the run (R471). -/
def execSystem (_p : Prefixes) (_op2 : Byte) (s : State) : Host.Outcome State Fault Refusal :=
  finish (haltWith s (.unsupportedFeature .protectedMode))

end Sys2Proof.Machine
end

