-- ==== Sys2Proof/Machine/Strings.lean ====
section
/-! DEFINITION. The string instructions and the repeat prefixes (43_string.md R380 to R388). -/

namespace Sys2Proof.Machine

/-- The step of the index registers: the element size up, or down when DF = 1 (R380). -/
def State.strStep (s : State) (w : Width) : Word :=
  if s.flags.df then -(BitVec.ofNat 16 w.bytes) else BitVec.ofNat 16 w.bytes

/-- `SI <- SI + delta`. -/
def State.stepSi (s : State) (w : Width) : State := s.setR16 rSI (s.r16 rSI + s.strStep w)

/-- `DI <- DI + delta`. -/
def State.stepDi (s : State) (w : Width) : State := s.setR16 rDI (s.r16 rDI + s.strStep w)

/-- The linear address of the string source: DS or the override, SI. -/
def State.strSrc (s : State) (p : Prefixes) : Nat := s.lin (s.dsOr p) (s.r16 rSI)

/-- The linear address of the string destination: ES, DI. -/
def State.strDst (s : State) : Nat := s.lin s.es (s.r16 rDI)

/-- One iteration of MOVS (R382). -/
def State.movsIter (p : Prefixes) (w : Width) (s : State) : Exec State := do
  let v ← s.linReadW w (s.strSrc p)
  let s ← s.linWrite s.strDst w.bytes v.toNat
  .ok ((s.stepSi w).stepDi w)

/-- One iteration of CMPS: source minus destination (R383). -/
def State.cmpsIter (p : Prefixes) (w : Width) (s : State) : Exec State := do
  let a ← s.linReadW w (s.strSrc p)
  let b ← s.linReadW w s.strDst
  .ok (((s.setFlags (s.flags.subFlags a b false)).stepSi w).stepDi w)

/-- One iteration of SCAS (R384). -/
def State.scasIter (w : Width) (s : State) : Exec State := do
  let b ← s.linReadW w s.strDst
  .ok ((s.setFlags (s.flags.subFlags (s.reg w rAX) b false)).stepDi w)

/-- One iteration of LODS (R385). -/
def State.lodsIter (p : Prefixes) (w : Width) (s : State) : Exec State := do
  let v ← s.linReadW w (s.strSrc p)
  .ok ((s.setReg w rAX v).stepSi w)

/-- One iteration of STOS (R386). -/
def State.stosIter (w : Width) (s : State) : Exec State := do
  let s ← s.linWrite s.strDst w.bytes (s.reg w rAX).toNat
  .ok (s.stepDi w)

/-- One iteration of INS: the port is read before the store (R387). -/
def State.insIter (w : Width) (s : State) : Exec State := do
  let r := s.ioRead (s.r16 rDX) w.bytes
  let s ← r.2.linWrite r.2.strDst w.bytes r.1
  .ok (s.stepDi w)

/-- One iteration of OUTS (R388). -/
def State.outsIter (p : Prefixes) (w : Width) (s : State) : Exec State := do
  let v ← s.linReadW w (s.strSrc p)
  .ok ((s.ioWrite (s.r16 rDX) w.bytes v.toNat).stepSi w)

/-- At most `n` iterations, CX counting down after each; `stop` ends them early (R381). -/
def repLoop (iter : State → Exec State) (stop : State → Bool) : Nat → State → Exec State
  | 0, s => .ok s
  | n + 1, s => do
    let s ← iter s
    let s := s.setR16 rCX (s.r16 rCX - 1)
    if stop s then .ok s else repLoop iter stop n s

/-- A string instruction: one iteration, or under a repeat prefix as many as CX says (R381). -/
def State.string (s : State) (p : Prefixes) (iter : State → Exec State) (stop : State → Bool) : Exec State := do
  let s ← match p.rep with
    | none => iter s
    | some _ => repLoop iter stop (s.r16 rCX).toNat s
  .ok s.commit

/-- A repeated MOVS, LODS, STOS, INS or OUTS ends only when CX does. -/
def noStop (_ : State) : Bool := false

/-- A repeated CMPS or SCAS also ends when ZF is not what the prefix asks for: 1 under REPE, 0 under REPNE (R381). -/
def zfStop (p : Prefixes) (s : State) : Bool :=
  match p.rep with
  | some .rep => !s.flags.zf
  | some .repne => s.flags.zf
  | none => false

/-- MOVSB (R382). -/
def execMovsb (p : Prefixes) (s : State) : Host.Outcome State Fault Refusal :=
  finish (s.string p (State.movsIter p .b8) noStop)

/-- MOVSW and MOVSD (R382). -/
def execMovsw (p : Prefixes) (s : State) : Host.Outcome State Fault Refusal :=
  finish (s.string p (State.movsIter p (osW p)) noStop)

/-- CMPSB (R383). -/
def execCmpsb (p : Prefixes) (s : State) : Host.Outcome State Fault Refusal :=
  finish (s.string p (State.cmpsIter p .b8) (zfStop p))

/-- CMPSW and CMPSD (R383). -/
def execCmpsw (p : Prefixes) (s : State) : Host.Outcome State Fault Refusal :=
  finish (s.string p (State.cmpsIter p (osW p)) (zfStop p))

/-- SCASB (R384). -/
def execScasb (p : Prefixes) (s : State) : Host.Outcome State Fault Refusal :=
  finish (s.string p (State.scasIter .b8) (zfStop p))

/-- SCASW and SCASD (R384). -/
def execScasw (p : Prefixes) (s : State) : Host.Outcome State Fault Refusal :=
  finish (s.string p (State.scasIter (osW p)) (zfStop p))

/-- LODSB (R385). -/
def execLodsb (p : Prefixes) (s : State) : Host.Outcome State Fault Refusal :=
  finish (s.string p (State.lodsIter p .b8) noStop)

/-- LODSW and LODSD (R385). -/
def execLodsw (p : Prefixes) (s : State) : Host.Outcome State Fault Refusal :=
  finish (s.string p (State.lodsIter p (osW p)) noStop)

/-- STOSB (R386). -/
def execStosb (p : Prefixes) (s : State) : Host.Outcome State Fault Refusal :=
  finish (s.string p (State.stosIter .b8) noStop)

/-- STOSW and STOSD (R386). -/
def execStosw (p : Prefixes) (s : State) : Host.Outcome State Fault Refusal :=
  finish (s.string p (State.stosIter (osW p)) noStop)

/-- INSB (R387). -/
def execInsb (p : Prefixes) (s : State) : Host.Outcome State Fault Refusal :=
  finish (s.string p (State.insIter .b8) noStop)

/-- INSW and INSD (R387). -/
def execInsw (p : Prefixes) (s : State) : Host.Outcome State Fault Refusal :=
  finish (s.string p (State.insIter (osW p)) noStop)

/-- OUTSB (R388). -/
def execOutsb (p : Prefixes) (s : State) : Host.Outcome State Fault Refusal :=
  finish (s.string p (State.outsIter p .b8) noStop)

/-- OUTSW and OUTSD (R388). -/
def execOutsw (p : Prefixes) (s : State) : Host.Outcome State Fault Refusal :=
  finish (s.string p (State.outsIter p (osW p)) noStop)

end Sys2Proof.Machine
end

