-- ==== Sys2Proof/Machine/Dispatch.lean ====
section
/-! DEFINITION. The one dispatch from an instruction to its meaning. -/

namespace Sys2Proof.Machine

/-- What an instruction does: the meaning of its constructor. -/
def exec (i : Instr) (s : State) : Host.Outcome State Fault Refusal :=
  match i with
  -- 40_data_transfer.md
  | .mov p f => Sys2Proof.Machine.execMov p f s
  | .movMoffs p f => Sys2Proof.Machine.execMovMoffs p f s
  | .movFromSeg p rm sr => Sys2Proof.Machine.execMovFromSeg p rm sr s
  | .movToSeg p sr rm => Sys2Proof.Machine.execMovToSeg p sr rm s
  | .xchg p f => Sys2Proof.Machine.execXchg p f s
  | .push p f => Sys2Proof.Machine.execPush p f s
  | .pushImm p f => Sys2Proof.Machine.execPushImm p f s
  | .pushSeg p sr => Sys2Proof.Machine.execPushSeg p sr s
  | .pushFs p => Sys2Proof.Machine.execPushFs p s
  | .pushGs p => Sys2Proof.Machine.execPushGs p s
  | .pop p f => Sys2Proof.Machine.execPop p f s
  | .popSeg p sr => Sys2Proof.Machine.execPopSeg p sr s
  | .popFs p => Sys2Proof.Machine.execPopFs p s
  | .popGs p => Sys2Proof.Machine.execPopGs p s
  | .pusha p => Sys2Proof.Machine.execPusha p s
  | .popa p => Sys2Proof.Machine.execPopa p s
  | .pushf p => Sys2Proof.Machine.execPushf p s
  | .popf p => Sys2Proof.Machine.execPopf p s
  | .lds p r m => Sys2Proof.Machine.execLds p r m s
  | .les p r m => Sys2Proof.Machine.execLes p r m s
  | .lss p r m => Sys2Proof.Machine.execLss p r m s
  | .lfs p => Sys2Proof.Machine.execLfs p s
  | .lgs p => Sys2Proof.Machine.execLgs p s
  | .lea p r m => Sys2Proof.Machine.execLea p r m s
  | .xlat p => Sys2Proof.Machine.execXlat p s
  | .lahf p => Sys2Proof.Machine.execLahf p s
  | .sahf p => Sys2Proof.Machine.execSahf p s
  | .cbw p => Sys2Proof.Machine.execCbw p s
  | .cwd p => Sys2Proof.Machine.execCwd p s
  | .movzx p r wide rm => Sys2Proof.Machine.execMovzx p r wide rm s
  | .movsx p r wide rm => Sys2Proof.Machine.execMovsx p r wide rm s
  | .inPort p wide src => Sys2Proof.Machine.execInPort p wide src s
  | .outPort p wide dst => Sys2Proof.Machine.execOutPort p wide dst s
  -- 41_arithmetic.md
  | .add p f => Sys2Proof.Machine.execAdd p f s
  | .adc p f => Sys2Proof.Machine.execAdc p f s
  | .sub p f => Sys2Proof.Machine.execSub p f s
  | .sbb p f => Sys2Proof.Machine.execSbb p f s
  | .cmp p f => Sys2Proof.Machine.execCmp p f s
  | .inc p f => Sys2Proof.Machine.execInc p f s
  | .dec p f => Sys2Proof.Machine.execDec p f s
  | .neg p f => Sys2Proof.Machine.execNeg p f s
  | .mul p f => Sys2Proof.Machine.execMul p f s
  | .imul1 p f => Sys2Proof.Machine.execImul1 p f s
  | .imul2 p r rm => Sys2Proof.Machine.execImul2 p r rm s
  | .imul3 p r rm f => Sys2Proof.Machine.execImul3 p r rm f s
  | .div p f => Sys2Proof.Machine.execDiv p f s
  | .idiv p f => Sys2Proof.Machine.execIdiv p f s
  | .daa p => Sys2Proof.Machine.execDaa p s
  | .das p => Sys2Proof.Machine.execDas p s
  | .aaa p => Sys2Proof.Machine.execAaa p s
  | .aas p => Sys2Proof.Machine.execAas p s
  | .aam p k => Sys2Proof.Machine.execAam p k s
  | .aad p k => Sys2Proof.Machine.execAad p k s
  -- 42_logic_shift_bit.md
  | .and p f => Sys2Proof.Machine.execAnd p f s
  | .or p f => Sys2Proof.Machine.execOr p f s
  | .xor p f => Sys2Proof.Machine.execXor p f s
  | .not p f => Sys2Proof.Machine.execNot p f s
  | .test p f => Sys2Proof.Machine.execTest p f s
  | .rol p f n => Sys2Proof.Machine.execRol p f n s
  | .ror p f n => Sys2Proof.Machine.execRor p f n s
  | .rcl p f n => Sys2Proof.Machine.execRcl p f n s
  | .rcr p f n => Sys2Proof.Machine.execRcr p f n s
  | .shl p f n => Sys2Proof.Machine.execShl p f n s
  | .shr p f n => Sys2Proof.Machine.execShr p f n s
  | .sar p f n => Sys2Proof.Machine.execSar p f n s
  | .shld p rm r n => Sys2Proof.Machine.execShld p rm r n s
  | .shrd p rm r n => Sys2Proof.Machine.execShrd p rm r n s
  | .bt p rm k => Sys2Proof.Machine.execBt p rm k s
  | .bts p rm k => Sys2Proof.Machine.execBts p rm k s
  | .btr p rm k => Sys2Proof.Machine.execBtr p rm k s
  | .btc p rm k => Sys2Proof.Machine.execBtc p rm k s
  | .bsf p r rm => Sys2Proof.Machine.execBsf p r rm s
  | .bsr p r rm => Sys2Proof.Machine.execBsr p r rm s
  | .setcc p cc rm => Sys2Proof.Machine.execSetcc p cc rm s
  -- 43_string.md
  | .movsb p => Sys2Proof.Machine.execMovsb p s
  | .movsw p => Sys2Proof.Machine.execMovsw p s
  | .cmpsb p => Sys2Proof.Machine.execCmpsb p s
  | .cmpsw p => Sys2Proof.Machine.execCmpsw p s
  | .scasb p => Sys2Proof.Machine.execScasb p s
  | .scasw p => Sys2Proof.Machine.execScasw p s
  | .lodsb p => Sys2Proof.Machine.execLodsb p s
  | .lodsw p => Sys2Proof.Machine.execLodsw p s
  | .stosb p => Sys2Proof.Machine.execStosb p s
  | .stosw p => Sys2Proof.Machine.execStosw p s
  | .insb p => Sys2Proof.Machine.execInsb p s
  | .insw p => Sys2Proof.Machine.execInsw p s
  | .outsb p => Sys2Proof.Machine.execOutsb p s
  | .outsw p => Sys2Proof.Machine.execOutsw p s
  -- 44_control_transfer.md
  | .jmpRel p t => Sys2Proof.Machine.execJmpRel p t s
  | .jmpInd p rm => Sys2Proof.Machine.execJmpInd p rm s
  | .jmpFar p off seg => Sys2Proof.Machine.execJmpFar p off seg s
  | .jmpFarInd p m => Sys2Proof.Machine.execJmpFarInd p m s
  | .jccShort p cc d => Sys2Proof.Machine.execJccShort p cc d s
  | .jccNear p cc d => Sys2Proof.Machine.execJccNear p cc d s
  | .jcxz p d => Sys2Proof.Machine.execJcxz p d s
  | .loop p d => Sys2Proof.Machine.execLoop p d s
  | .loope p d => Sys2Proof.Machine.execLoope p d s
  | .loopne p d => Sys2Proof.Machine.execLoopne p d s
  | .callRel p d => Sys2Proof.Machine.execCallRel p d s
  | .callInd p rm => Sys2Proof.Machine.execCallInd p rm s
  | .callFar p off seg => Sys2Proof.Machine.execCallFar p off seg s
  | .callFarInd p m => Sys2Proof.Machine.execCallFarInd p m s
  | .ret p n => Sys2Proof.Machine.execRet p n s
  | .retf p n => Sys2Proof.Machine.execRetf p n s
  | .int p v => Sys2Proof.Machine.execInt p v s
  | .int3 p => Sys2Proof.Machine.execInt3 p s
  | .into p => Sys2Proof.Machine.execInto p s
  | .iret p => Sys2Proof.Machine.execIret p s
  | .enter p size level => Sys2Proof.Machine.execEnter p size level s
  | .leave p => Sys2Proof.Machine.execLeave p s
  | .bound p r m => Sys2Proof.Machine.execBound p r m s
  -- 45_processor_control.md
  | .clc p => Sys2Proof.Machine.execClc p s
  | .stc p => Sys2Proof.Machine.execStc p s
  | .cmc p => Sys2Proof.Machine.execCmc p s
  | .cld p => Sys2Proof.Machine.execCld p s
  | .std p => Sys2Proof.Machine.execStd p s
  | .cli p => Sys2Proof.Machine.execCli p s
  | .sti p => Sys2Proof.Machine.execSti p s
  | .nop p => Sys2Proof.Machine.execNop p s
  | .hlt p => Sys2Proof.Machine.execHlt p s
  | .wait p => Sys2Proof.Machine.execWait p s
  | .arpl p => Sys2Proof.Machine.execArpl p s
  | .system p op2 => Sys2Proof.Machine.execSystem p op2 s
  -- 47_fpu_transfer_arith.md
  | .fld p f => Sys2Proof.Machine.execFld p f s
  | .fild p f => Sys2Proof.Machine.execFild p f s
  | .fbld p m => Sys2Proof.Machine.execFbld p m s
  | .fst p f => Sys2Proof.Machine.execFst p f s
  | .fstp p f => Sys2Proof.Machine.execFstp p f s
  | .fist p f => Sys2Proof.Machine.execFist p f s
  | .fistp p f => Sys2Proof.Machine.execFistp p f s
  | .fbstp p m => Sys2Proof.Machine.execFbstp p m s
  | .fxch p k => Sys2Proof.Machine.execFxch p k s
  | .fadd p f => Sys2Proof.Machine.execFadd p f s
  | .faddp p k => Sys2Proof.Machine.execFaddp p k s
  | .fiadd p f => Sys2Proof.Machine.execFiadd p f s
  | .fsub p f => Sys2Proof.Machine.execFsub p f s
  | .fsubp p k => Sys2Proof.Machine.execFsubp p k s
  | .fisub p f => Sys2Proof.Machine.execFisub p f s
  | .fsubr p f => Sys2Proof.Machine.execFsubr p f s
  | .fsubrp p k => Sys2Proof.Machine.execFsubrp p k s
  | .fisubr p f => Sys2Proof.Machine.execFisubr p f s
  | .fmul p f => Sys2Proof.Machine.execFmul p f s
  | .fmulp p k => Sys2Proof.Machine.execFmulp p k s
  | .fimul p f => Sys2Proof.Machine.execFimul p f s
  | .fdiv p f => Sys2Proof.Machine.execFdiv p f s
  | .fdivp p k => Sys2Proof.Machine.execFdivp p k s
  | .fidiv p f => Sys2Proof.Machine.execFidiv p f s
  | .fdivr p f => Sys2Proof.Machine.execFdivr p f s
  | .fdivrp p k => Sys2Proof.Machine.execFdivrp p k s
  | .fidivr p f => Sys2Proof.Machine.execFidivr p f s
  | .fsqrt p => Sys2Proof.Machine.execFsqrt p s
  | .fabs p => Sys2Proof.Machine.execFabs p s
  | .fchs p => Sys2Proof.Machine.execFchs p s
  | .frndint p => Sys2Proof.Machine.execFrndint p s
  | .fscale p => Sys2Proof.Machine.execFscale p s
  | .fxtract p => Sys2Proof.Machine.execFxtract p s
  | .fprem p => Sys2Proof.Machine.execFprem p s
  | .fprem1 p => Sys2Proof.Machine.execFprem1 p s
  -- 48_fpu_compare_trans_control.md
  | .fcom p f => Sys2Proof.Machine.execFcom p f s
  | .fcomp p f => Sys2Proof.Machine.execFcomp p f s
  | .fcompp p => Sys2Proof.Machine.execFcompp p s
  | .fucom p k => Sys2Proof.Machine.execFucom p k s
  | .fucomp p k => Sys2Proof.Machine.execFucomp p k s
  | .fucompp p => Sys2Proof.Machine.execFucompp p s
  | .ficom p f => Sys2Proof.Machine.execFicom p f s
  | .ficomp p f => Sys2Proof.Machine.execFicomp p f s
  | .ftst p => Sys2Proof.Machine.execFtst p s
  | .fxam p => Sys2Proof.Machine.execFxam p s
  | .f2xm1 p => Sys2Proof.Machine.execF2xm1 p s
  | .fyl2x p => Sys2Proof.Machine.execFyl2x p s
  | .fyl2xp1 p => Sys2Proof.Machine.execFyl2xp1 p s
  | .fptan p => Sys2Proof.Machine.execFptan p s
  | .fpatan p => Sys2Proof.Machine.execFpatan p s
  | .fsin p => Sys2Proof.Machine.execFsin p s
  | .fcos p => Sys2Proof.Machine.execFcos p s
  | .fsincos p => Sys2Proof.Machine.execFsincos p s
  | .fld1 p => Sys2Proof.Machine.execFld1 p s
  | .fldl2t p => Sys2Proof.Machine.execFldl2t p s
  | .fldl2e p => Sys2Proof.Machine.execFldl2e p s
  | .fldpi p => Sys2Proof.Machine.execFldpi p s
  | .fldlg2 p => Sys2Proof.Machine.execFldlg2 p s
  | .fldln2 p => Sys2Proof.Machine.execFldln2 p s
  | .fldz p => Sys2Proof.Machine.execFldz p s
  | .fldcw p m => Sys2Proof.Machine.execFldcw p m s
  | .fnstcw p m => Sys2Proof.Machine.execFnstcw p m s
  | .fnstsw p d => Sys2Proof.Machine.execFnstsw p d s
  | .fnclex p => Sys2Proof.Machine.execFnclex p s
  | .fninit p => Sys2Proof.Machine.execFninit p s
  | .fldenv p m => Sys2Proof.Machine.execFldenv p m s
  | .fnstenv p m => Sys2Proof.Machine.execFnstenv p m s
  | .frstor p m => Sys2Proof.Machine.execFrstor p m s
  | .fnsave p m => Sys2Proof.Machine.execFnsave p m s
  | .fincstp p => Sys2Proof.Machine.execFincstp p s
  | .fdecstp p => Sys2Proof.Machine.execFdecstp p s
  | .ffree p k => Sys2Proof.Machine.execFfree p k s
  | .fnop p => Sys2Proof.Machine.execFnop p s
  | .feni p => Sys2Proof.Machine.execFeni p s
  | .fdisi p => Sys2Proof.Machine.execFdisi p s
  | .fsetpm p => Sys2Proof.Machine.execFsetpm p s

end Sys2Proof.Machine
end

