-- ==== Sys2Proof/Machine/Cycle.lean ====
section
/-! DEFINITION. The execution cycle: fetch and decode (30_encoding.md R142 to R148), one instruction with its single-step
trap (60_exceptions.md R740), and an external interrupt (R746). -/

namespace Sys2Proof.Machine

/-! ### Fetch and decode -/

/-- The bytes at CS:IP + k for n values of k, up to the first that memory does not hold, and its address (20_memory.md R115,
30_encoding.md R142). -/
def State.window (s : State) : Nat → Nat → List Byte × Option Nat
  | _, 0 => ([], none)
  | k, n + 1 =>
    let a := s.lin s.cs (s.ip + BitVec.ofNat 16 k)
    if a < s.par.memSize then
      let r := s.window (k + 1) n
      (s.peek a :: r.1, r.2)
    else ([], some a)

/-- The outcome of fetch and decode (R148). -/
inductive Fetched where
  | instr (i : Instr) (len : Nat)
  | invalid (bytes : List Byte)
  | unsupported (f : Feature)
  | fault (a : Nat)
deriving DecidableEq, Repr

/-- The outcome that the bytes of a window decode to. An instruction that needs a byte memory does not hold halts there; one
that needs a 16th byte is invalid (R146). -/
def fetchedOf (bytes : List Byte) (hole : Option Nat) : Fetched :=
  match decode bytes with
  | .ok (i, rest) => .instr i (bytes.length - rest.length)
  | .error (.invalid rest) => .invalid (bytes.take (bytes.length - rest.length))
  | .error (.unsupported f) => .unsupported f
  | .error .needMore =>
    match hole with
    | some a => .fault a
    | none => .invalid bytes

/-- Fetch and decode the instruction at CS:IP, of at most 15 bytes. -/
def State.fetch (s : State) : Fetched := fetchedOf (s.window 0 15).1 (s.window 0 15).2

/-! ### One instruction -/

/-- The start of an instruction of `len` bytes: the names of 00_scope.md R14. -/
def State.begin (s : State) (len : Nat) : State :=
  { s with ctx := { startCs := s.cs, startIp := s.ip, nextIp := s.ip + BitVec.ofNat 16 len, dispatched := false } }

/-- The run has not ended. -/
def State.alive (s : State) : Bool := s.run == .running || s.run == .halted

/-- The single-step trap at the end of an instruction begun with TF = `tf`: not if it dispatched, ended the run or set the
shadow (60_exceptions.md R740). -/
def State.singleStep (s : State) (tf : Bool) : State :=
  if tf && !s.ctx.dispatched && s.alive && !s.shadow then s.dispatch 1 s.ip else s

/-- One instruction step (30_encoding.md R162, 60_exceptions.md R745, R747). -/
def State.instruction (s : State) : Host.Outcome State Fault Refusal :=
  match s.fetch with
  | .instr i len =>
    match exec i (s.begin len) with
    | .next t => .next (t.singleStep s.flags.tf)
    | .fault r => .fault r
    | .refused r => .refused r
  | .invalid bytes => .next ((s.begin 0).invalidOpcode bytes)
  | .unsupported f => .next ((s.begin 0).halt (.unsupportedFeature f))
  | .fault a => .next ((s.begin 0).halt (.addressFault a))

/-! ### External interrupts (60_exceptions.md R746) -/

/-- The vector the host injects at this boundary, if it may and does: P_EXTINT = host, IF = 1 and no shadow. -/
def State.injected (s : State) : Option Byte :=
  match s.par.extInt with
  | .never => none
  | .host => if s.flags.ifl && !s.shadow then Config.injection s.draws else none

/-- The boundary once the host has made its choice: where it has one, the choice takes a number of the counter. -/
def State.boundary (s : State) : State :=
  match s.par.extInt with
  | .never => s
  | .host => s.useDraw

/-- An external interrupt: the dispatch of its vector with the IP at the boundary. -/
def State.external (s : State) (v : Byte) : State := (s.begin 0).dispatch v s.ip

/-- A step of a core that runs: an external interrupt or an instruction. -/
def State.runStep (s : State) : Host.Outcome State Fault Refusal :=
  match s.injected with
  | some v => .next (s.boundary.external v)
  | none => s.boundary.instruction

/-- A step of a halted core: only an external interrupt wakes it (10_state.md R75); where the host may inject one and does
not, the core stays as it is. -/
def State.haltStep (s : State) : Host.Outcome State Fault Refusal :=
  match s.par.extInt with
  | .never => .fault .haltedForever
  | .host =>
    match s.injected with
    | some v => .next (s.boundary.external v)
    | none => .next s.boundary

/-! ### Placing an instruction -/

/-- Bytes stored from CS:IP + k on, where the fetch reads them. -/
def State.place (s : State) : Nat → List Byte → State
  | _, [] => s
  | k, b :: rest => (s.poke (s.lin s.cs (s.ip + BitVec.ofNat 16 k)) b).place (k + 1) rest

end Sys2Proof.Machine
end

