-- ==== Sys2Proof/Machine/Step.lean ====
section
/-! DEFINITION. One step of the machine, and the placing of one instruction where it fetches. -/

namespace Sys2Proof.Machine

/-- One step (60_exceptions.md R745): an instruction or an external interrupt while the core runs; an ended run has no step
(10_state.md R73). -/
def step (s : State) : Host.Outcome State Fault Refusal :=
  match s.run with
  | .running => s.runStep
  | .halted => s.haltStep
  | .terminated code => .fault (.terminated code)
  | .faulted reason cs ip => .fault (.faulted reason cs ip)

/-- The state with the instruction whose bits are `w` at CS:IP, followed by zeros up to 15 bytes (notes/assumptions/13.md). -/
def State.withFetchWord (s : State) (nbits w : Nat) : State := s.place 0 (tableBytes nbits w)

end Sys2Proof.Machine
end

