-- ==== Sys2Proof/Safety.lean ====
section
/-! DEFINITION. The terms in which statements about the machine are made: which accesses are backed by memory, what an
operand holds, what an instruction leaves unchanged, the flag formulas of the spec, and the invariant of a run. -/

namespace Sys2Proof

/-- The one r/m operand of an ALU form. -/
def AluForm.rmOf : AluForm → RM
  | .ebGb rm _ | .evGv rm _ | .gbEb _ rm | .gvEv _ rm | .ebIb rm _ | .evIz rm _ | .ebIb82 rm _ | .evIbs rm _ => rm
  | .alIb _ | .eaxIz _ => .reg 0

/-- The width of a MOV form (40_data_transfer.md R200). -/
def MovForm.width (p : Prefixes) : MovForm → Width
  | .ebGb _ _ | .gbEb _ _ | .gbIb _ _ | .ebIb _ _ => .b8
  | .evGv _ _ | .gvEv _ _ | .gvIz _ _ | .evIz _ _ => Width.ofOs p.os32

/-- The destination of a MOV form. -/
def MovForm.dst : MovForm → RM
  | .ebGb rm _ | .evGv rm _ | .ebIb rm _ | .evIz rm _ => rm
  | .gbEb r _ | .gvEv r _ | .gbIb r _ | .gvIz r _ => .reg r

/-- The r/m operand of a MOV form, or its register where it has none. -/
def MovForm.rmOf : MovForm → RM
  | .ebGb rm _ | .evGv rm _ | .ebIb rm _ | .evIz rm _ | .gbEb _ rm | .gvEv _ rm => rm
  | .gbIb r _ | .gvIz r _ => .reg r

/-- The operand of a PUSH or POP form. -/
def StackForm.rmOf : StackForm → RM
  | .reg r => .reg r
  | .rm e => e

/-- The width of a TEST form. -/
def TestForm.width (p : Prefixes) : TestForm → Width
  | .ebGb _ _ | .alIb _ | .ebIb _ _ => .b8
  | .evGv _ _ | .eaxIz _ | .evIz _ _ => Width.ofOs p.os32

/-- The first operand of a TEST form. -/
def TestForm.dst : TestForm → RM
  | .ebGb rm _ | .evGv rm _ | .ebIb rm _ | .evIz rm _ => rm
  | .alIb _ | .eaxIz _ => .reg 0

end Sys2Proof

namespace Sys2Proof.Machine

/-! ### Memory -/

/-- Every one of the `n` bytes from address `a` on, taken around the ring, is backed by memory (20_memory.md R103, R105). -/
abbrev State.Backed (s : State) (a n : Nat) : Prop := ∀ i, i < n → (a + i) % s.par.ring < s.par.memSize

/-- The number that `n` bytes from address `a` on hold, the first byte lowest (20_memory.md R105, R108). -/
def State.bytesAt (s : State) : Nat → Nat → Nat
  | _, 0 => 0
  | a, n + 1 => (s.peek (a % s.par.ring)).toNat + 256 * s.bytesAt (a + 1) n

/-- The `n` bytes from address `a` on hold the number `v`, the first byte lowest. -/
abbrev State.Holds (t : State) (a n v : Nat) : Prop :=
  ∀ i, i < n → t.peek ((a + i) % t.par.ring) = BitVec.ofNat 8 (v / 256 ^ i)

/-- Every byte of memory outside the `n` bytes from address `a` on is the same in both states. -/
def State.SameOutside (s t : State) (a n : Nat) : Prop :=
  ∀ b, (∀ i, i < n → b ≠ (a + i) % s.par.ring) → t.peek b = s.peek b

/-- `n` bytes stored from address `a` on: they hold `v`, and every other byte is the same. -/
def State.Stores (s t : State) (a n v : Nat) : Prop := t.Holds a n v ∧ s.SameOutside t a n

/-- What the byte at `b` reads after a host has written these bytes: the last one written to it, if it is backed by memory
(60_exceptions.md R731, notes/assumptions/9.md). -/
def State.peekAfter (s : State) (writes : List (Nat × Byte)) (b : Nat) : Byte :=
  match writes.reverse.find? fun w => w.1 == b with
  | some w => if b < s.par.memSize then w.2 else s.peek b
  | none => s.peek b

/-- The address of byte k at CS:IP, taken around the segment (20_memory.md R115). -/
abbrev State.codeAt (s : State) (k : Nat) : Nat := s.lin s.cs (s.ip + BitVec.ofNat 16 k)

/-- The `n` bytes from CS:IP on. -/
def State.codeBytes (s : State) (n : Nat) : List Byte := (List.range n).map fun k => s.peek (s.codeAt k)

/-- The fetch at CS:IP finds exactly `n` bytes: 15, or fewer where the next one lies at or above P_MEMSIZE (20_memory.md R115,
30_encoding.md R146). -/
abbrev State.Fetches (s : State) (n : Nat) : Prop :=
  n ≤ 15 ∧ (∀ k, k < n → s.codeAt k < s.par.memSize) ∧ (n < 15 → s.par.memSize ≤ s.codeAt n)

/-! ### Operands -/

/-- A read or write of the operand touches only backed memory. -/
def State.Reaches (s : State) (p : Prefixes) (w : Width) : RM → Prop
  | .reg _ => True
  | .mem m => s.Backed (s.memAddr p m) w.bytes

/-- What an r/m operand holds at width w (30_encoding.md R153). -/
def State.operand (s : State) (p : Prefixes) (w : Width) : RM → BitVec w.bits
  | .reg r => s.reg w r
  | .mem m => BitVec.ofNat w.bits (s.bytesAt (s.memAddr p m) w.bytes)

/-- The general registers and memory of `t` are those of `s` but for the r/m operand, which holds `v`. -/
def State.Writes (s t : State) (p : Prefixes) (w : Width) (rm : RM) (v : BitVec w.bits) : Prop :=
  match rm with
  | .reg r => t.gpr = (s.setReg w r v).gpr ∧ t.mem = s.mem
  | .mem m => t.gpr = s.gpr ∧ s.Stores t (s.memAddr p m) w.bytes v.toNat

/-- What the source of an ALU form holds (41_arithmetic.md R285). -/
def State.source (s : State) (p : Prefixes) : (f : AluForm) → BitVec (f.width p).bits
  | .ebGb _ r => s.reg .b8 r
  | .evGv _ r => s.reg (osW p) r
  | .gbEb _ rm => s.operand p .b8 rm
  | .gvEv _ rm => s.operand p (osW p) rm
  | .alIb i => i
  | .eaxIz i => immZ (osW p) i
  | .ebIb _ i => i
  | .evIz _ i => immZ (osW p) i
  | .ebIb82 _ i => i
  | .evIbs _ i => immS (osW p) i

/-- What the source of a MOV form holds. -/
def State.moveSource (s : State) (p : Prefixes) : (f : MovForm) → BitVec (f.width p).bits
  | .ebGb _ r => s.reg .b8 r
  | .evGv _ r => s.reg (osW p) r
  | .gbEb _ rm => s.operand p .b8 rm
  | .gvEv _ rm => s.operand p (osW p) rm
  | .gbIb _ i => i
  | .gvIz _ i => immZ (osW p) i
  | .ebIb _ i => i
  | .evIz _ i => immZ (osW p) i

/-- What the second operand of a TEST form holds. -/
def State.testSource (s : State) (p : Prefixes) : (f : TestForm) → BitVec (f.width p).bits
  | .ebGb _ r => s.reg .b8 r
  | .evGv _ r => s.reg (osW p) r
  | .alIb i => i
  | .eaxIz i => immZ (osW p) i
  | .ebIb _ i => i
  | .evIz _ i => immZ (osW p) i

/-- The bit number of a bit test within its operand: the index modulo the operand size (42_logic_shift_bit.md R335). -/
def State.bitNumber (s : State) (w : Width) : BitIndex → Nat
  | .reg x => (s.reg w x).toNat % w.bits
  | .imm b => b.toNat % w.bits

/-- The register of a remainder: AH, DX or EDX (41_arithmetic.md R277). -/
def remReg : Width → BitVec 3
  | .b8 => rAH
  | .b16 | .b32 => rDX

/-- A signed integer fits the width. -/
abbrev FitsSigned (w : Width) (i : Int) : Prop := -(2 ^ (w.bits - 1)) ≤ i ∧ i < 2 ^ (w.bits - 1)

/-! ### What stays -/

/-- The general registers are those of `s` but for AX, DX:AX or EDX:EAX, the value of double width (41_arithmetic.md R273). -/
def State.KeepsButDouble (s t : State) (w : Width) : Prop :=
  (∀ r : BitVec 3, r ≠ rAX → (w = .b8 ∨ r ≠ rDX) → t.r32 r = s.r32 r) ∧
    (w ≠ .b32 → ∀ r : BitVec 3, (t.r32 r).extractLsb' 16 16 = (s.r32 r).extractLsb' 16 16)


/-- `t` is `s` but for the general registers, FLAGS, memory and the counter of the free values, with IP past the instruction
and the shadow ended. -/
def State.Commits (s t : State) : Prop :=
  t = { s with
    gpr := t.gpr, flags := t.flags, mem := t.mem, draws := t.draws, ip := s.ctx.nextIp, shadow := false }

/-- `t` is `s` but for the general registers, memory, CS, IP and the counter of the free values, with the shadow ended. -/
def State.Jumps (s t : State) (cs ip : Word) : Prop :=
  t = { s with gpr := t.gpr, mem := t.mem, draws := t.draws, cs := cs, ip := ip, shadow := false }

/-- The address of the stack slot of `n` bytes below SP (20_memory.md R113). -/
def State.slot (s : State) (n : Nat) : Nat := s.lin s.ss (s.r16 rSP - BitVec.ofNat 16 n)

/-- `t` is `s` after a push of the number `v` in `n` bytes: SP is `n` less, the slot holds `v`, and nothing else changes but
that the instruction commits. -/
def State.Pushes (s t : State) (n v : Nat) : Prop :=
  s.Commits t ∧ t.flags = s.flags ∧ t.gpr = (s.setR16 rSP (s.r16 rSP - BitVec.ofNat 16 n)).gpr ∧
    s.Stores t (s.slot n) n v

/-- `t` is `s` after a far call to seg:ip at width w: CS is pushed, then next_ip, each in a slot of the width; the upper word of
a slot of 4 bytes that CS is pushed in is cleared or unchanged (44_control_transfer.md R423). -/
def State.FarCalls (s t : State) (w : Width) (seg ip : Word) : Prop :=
  s.Jumps t seg ip ∧ t.gpr = (s.setR16 rSP (s.r16 rSP - BitVec.ofNat 16 (2 * w.bytes))).gpr ∧
    t.Holds (s.slot w.bytes) 2 s.cs.toNat ∧ t.Holds (s.slot (2 * w.bytes)) w.bytes s.ctx.nextIp.toNat ∧
    (∀ b, (∀ i, i < w.bytes → b ≠ (s.slot w.bytes + i) % s.par.ring ∧ b ≠ (s.slot (2 * w.bytes) + i) % s.par.ring) →
      t.peek b = s.peek b) ∧
    (w = .b32 → t.Holds (s.slot 4 + 2) 2 0 ∨
      ∀ i, i < 2 → t.peek ((s.slot 4 + 2 + i) % s.par.ring) = s.peek ((s.slot 4 + 2 + i) % s.par.ring))

/-- The target of a relative jump or call: next_ip plus the sign-extended displacement, modulo 2^w at operand size w
(30_encoding.md R157). -/
def State.target (s : State) (p : Prefixes) : Rel → BitVec (osW p).bits
  | .jb d => BitVec.ofInt _ (s.ctx.nextIp.toNat + d.toInt)
  | .jz d => BitVec.ofNat _ (s.ctx.nextIp.toNat + d.toNat)

/-- The fourteen string instructions by their prefixes, each with whether it compares (43_string.md R380, R381). -/
def stringInstrs : List ((Prefixes → Instr) × Bool) :=
  [(.movsb, false), (.movsw, false), (.cmpsb, true), (.cmpsw, true), (.scasb, true), (.scasw, true), (.lodsb, false),
   (.lodsw, false), (.stosb, false), (.stosw, false), (.insb, false), (.insw, false), (.outsb, false), (.outsw, false)]

/-- `t` is `s` with the run Faulted for a reason (10_state.md R78). -/
abbrev State.HaltsAs (s t : State) (r : HaltReason) : Prop :=
  t = { s with run := .faulted r s.ctx.startCs s.ctx.startIp }

/-! ### Flags -/

/-- TF, IF and DF are those of `f`. -/
abbrev Flags.KeepsSystem (f g : Flags) : Prop := g.tf = f.tf ∧ g.ifl = f.ifl ∧ g.df = f.df

/-- SF, ZF and PF say of `r` what 10_state.md R54, R56 and R57 say: its sign, whether it is zero, whether its low byte has an
even number of 1 bits. -/
abbrev Flags.Shows {n : Nat} (g : Flags) (r : BitVec n) : Prop :=
  g.sf = r.msb ∧ g.zf = decide (r = 0) ∧ g.pf = decide ((List.range 8).countP (fun i => r.getLsbD i) % 2 = 0)

/-- `g` is `f` after an addition of a, b and the carry c with the result `r` (41_arithmetic.md R261): CF is the carry out, AF
the carry out of bit 3, and OF is set where a and b have one sign and `r` the other. -/
abbrev Flags.AfterAdd {n : Nat} (f g : Flags) (a b : BitVec n) (c : Bool) (r : BitVec n) : Prop :=
  g.Shows r ∧ g.cf = decide (2 ^ n ≤ a.toNat + b.toNat + c.toNat) ∧
    g.af = decide (16 ≤ a.toNat % 16 + b.toNat % 16 + c.toNat) ∧
    g.ofl = decide (a.msb = b.msb ∧ r.msb ≠ a.msb) ∧ f.KeepsSystem g

/-- `g` is `f` after a subtraction a - b - c with the result `r` (41_arithmetic.md R262): CF is the borrow, AF the borrow into
bit 3, and OF is set where a and b differ in sign and `r` has not the sign of a. -/
abbrev Flags.AfterSub {n : Nat} (f g : Flags) (a b : BitVec n) (c : Bool) (r : BitVec n) : Prop :=
  g.Shows r ∧ g.cf = decide (a.toNat < b.toNat + c.toNat) ∧
    g.af = decide (a.toNat % 16 < b.toNat % 16 + c.toNat) ∧
    g.ofl = decide (a.msb ≠ b.msb ∧ r.msb ≠ a.msb) ∧ f.KeepsSystem g

/-- `g` is `f` after a logical instruction with the result `r` (42_logic_shift_bit.md R343): AF is left open. -/
abbrev Flags.AfterLogic {n : Nat} (f g : Flags) (r : BitVec n) : Prop :=
  g.Shows r ∧ g.cf = false ∧ g.ofl = false ∧ f.KeepsSystem g

/-- `g` is `f` after a bit test whose bit is `b` (42_logic_shift_bit.md R336): OF, SF, AF and PF are left open. -/
abbrev Flags.AfterBit (f g : Flags) (b : Bool) : Prop := g.cf = b ∧ g.zf = f.zf ∧ f.KeepsSystem g

/-! ### The FPU -/

/-- Every FPU exception is masked (10_state.md R68). -/
abbrev Fpu.Masked (f : Fpu) : Prop := f.cw.extractLsb' 0 6 = 0x3F

/-- ES and B say whether an unmasked exception flag is set (46_fpu_model.md R520). -/
abbrev Fpu.Summed (f : Fpu) : Prop := f.status.es = f.es ∧ f.status.b = f.es

/-- The physical register R[k] (10_state.md R63). -/
def Fpu.phReg (f : Fpu) (k : BitVec 3) : F80 := f.regs[k.toNat]'k.isLt

/-- R[k] is empty (10_state.md R65). -/
def Fpu.phEmpty (f : Fpu) (k : BitVec 3) : Bool := f.empty.getLsbD k.toNat

/-- `g` has CW of `f`, and this TOP, these registers and these empty bits. -/
abbrev Fpu.StackIs (f g : Fpu) (top : BitVec 3) (r : BitVec 3 → F80) (e : BitVec 3 → Bool) : Prop :=
  g.cw = f.cw ∧ g.top = top ∧ ∀ k, g.phReg k = r k ∧ g.phEmpty k = e k

/-- `g` has the register stack and CW of `f`. -/
abbrev Fpu.KeepsStack (f g : Fpu) : Prop := f.StackIs g f.top f.phReg f.phEmpty

/-- `g` is `f` with `v` pushed (46_fpu_model.md R540). -/
abbrev Fpu.Pushed (f g : Fpu) (v : F80) : Prop :=
  f.StackIs g (f.top - 1) (Function.update f.phReg (f.top - 1) v) (Function.update f.phEmpty (f.top - 1) false)

/-- `g` is `f` with ST(i) replaced by `v` (46_fpu_model.md R543). -/
abbrev Fpu.Replaced (f g : Fpu) (i : BitVec 3) (v : F80) : Prop :=
  f.StackIs g f.top (Function.update f.phReg (f.top + i) v) (Function.update f.phEmpty (f.top + i) false)

/-- `g` is `f` with ST(i) replaced by `v` and then a pop (46_fpu_model.md R541, R543). -/
abbrev Fpu.ReplacedPopped (f g : Fpu) (i : BitVec 3) (v : F80) : Prop :=
  f.StackIs g (f.top + 1) (Function.update f.phReg (f.top + i) v)
    (Function.update (Function.update f.phEmpty (f.top + i) false) f.top true)

/-- `g` is `f` with `n` registers popped, up to two (46_fpu_model.md R541). -/
abbrev Fpu.Dropped (f g : Fpu) (n : Nat) : Prop :=
  f.StackIs g (f.top + BitVec.ofNat 3 n) f.phReg
    (fun k => f.phEmpty k || decide (0 < n ∧ k = f.top) || decide (1 < n ∧ k = f.top + 1))

/-- `g` is `f` with ST(0) replaced by `v` and `u` pushed (46_fpu_model.md R546). -/
abbrev Fpu.ReplacedPushed (f g : Fpu) (v u : F80) : Prop :=
  f.StackIs g (f.top - 1) (Function.update (Function.update f.phReg f.top v) (f.top - 1) u)
    (Function.update (Function.update f.phEmpty f.top false) (f.top - 1) false)

/-- The exception flags of `g` are those of `f` with `exc` added, and C1 is `c1` (46_fpu_model.md R511, R509). -/
abbrev Fpu.Flagged (f g : Fpu) (exc : BitVec 16) (c1 : Bool) : Prop :=
  g.sw &&& 0x7F = (f.sw ||| exc) &&& 0x7F ∧ g.status.c1 = c1

/-- FIP and FOP of `g` name the instruction `i`, and FDP its memory operand if it has one (46_fpu_model.md R545). -/
abbrev State.Points (s : State) (g : Fpu) (i : Instr) (fdp : Option Nat) : Prop :=
  g.fip = BitVec.ofNat 32 (s.lin s.ctx.startCs s.ctx.startIp) ∧ g.fop = fopOf i ∧
    g.fdp = (match fdp with
      | some a => BitVec.ofNat 32 a
      | none => s.fpu.fdp)

/-- `t` is `s` but for the FPU, memory and the counter of the free values, with IP past the instruction and the shadow
ended; ES and B are right, and the pointers name the instruction (46_fpu_model.md R545, R520). -/
def State.FpuCommits (s t : State) (i : Instr) (fdp : Option Nat) : Prop :=
  t = { s with fpu := t.fpu, mem := t.mem, draws := t.draws, ip := s.ctx.nextIp, shadow := false } ∧
    t.fpu.Summed ∧ s.Points t.fpu i fdp

/-- The instruction `i` ends, under any exception masks, from a state `u` that is `s` but for the FPU, memory and the counter of the
free values, with CW as before and the pointers naming the instruction. ES and B say whether an exception flag is set whose mask
bit is clear; if one is, be it set by the instruction or pending from before, the interrupt P_FPU_VECTOR is taken as a trap, which
returns past the instruction, and else the instruction commits, as it always does with every exception masked (46_fpu_model.md
R520, R545, 60_exceptions.md R743). -/
def State.FpuEnds (s : State) (i : Instr) (fdp : Option Nat) (P : State → Prop) : Prop :=
  ∃ u : State, u = { s with fpu := u.fpu, mem := u.mem, draws := u.draws } ∧
    u.fpu.cw = s.fpu.cw ∧ s.Points u.fpu i fdp ∧ P u ∧
    let traps := decide (u.fpu.sw &&& ~~~s.fpu.cw &&& 0x3F ≠ 0)
    u.fpu.status.es = traps ∧ u.fpu.status.b = traps ∧
      exec i s = .next (if traps then u.dispatch s.par.fpuVector s.ctx.nextIp
        else { u with ip := s.ctx.nextIp, shadow := false }) ∧
      (s.fpu.Masked → exec i s = .next { u with ip := s.ctx.nextIp, shadow := false })

/-- What an instruction gives when it writes the result `r` to ST(i), and then perhaps pops: the flags and C1 of the result, and
the value it has (46_fpu_model.md R518). -/
def Fpu.Takes (f g : Fpu) (r : FRes F80) (i : BitVec 3) (pops : Bool) : Prop :=
  f.Flagged g r.exc r.c1 ∧
    ∃ v, r.res = some v ∧ (if pops then f.ReplacedPopped g i v else f.Replaced g i v)

/-- What an instruction leaves under any exception masks: the flags and C1 of the result `r`, and its value in ST(i), perhaps with a
pop; with no value, the register stack as it was (46_fpu_model.md R518, R519). -/
def Fpu.Gives (f g : Fpu) (r : FRes F80) (i : BitVec 3) (pops : Bool) : Prop :=
  f.Flagged g r.exc r.c1 ∧
    match r.res with
    | none => f.KeepsStack g
    | some v => if pops then f.ReplacedPopped g i v else f.Replaced g i v

/-- What a push leaves under any exception masks: the flags and C1 of the result `r`, and its value pushed; with no value, the register
stack as it was (46_fpu_model.md R519, R540). -/
def Fpu.GivesPush (f g : Fpu) (r : FRes F80) : Prop :=
  f.Flagged g r.exc r.c1 ∧
    match r.res with
    | none => f.KeepsStack g
    | some v => f.Pushed g v

/-- What an instruction of two results leaves under any exception masks: the flags of both and C1 of the second; with both values
there, the first replaces ST(0) and the second is pushed, and else the register stack is as it was (46_fpu_model.md R519,
R546). -/
def Fpu.GivesTwo (f g : Fpu) (a b : FRes F80) : Prop :=
  f.Flagged g (a.exc ||| b.exc) b.c1 ∧
    match a.res, b.res with
    | some u, some v => f.ReplacedPushed g u v
    | _, _ => f.KeepsStack g

/-- The result of an instruction whose operand is an empty register, every exception being masked (46_fpu_model.md R512). -/
def underflowResult {α : Type} (indefinite : α) : FRes α := { exc := xIE ||| xSF, res := some indefinite, c1 := false }

/-- The result of an instruction whose operand is an empty register, under any mask (46_fpu_model.md R512). -/
def stackFault {α : Type} (c : FCtl) (indefinite : α) : FRes α :=
  { exc := xIE ||| xSF, res := if c.im then some indefinite else none, c1 := false }

/-- An exception flag of `exc` is set whose mask bit is clear (46_fpu_model.md R520). -/
abbrev Fpu.Unmasked (f : Fpu) (exc : BitVec 16) : Prop := exc &&& ~~~f.cw &&& 0x3F ≠ 0

/-- C3, C2 and C0 of SW. -/
def Fpu.codes (f : Fpu) : CmpCodes := { c3 := f.status.c3, c2 := f.status.c2, c0 := f.status.c0 }

/-! ### The values of the FPU as rationals (46_fpu_model.md R503) -/

/-- A finite class. -/
abbrev F80.Finite (x : F80) : Prop := x.cls = .zero ∨ x.cls = .denormal ∨ x.cls = .normal

/-- Finite and not zero. -/
abbrev F80.FiniteNonzero (x : F80) : Prop := x.cls = .denormal ∨ x.cls = .normal

/-- Finite or an infinity: neither a NaN nor unsupported. -/
abbrev F80.Numeric (x : F80) : Prop := x.Finite ∨ x.cls = .infinity

/-- The exact value of a finite extended value: (-1)^s * significand * 2^(exponent - 16383 - 63). -/
def F80.rat (x : F80) : ℚ := (if x.neg then -1 else 1) * x.sig * 2 ^ x.val.exp

/-- The exact value of a finite single or double value, from its fields (46_fpu_model.md R501). -/
def MemFmt.rat (f : MemFmt) (v : Nat) : ℚ :=
  let exp : Nat := v / 2 ^ (f.p - 1) % 2 ^ f.ebit
  let frac : Nat := v % 2 ^ (f.p - 1)
  (if v.testBit (f.p + f.ebit - 1) then -1 else 1) *
    (if exp = 0 then (frac : ℚ) * 2 ^ (f.emin - f.p + 1)
      else (2 ^ (f.p - 1) + frac : ℚ) * 2 ^ ((exp : Int) - f.bias - f.p + 1))

/-- The operand `o` is the exact conversion to extended of a single or double value, from its fields (46_fpu_model.md R501, R502,
R525): an infinity, a NaN with its fraction on top and quiet where the top fraction bit is 1, or a finite value, which counts as
a denormal where the exponent is 0 and the fraction is not. -/
def MemFmt.Loads (f : MemFmt) (v : Nat) (o : Opnd) : Prop :=
  let neg := v.testBit (f.p + f.ebit - 1)
  let exp := v / 2 ^ (f.p - 1) % 2 ^ f.ebit
  let frac := v % 2 ^ (f.p - 1)
  if exp = 2 ^ f.ebit - 1 then
    o.den = false ∧ o.v.neg = neg ∧ o.v.exp = 0x7FFF ∧ o.v.sig = 2 ^ 63 + frac * 2 ^ (64 - f.p) ∧
      o.v.cls = if frac = 0 then .infinity else if frac.testBit (f.p - 2) then .qnan else .snan
  else
    o.den = decide (exp = 0 ∧ frac ≠ 0) ∧ o.v.Finite ∧ o.v.neg = neg ∧ o.v.rat = f.rat v ∧
      o.v.cls = if exp = 0 ∧ frac = 0 then .zero else .normal

/-- The approximation stands for the magnitude `x`: exactly, or with `sticky` strictly between two neighbours of at least 67
bits. -/
def Approx.Is (a : Approx) (x : ℚ) : Prop :=
  if a.sticky then (a.m : ℚ) * 2 ^ a.e < x ∧ x < ((a.m : ℚ) + 1) * 2 ^ a.e ∧ 2 ^ 66 ≤ a.m else x = (a.m : ℚ) * 2 ^ a.e

/-- The outcome of an operation stands for the exact real `x`. -/
def Calc.Is (c : Calc) (x : ℚ) : Prop :=
  match c with
  | .value v pe c1 => v.Finite ∧ v.rat = x ∧ pe = false ∧ c1 = false
  | .real neg a => x ≠ 0 ∧ neg = decide (x < 0) ∧ a.Is |x|
  | .invalid | .zeroDivide _ | .free => False

/-- A rational truncated toward zero (00_scope.md R9). -/
def truncate (x : ℚ) : Int := if x < 0 then ⌈x⌉ else ⌊x⌋

/-! ### Rounding and delivery in the words of R507 to R510 -/

/-- `y` is the element of F(p, emin) that RC selects for the real `x` (46_fpu_model.md R507); with no `emin`, the selection without
a lower exponent limit. At the exponent q where `x` has p bits, but no less than emin - p + 1, the elements around `x` are the
multiples of 2^q, and `y` is one of them with the sign of `x`. -/
def Selects (rc : Rc) (p : Nat) (emin : Option Int) (x y : ℚ) : Prop :=
  ∃ (k : Nat) (q : Int), |y| = k * 2 ^ q ∧ 0 ≤ x * y ∧ |x| < 2 ^ p * 2 ^ q ∧
    (∀ e, emin = some e → e - p + 1 ≤ q) ∧ (2 ^ (p - 1) * 2 ^ q ≤ |x| ∨ emin = some (q + p - 1)) ∧
    match rc with
    | .nearest => 2 * |y - x| ≤ 2 ^ q ∧ (2 * |y - x| = 2 ^ q → k % 2 = 0)
    | .down => y ≤ x ∧ x < y + 2 ^ q
    | .up => x ≤ y ∧ y < x + 2 ^ q
    | .zero => |y| ≤ |x| ∧ |x| < |y| + 2 ^ q

/-- `v` is the encoding in the extended format of the value `y` with the sign `neg` (46_fpu_model.md R510): J is 1 for a normal
value and 0 below. -/
def F80.Encodes (v : F80) (neg : Bool) (y : ℚ) : Prop :=
  v.Finite ∧ v.rat = y ∧ v.neg = neg ∧ (v.exp = 0 → v.sig < 2 ^ 63)

/-- An overflow gives an infinity: to nearest, and down or up where that is away from zero (46_fpu_model.md R509). -/
abbrev ToInfinity (rc : Rc) (neg : Bool) : Prop := rc = .nearest ∨ rc = (if neg then .down else .up)

/-- `r` is what 46_fpu_model.md R509 delivers to a register for the nonzero real `x` at p bits: the flags, the value and C1. A
bias-adjusted result that is no value of the format is any value. -/
def Delivers (c : FCtl) (p : Nat) (x : ℚ) (r : FRes F80) : Prop :=
  let neg := decide (x < 0)
  let gives (y : ℚ) : Prop := ∃ v, r.res = some v ∧ v.Encodes neg y
  let adjusted (y : ℚ) : Prop := r.res.isSome = true ∧ ((∃ v : F80, v.Encodes neg y) → gives y)
  ∃ r0, Selects c.rc p none x r0 ∧
    if 2 ^ 16384 ≤ |r0| then
      if c.om then
        r.exc = xOE ||| xPE ∧ r.c1 = decide (ToInfinity c.rc neg) ∧
          (if ToInfinity c.rc neg then r.res = some (F80.inf neg)
            else gives ((if neg then -1 else 1) * (2 ^ p - 1) * 2 ^ (16384 - p)))
      else
        ∃ y, Selects c.rc p none (x / 2 ^ 24576) y ∧ r.exc = xOE ||| peIf (decide (y ≠ x / 2 ^ 24576)) ∧ r.c1 = false ∧
          adjusted y
    else if |r0| < 1 / 2 ^ 16382 then
      if c.um then
        ∃ y, Selects c.rc p (some (-16382)) x y ∧ r.exc = (if y = x then 0 else xUE ||| xPE) ∧
          r.c1 = decide (|x| < |y|) ∧ gives y
      else
        ∃ y, Selects c.rc p none (x * 2 ^ 24576) y ∧ r.exc = xUE ||| peIf (decide (y ≠ x * 2 ^ 24576)) ∧ r.c1 = true ∧
          adjusted y
    else
      ∃ y, Selects c.rc p (some (-16382)) x y ∧ r.exc = peIf (decide (y ≠ x)) ∧ r.c1 = decide (|x| < |y|) ∧ gives y

/-- `v` is the encoding in a memory format of the value `y` with the sign `neg` (46_fpu_model.md R501). -/
def MemFmt.Encodes (f : MemFmt) (v : Nat) (neg : Bool) (y : ℚ) : Prop :=
  v < 2 ^ (f.p + f.ebit) ∧ v.testBit (f.p + f.ebit - 1) = neg ∧ f.rat v = y

/-- `r` is what 46_fpu_model.md R509 delivers to memory for the nonzero real `x`: an unmasked overflow or underflow writes
nothing. -/
def MemFmt.Delivers (f : MemFmt) (c : FCtl) (x : ℚ) (r : FRes Nat) : Prop :=
  let neg := decide (x < 0)
  let gives (y : ℚ) : Prop := ∃ v, r.res = some v ∧ f.Encodes v neg y
  ∃ r0, Selects c.rc f.p none x r0 ∧
    if 2 ^ (f.bias + 1) ≤ |r0| then
      if c.om then
        r.exc = xOE ||| xPE ∧ r.c1 = decide (ToInfinity c.rc neg) ∧
          (if ToInfinity c.rc neg then r.res = some (f.pack neg (2 * f.bias + 1) 0)
            else gives ((if neg then -1 else 1) * (2 ^ f.p - 1) * 2 ^ (f.bias + 1 - f.p)))
      else r = { exc := xOE, res := none, c1 := false }
    else if |r0| < 2 ^ f.emin then
      if c.um then
        ∃ y, Selects c.rc f.p (some f.emin) x y ∧ r.exc = (if y = x then 0 else xUE ||| xPE) ∧
          r.c1 = decide (|x| < |y|) ∧ gives y
      else r = { exc := xUE, res := none, c1 := false }
    else
      ∃ y, Selects c.rc f.p (some f.emin) x y ∧ r.exc = peIf (decide (y ≠ x)) ∧ r.c1 = decide (|x| < |y|) ∧ gives y

/-! ### NaNs and stores in the words of R514 and R522 to R524 -/

/-- The NaN a has the smaller significand, with the quiet bit (bit 62) counted and without it (46_fpu_model.md R514). -/
abbrev F80.Below (a b : F80) : Prop := a.sig < b.sig ∧ a.sig % 2 ^ 62 < b.sig % 2 ^ 62

/-- `v` is the NaN result of the operands a and b, of which at least one is a NaN (46_fpu_model.md R514): the NaN with the larger
significand, quieted, and either of the two where the significands are equal or the quiet bit decides. -/
def NanResult (a b v : F80) : Prop :=
  if b.isNan = false then v = a.quiet
  else if a.isNan = false then v = b.quiet
  else (¬ a.Below b ∧ v = a.quiet) ∨ (¬ b.Below a ∧ v = b.quiet)

/-- The flags of an operation on operands of which one is a NaN or unsupported: IE unless every NaN is quiet
(46_fpu_model.md R513). -/
def nanExc (a b : F80) : BitVec 16 :=
  if a.cls = .unsupported ∨ b.cls = .unsupported ∨ a.cls = .snan ∨ b.cls = .snan then xIE else 0

/-- `r` is what an operation on a and b gives where one of them is a NaN or unsupported: the real indefinite if one is
unsupported, else the NaN of R514; and nothing where IE is raised and not masked (46_fpu_model.md R513, R514, R517). -/
def NanGives (c : FCtl) (a b : F80) (r : FRes F80) : Prop :=
  r.exc = nanExc a b ∧ r.c1 = false ∧
    if nanExc a b = xIE ∧ c.im = false then r.res = none
    else if a.cls = .unsupported ∨ b.cls = .unsupported then r.res = some 0xFFFFC000000000000000
    else ∃ v, r.res = some v ∧ NanResult a b v

/-- The integer that RC selects for a rational (46_fpu_model.md R522). -/
def roundToInt (rc : Rc) (x : ℚ) : Int :=
  match rc with
  | .nearest =>
    if x - ⌊x⌋ < 1 / 2 then ⌊x⌋ else if 1 / 2 < x - ⌊x⌋ then ⌈x⌉ else if ⌊x⌋ % 2 = 0 then ⌊x⌋ else ⌈x⌉
  | .down => ⌊x⌋
  | .up => ⌈x⌉
  | .zero => truncate x

/-- The response to an invalid operation whose masked result is `v` (46_fpu_model.md R513). -/
def invalidGives {α : Type} (c : FCtl) (v : α) : FRes α :=
  { exc := xIE, res := if c.im then some v else none, c1 := false }

/-- `r` is the conversion of `x` to a single or double store (46_fpu_model.md R523); `indefinite` is the real indefinite of the
format. -/
def MemFmt.Converts (f : MemFmt) (indefinite : Nat) (c : FCtl) (x : F80) (r : FRes Nat) : Prop :=
  let nan : Nat := f.pack x.neg (2 * f.bias + 1) (2 ^ (f.p - 2) + x.sig % 2 ^ 62 / 2 ^ (64 - f.p))
  match x.cls with
  | .zero => r = { exc := 0, res := some (f.pack x.neg 0 0), c1 := false }
  | .denormal | .normal => f.Delivers c x.rat r
  | .infinity => r = { exc := 0, res := some (f.pack x.neg (2 * f.bias + 1) 0), c1 := false }
  | .qnan => r = { exc := 0, res := some nan, c1 := false }
  | .snan => r = invalidGives c nan
  | .unsupported => r = invalidGives c indefinite

/-- `r` is the conversion of `x` to an integer of n bytes (46_fpu_model.md R522, R504). -/
def ConvertsInt (n : Nat) (c : FCtl) (x : F80) (r : FRes Nat) : Prop :=
  let i := roundToInt c.rc x.rat
  if x.Finite ∧ -(2 ^ (8 * n - 1)) ≤ i ∧ i < 2 ^ (8 * n - 1) then
    r = { exc := peIf (decide ((i : ℚ) ≠ x.rat)), res := some (i % 2 ^ (8 * n)).toNat, c1 := decide (|x.rat| < |(i : ℚ)|) }
  else r = invalidGives c (2 ^ (8 * n - 1))

/-- `r` is the conversion of `x` to packed BCD (46_fpu_model.md R524, R505): the digits of the magnitude, each a decimal one, and
the sign in bit 7 of byte 9, whose other bits are 0. -/
def ConvertsBcd (c : FCtl) (x : F80) (r : FRes Nat) : Prop :=
  let i := roundToInt c.rc x.rat
  if x.Finite ∧ |i| < 10 ^ 18 then
    r.exc = peIf (decide ((i : ℚ) ≠ x.rat)) ∧ r.c1 = decide (|x.rat| < |(i : ℚ)|) ∧
      ∃ v, r.res = some v ∧ v / 2 ^ 72 = (if x.neg then 0x80 else 0) ∧ bcdValid 18 v = true ∧ (bcdValue 18 v : Int) = |i|
  else r = invalidGives c 0xFFFFC000000000000000

/-! ### The invariant of a run -/

/-- The run is Faulted. -/
def RunState.isFaulted : RunState → Bool
  | .faulted _ _ _ => true
  | .running | .halted | .terminated _ => false

/-- What holds of every state a run reaches: memory is in its canonical form and lists no address at or above P_MEMSIZE; the
fixed bits of CW read as 10_state.md R69 says; and, unless the run is Faulted, ES and B summarize the FPU exception flags
(46_fpu_model.md R520). -/
abbrev State.Inv (s : State) : Prop :=
  Memory.wf s.mem ∧ (∀ c ∈ s.mem, c.1 < s.par.memSize) ∧ forceCw s.fpu.cw = s.fpu.cw ∧
    (s.run.isFaulted = true ∨ s.fpu.Summed)

end Sys2Proof.Machine
end

