-- ==== Sys2Proof/Certificates/Slice0/Obligations.lean ====
section
/-! DEFINITION. The statements for the provers, each made from the numbered rules of spec/. The words they use (`Reaches`,
`Commits`, `Writes`, `AfterAdd`, ...) are those of Sys2Proof/Safety.lean. -/

open Sys2Proof Sys2Proof.Machine

/-! ### Integer arithmetic (41_arithmetic.md) -/

/-- ADD, ADC, SUB, SBB and CMP in each of their ten forms, with every access backed: the destination takes the sum or the
difference modulo 2^w, but CMP writes no operand; the six arithmetic flags are those of R261 and R262, and nothing else
changes (R265 to R269). -/
def Obligations.AddSubCompareResult : Prop :=
  ∀ (p : Prefixes) (f : AluForm) (s : State), s.Reaches p (f.width p) f.rmOf →
    let a := s.operand p (f.width p) f.dst
    let b := s.source p f
    let c := BitVec.ofNat (f.width p).bits s.flags.cf.toNat
    (∃ t, exec (.add p f) s = .next t ∧ s.Commits t ∧ s.Writes t p (f.width p) f.dst (a + b) ∧
      s.flags.AfterAdd t.flags a b false (a + b)) ∧
    (∃ t, exec (.adc p f) s = .next t ∧ s.Commits t ∧ s.Writes t p (f.width p) f.dst (a + b + c) ∧
      s.flags.AfterAdd t.flags a b s.flags.cf (a + b + c)) ∧
    (∃ t, exec (.sub p f) s = .next t ∧ s.Commits t ∧ s.Writes t p (f.width p) f.dst (a - b) ∧
      s.flags.AfterSub t.flags a b false (a - b)) ∧
    (∃ t, exec (.sbb p f) s = .next t ∧ s.Commits t ∧ s.Writes t p (f.width p) f.dst (a - b - c) ∧
      s.flags.AfterSub t.flags a b s.flags.cf (a - b - c)) ∧
    (∃ t, exec (.cmp p f) s = .next t ∧ s.Commits t ∧ t.gpr = s.gpr ∧ t.mem = s.mem ∧
      s.flags.AfterSub t.flags a b false (a - b))

/-- INC and DEC keep CF and set the other flags as an addition or subtraction of 1; NEG subtracts from 0; NOT changes no flag
(R270 to R272, 42_logic_shift_bit.md R323). -/
def Obligations.OneOperandResult : Prop :=
  (∀ (p : Prefixes) (f : IncForm) (s : State), s.Reaches p (f.width p) f.dst →
    let a := s.operand p (f.width p) f.dst
    (∃ t, exec (.inc p f) s = .next t ∧ s.Commits t ∧ s.Writes t p (f.width p) f.dst (a + 1) ∧
      t.flags.cf = s.flags.cf ∧ ∃ c, s.flags.AfterAdd { t.flags with cf := c } a 1 false (a + 1)) ∧
    (∃ t, exec (.dec p f) s = .next t ∧ s.Commits t ∧ s.Writes t p (f.width p) f.dst (a - 1) ∧
      t.flags.cf = s.flags.cf ∧ ∃ c, s.flags.AfterSub { t.flags with cf := c } a 1 false (a - 1))) ∧
  (∀ (p : Prefixes) (f : EForm) (s : State), s.Reaches p (f.width p) f.rm →
    let a := s.operand p (f.width p) f.rm
    (∃ t, exec (.neg p f) s = .next t ∧ s.Commits t ∧ s.Writes t p (f.width p) f.rm (-a) ∧
      s.flags.AfterSub t.flags 0 a false (-a)) ∧
    (∃ t, exec (.not p f) s = .next t ∧ s.Commits t ∧ s.Writes t p (f.width p) f.rm (~~~a) ∧ t.flags = s.flags))

/-- MUL and the one-operand IMUL put the exact product into AX, DX:AX or EDX:EAX and keep every other register; IMUL with two
or three operands puts its low half into a register; CF and OF say that the product does not fit the width of the operands;
SF, ZF, AF and PF are left open (R273 to R276). -/
def Obligations.MultiplyResult : Prop :=
  (∀ (p : Prefixes) (f : EForm) (s : State), s.Reaches p (f.width p) f.rm →
    let w := f.width p
    let a := s.reg w rAX
    let b := s.operand p w f.rm
    (∃ t, exec (.mul p f) s = .next t ∧ s.Commits t ∧ t.mem = s.mem ∧ s.KeepsButDouble t w ∧
      t.double w = a.toNat * b.toNat ∧ s.flags.KeepsSystem t.flags ∧
      t.flags.cf = decide (2 ^ w.bits ≤ a.toNat * b.toNat) ∧ t.flags.ofl = t.flags.cf) ∧
    (∃ t, exec (.imul1 p f) s = .next t ∧ s.Commits t ∧ t.mem = s.mem ∧ s.KeepsButDouble t w ∧
      (BitVec.ofNat (2 * w.bits) (t.double w)).toInt = a.toInt * b.toInt ∧ s.flags.KeepsSystem t.flags ∧
      t.flags.cf = decide (¬ FitsSigned w (a.toInt * b.toInt)) ∧ t.flags.ofl = t.flags.cf)) ∧
  (∀ (p : Prefixes) (r : BitVec 3) (rm : RM) (i : ImmForm) (s : State), s.Reaches p (osW p) rm →
    let a := s.operand p (osW p) rm
    (∃ t, exec (.imul2 p r rm) s = .next t ∧ s.Commits t ∧ s.Writes t p (osW p) (.reg r) (s.reg (osW p) r * a) ∧
      s.flags.KeepsSystem t.flags ∧
      t.flags.cf = decide (¬ FitsSigned (osW p) ((s.reg (osW p) r).toInt * a.toInt)) ∧ t.flags.ofl = t.flags.cf) ∧
    (∃ t, exec (.imul3 p r rm i) s = .next t ∧ s.Commits t ∧ s.Writes t p (osW p) (.reg r) (a * i.value (osW p)) ∧
      s.flags.KeepsSystem t.flags ∧
      t.flags.cf = decide (¬ FitsSigned (osW p) (a.toInt * (i.value (osW p)).toInt)) ∧ t.flags.ofl = t.flags.cf))

/-- DIV and IDIV whose quotient exists and fits: quotient times divisor plus remainder is the dividend, the remainder is
smaller than the divisor, and IDIV's has the dividend's sign; the arithmetic flags are left open. The divide error: a divisor
of 0 or a quotient that does not fit, and AAM with the base 0. The instruction then ends by taking interrupt 0 as a fault,
which returns to the instruction itself, from the state before it (R264, R277, R278, R283, 60_exceptions.md R721, R724). -/
def Obligations.DivideResult : Prop :=
  (∀ (p : Prefixes) (f : EForm) (s : State), s.Reaches p (f.width p) f.rm →
    let w := f.width p
    let d := s.operand p w f.rm
    let n := s.double w
    let m := (BitVec.ofNat (2 * w.bits) n).toInt
    (d ≠ 0 → n / d.toNat < 2 ^ w.bits →
      ∃ t, exec (.div p f) s = .next t ∧ s.Commits t ∧ t.mem = s.mem ∧ s.KeepsButDouble t w ∧
        s.flags.KeepsSystem t.flags ∧
        (t.reg w rAX).toNat * d.toNat + (t.reg w (remReg w)).toNat = n ∧ (t.reg w (remReg w)).toNat < d.toNat) ∧
    (d ≠ 0 → FitsSigned w (m.tdiv d.toInt) →
      ∃ t, exec (.idiv p f) s = .next t ∧ s.Commits t ∧ t.mem = s.mem ∧ s.KeepsButDouble t w ∧
        s.flags.KeepsSystem t.flags ∧
        (t.reg w rAX).toInt * d.toInt + (t.reg w (remReg w)).toInt = m ∧
        (t.reg w (remReg w)).toInt.natAbs < d.toInt.natAbs ∧
        ((t.reg w (remReg w)).toInt ≠ 0 → ((t.reg w (remReg w)).toInt < 0 ↔ m < 0)))) ∧
  (∀ (p : Prefixes) (f : EForm) (s : State), s.Reaches p (f.width p) f.rm →
    let w := f.width p
    let d := s.operand p w f.rm
    (d = 0 ∨ 2 ^ w.bits ≤ s.double w / d.toNat → exec (.div p f) s = .next (s.dispatch 0 s.ctx.startIp)) ∧
    (d = 0 ∨ ¬ FitsSigned w ((BitVec.ofNat (2 * w.bits) (s.double w)).toInt.tdiv d.toInt) →
      exec (.idiv p f) s = .next (s.dispatch 0 s.ctx.startIp))) ∧
  (∀ (p : Prefixes) (s : State), exec (.aam p 0) s = .next (s.dispatch 0 s.ctx.startIp))

/-- The decimal adjustments: AL corrected digit by digit after an addition or subtraction of packed decimals, AX after one of
unpacked decimals, AAM and AAD between a byte and two digits of the base; every flag that a rule does not write stays or is
left open (R279 to R284). -/
def Obligations.DecimalAdjust : Prop :=
  ∀ (p : Prefixes) (s : State),
    let al := s.r8 rAL
    let lo : Bool := decide (9 < al.toNat % 16) || s.flags.af
    let hi : Bool := decide (0x99 < al.toNat) || s.flags.cf
    let sum := al + (if lo then 0x06 else 0) + (if hi then 0x60 else 0)
    let dif := al - (if lo then 0x06 else 0) - (if hi then 0x60 else 0)
    (∃ t, exec (.daa p) s = .next t ∧ s.Commits t ∧ s.Writes t p .b8 (.reg rAL) sum ∧ t.flags.Shows sum ∧
      t.flags.cf = hi ∧ t.flags.af = lo ∧ s.flags.KeepsSystem t.flags) ∧
    (∃ t, exec (.das p) s = .next t ∧ s.Commits t ∧ s.Writes t p .b8 (.reg rAL) dif ∧ t.flags.Shows dif ∧
      t.flags.cf = hi ∧ t.flags.af = lo ∧ s.flags.KeepsSystem t.flags) ∧
    (∃ t, exec (.aaa p) s = .next t ∧ s.Commits t ∧ t.flags.cf = lo ∧ t.flags.af = lo ∧ s.flags.KeepsSystem t.flags ∧
      s.Writes t p .b16 (.reg rAX)
        (if lo then
          match s.par.aaa with
          | .ax => (s.r16 rAX + 0x0106) &&& 0xFF0F
          | .ah => (s.r8 rAH + 1) ++ ((s.r8 rAL + 6) &&& 0x0F)
        else s.r16 rAX &&& 0xFF0F)) ∧
    (∃ t, exec (.aas p) s = .next t ∧ s.Commits t ∧ t.flags.cf = lo ∧ t.flags.af = lo ∧ s.flags.KeepsSystem t.flags ∧
      s.Writes t p .b16 (.reg rAX)
        (if lo then
          match s.par.aaa with
          | .ax => (s.r16 rAX - 0x0106) &&& 0xFF0F
          | .ah => (s.r8 rAH - 1) ++ ((s.r8 rAL - 6) &&& 0x0F)
        else s.r16 rAX &&& 0xFF0F)) ∧
    (∀ base : Byte, base ≠ 0 → ∃ t, exec (.aam p base) s = .next t ∧ s.Commits t ∧
      s.Writes t p .b16 (.reg rAX) ((al / base) ++ (al % base)) ∧ t.flags.Shows (al % base) ∧
      s.flags.KeepsSystem t.flags) ∧
    (∀ base : Byte, ∃ t, exec (.aad p base) s = .next t ∧ s.Commits t ∧
      s.Writes t p .b16 (.reg rAX) ((al + s.r8 rAH * base).setWidth 16) ∧ t.flags.Shows (al + s.r8 rAH * base) ∧
      s.flags.KeepsSystem t.flags)

/-! ### Logic, shifts and bits (42_logic_shift_bit.md) -/

/-- AND, OR and XOR write their result; TEST writes no operand; all clear CF and OF, show the result in SF, ZF and PF, and
leave AF open (R320 to R322, R324, R343). -/
def Obligations.LogicResult : Prop :=
  (∀ (p : Prefixes) (f : AluForm) (s : State), s.Reaches p (f.width p) f.rmOf →
    let a := s.operand p (f.width p) f.dst
    let b := s.source p f
    (∃ t, exec (.and p f) s = .next t ∧ s.Commits t ∧ s.Writes t p (f.width p) f.dst (a &&& b) ∧
      s.flags.AfterLogic t.flags (a &&& b)) ∧
    (∃ t, exec (.or p f) s = .next t ∧ s.Commits t ∧ s.Writes t p (f.width p) f.dst (a ||| b) ∧
      s.flags.AfterLogic t.flags (a ||| b)) ∧
    (∃ t, exec (.xor p f) s = .next t ∧ s.Commits t ∧ s.Writes t p (f.width p) f.dst (a ^^^ b) ∧
      s.flags.AfterLogic t.flags (a ^^^ b))) ∧
  (∀ (p : Prefixes) (f : TestForm) (s : State), s.Reaches p (f.width p) f.dst →
    ∃ t, exec (.test p f) s = .next t ∧ s.Commits t ∧ t.gpr = s.gpr ∧ t.mem = s.mem ∧
      s.flags.AfterLogic t.flags (s.operand p (f.width p) f.dst &&& s.testSource p f))

/-- A shift or rotate whose masked count is 0 reads its operand and changes nothing but IP and the shadow; this holds for all
seven, and for SHLD and SHRD (R325, R333, R334). -/
def Obligations.ShiftByZero : Prop :=
  (∀ (p : Prefixes) (f : EForm) (n : ShiftCount) (s : State), s.Reaches p (f.width p) f.rm → s.shiftCount n = 0 →
    exec (.rol p f n) s = .next s.commit ∧ exec (.ror p f n) s = .next s.commit ∧
    exec (.rcl p f n) s = .next s.commit ∧ exec (.rcr p f n) s = .next s.commit ∧
    exec (.shl p f n) s = .next s.commit ∧ exec (.shr p f n) s = .next s.commit ∧
    exec (.sar p f n) s = .next s.commit) ∧
  (∀ (p : Prefixes) (rm : RM) (r : BitVec 3) (n : DblCount) (s : State), s.Reaches p (osW p) rm → s.dblCount n = 0 →
    exec (.shld p rm r n) s = .next s.commit ∧ exec (.shrd p rm r n) s = .next s.commit)

/-- ROL, ROR, RCL and RCR by a masked count that is not 0: the operand rotates within its width, or within one bit more with
CF on top; CF is the bit that rotated last, OF is defined for a count of 1, and SF, ZF, PF and AF stay (R326 to R329). -/
def Obligations.RotateResult : Prop :=
  ∀ (p : Prefixes) (f : EForm) (n : ShiftCount) (s : State), s.Reaches p (f.width p) f.rm → s.shiftCount n ≠ 0 →
    let w := f.width p
    let a := s.operand p w f.rm
    let cnt := s.shiftCount n
    let l := a.rotateLeft cnt
    let r := a.rotateRight cnt
    let lc := (BitVec.ofBool s.flags.cf ++ a).rotateLeft cnt
    let rc := (BitVec.ofBool s.flags.cf ++ a).rotateRight cnt
    (∃ t, exec (.rol p f n) s = .next t ∧ s.Commits t ∧ s.Writes t p w f.rm l ∧
      t.flags = { s.flags with cf := l.getLsbD 0, ofl := t.flags.ofl } ∧
      (cnt = 1 → t.flags.ofl = (l.msb ^^ l.getLsbD 0))) ∧
    (∃ t, exec (.ror p f n) s = .next t ∧ s.Commits t ∧ s.Writes t p w f.rm r ∧
      t.flags = { s.flags with cf := r.msb, ofl := t.flags.ofl } ∧
      (cnt = 1 → t.flags.ofl = (r.msb ^^ r.getLsbD (w.bits - 2)))) ∧
    (∃ t, exec (.rcl p f n) s = .next t ∧ s.Commits t ∧ s.Writes t p w f.rm (lc.setWidth w.bits) ∧
      t.flags = { s.flags with cf := lc.msb, ofl := t.flags.ofl } ∧
      (cnt = 1 → t.flags.ofl = ((lc.setWidth w.bits).msb ^^ lc.msb))) ∧
    (∃ t, exec (.rcr p f n) s = .next t ∧ s.Commits t ∧ s.Writes t p w f.rm (rc.setWidth w.bits) ∧
      t.flags = { s.flags with cf := rc.msb, ofl := t.flags.ofl } ∧
      (cnt = 1 → t.flags.ofl = (a.msb ^^ s.flags.cf)))

/-- SHL, SHR and SAR by a masked count that is not 0: the operand times or divided by 2^cnt, SAR with the sign; CF is the last
bit shifted out, where the count leaves one; SF, ZF and PF show the result, AF is left open, and OF is defined for a count
of 1 (R330 to R332). -/
def Obligations.ShiftResult : Prop :=
  ∀ (p : Prefixes) (f : EForm) (n : ShiftCount) (s : State), s.Reaches p (f.width p) f.rm → s.shiftCount n ≠ 0 →
    let w := f.width p
    let a := s.operand p w f.rm
    let cnt := s.shiftCount n
    let l := BitVec.ofNat w.bits (a.toNat * 2 ^ cnt)
    let r := BitVec.ofNat w.bits (a.toNat / 2 ^ cnt)
    let q := BitVec.ofInt w.bits (a.toInt.fdiv (2 ^ cnt))
    (∃ t, exec (.shl p f n) s = .next t ∧ s.Commits t ∧ s.Writes t p w f.rm l ∧ t.flags.Shows l ∧
      s.flags.KeepsSystem t.flags ∧ (cnt < w.bits → t.flags.cf = a.getLsbD (w.bits - cnt)) ∧
      (cnt = 1 → t.flags.ofl = (l.msb ^^ t.flags.cf))) ∧
    (∃ t, exec (.shr p f n) s = .next t ∧ s.Commits t ∧ s.Writes t p w f.rm r ∧ t.flags.Shows r ∧
      s.flags.KeepsSystem t.flags ∧ (cnt < w.bits → t.flags.cf = a.getLsbD (cnt - 1)) ∧
      (cnt = 1 → t.flags.ofl = a.msb)) ∧
    (∃ t, exec (.sar p f n) s = .next t ∧ s.Commits t ∧ s.Writes t p w f.rm q ∧ t.flags.Shows q ∧
      s.flags.KeepsSystem t.flags ∧ t.flags.cf = (if cnt < w.bits then a.getLsbD (cnt - 1) else a.msb) ∧
      (cnt = 1 → t.flags.ofl = false))

/-- SHLD and SHRD by a masked count from 1 to the operand size: the operand shifted with the bits of the register coming in;
beyond the operand size the result and the six flags are left open, and only the operand is written (R333, R334). -/
def Obligations.DoubleShiftResult : Prop :=
  ∀ (p : Prefixes) (rm : RM) (r : BitVec 3) (n : DblCount) (s : State), s.Reaches p (osW p) rm → s.dblCount n ≠ 0 →
    let w := osW p
    let a := s.operand p w rm
    let b := s.reg w r
    let cnt := s.dblCount n
    let l := BitVec.ofNat w.bits ((a.toNat * 2 ^ w.bits + b.toNat) * 2 ^ cnt / 2 ^ w.bits)
    let q := BitVec.ofNat w.bits ((b.toNat * 2 ^ w.bits + a.toNat) / 2 ^ cnt)
    (∃ t v, exec (.shld p rm r n) s = .next t ∧ s.Commits t ∧ s.Writes t p w rm v ∧ s.flags.KeepsSystem t.flags ∧
      (cnt ≤ w.bits → v = l ∧ t.flags.Shows l ∧ t.flags.cf = a.getLsbD (w.bits - cnt) ∧
        (cnt = 1 → t.flags.ofl = (l.msb ^^ a.msb)))) ∧
    (∃ t v, exec (.shrd p rm r n) s = .next t ∧ s.Commits t ∧ s.Writes t p w rm v ∧ s.flags.KeepsSystem t.flags ∧
      (cnt ≤ w.bits → v = q ∧ t.flags.Shows q ∧ t.flags.cf = a.getLsbD (cnt - 1) ∧
        (cnt = 1 → t.flags.ofl = (q.msb ^^ a.msb))))

/-- BT, BTS, BTR and BTC on a register, or in memory with an immediate bit number: the bit number is taken modulo the operand
size. In memory with a register bit number k: the operand is the one `floor(k / w)` operands beyond the effective address, at
an offset modulo 2^16, and the bit is k modulo w. CF is the bit, which BTS sets, BTR clears and BTC inverts; ZF stays and the
other arithmetic flags are left open (R335 to R339). -/
def Obligations.BitTestResult : Prop :=
  (∀ (p : Prefixes) (rm : RM) (i : BitIndex) (s : State), s.Reaches p (osW p) rm →
    (rm.isMem = true → ∃ b, i = .imm b) →
    let w := osW p
    let v := s.operand p w rm
    let k := s.bitNumber w i
    let m := BitVec.ofNat w.bits (2 ^ k)
    (∃ t, exec (.bt p rm i) s = .next t ∧ s.Commits t ∧ t.gpr = s.gpr ∧ t.mem = s.mem ∧
      s.flags.AfterBit t.flags (v.getLsbD k)) ∧
    (∃ t, exec (.bts p rm i) s = .next t ∧ s.Commits t ∧ s.Writes t p w rm (v ||| m) ∧
      s.flags.AfterBit t.flags (v.getLsbD k)) ∧
    (∃ t, exec (.btr p rm i) s = .next t ∧ s.Commits t ∧ s.Writes t p w rm (v &&& ~~~m) ∧
      s.flags.AfterBit t.flags (v.getLsbD k)) ∧
    (∃ t, exec (.btc p rm i) s = .next t ∧ s.Commits t ∧ s.Writes t p w rm (v ^^^ m) ∧
      s.flags.AfterBit t.flags (v.getLsbD k))) ∧
  (∀ (p : Prefixes) (m : Mem) (x : BitVec 3) (s : State),
    let w := osW p
    let k := (s.reg w x).toInt
    let a := s.lin (s.seg p m) (s.ea m + BitVec.ofInt 16 (w.bytes * (k.fdiv w.bits)))
    s.Backed a w.bytes →
    let v := BitVec.ofNat w.bits (s.bytesAt a w.bytes)
    let j := (k.fmod w.bits).toNat
    let e := BitVec.ofNat w.bits (2 ^ j)
    (∃ t, exec (.bt p (.mem m) (.reg x)) s = .next t ∧ s.Commits t ∧ t.gpr = s.gpr ∧ t.mem = s.mem ∧
      s.flags.AfterBit t.flags (v.getLsbD j)) ∧
    (∃ t, exec (.bts p (.mem m) (.reg x)) s = .next t ∧ s.Commits t ∧ t.gpr = s.gpr ∧
      s.Stores t a w.bytes (v ||| e).toNat ∧ s.flags.AfterBit t.flags (v.getLsbD j)) ∧
    (∃ t, exec (.btr p (.mem m) (.reg x)) s = .next t ∧ s.Commits t ∧ t.gpr = s.gpr ∧
      s.Stores t a w.bytes (v &&& ~~~e).toNat ∧ s.flags.AfterBit t.flags (v.getLsbD j)) ∧
    (∃ t, exec (.btc p (.mem m) (.reg x)) s = .next t ∧ s.Commits t ∧ t.gpr = s.gpr ∧
      s.Stores t a w.bytes (v ^^^ e).toNat ∧ s.flags.AfterBit t.flags (v.getLsbD j)))

/-- BSF finds the lowest and BSR the highest set bit of its source; with no bit set ZF is 1 and the register is left open.
SETcc writes 1 or 0 by its condition and changes no flag (R340 to R342). -/
def Obligations.BitScanAndSet : Prop :=
  (∀ (p : Prefixes) (r : BitVec 3) (rm : RM) (s : State), s.Reaches p (osW p) rm →
    let w := osW p
    let v := s.operand p w rm
    (∃ t x, exec (.bsf p r rm) s = .next t ∧ s.Commits t ∧ s.Writes t p w (.reg r) x ∧ s.flags.KeepsSystem t.flags ∧
      t.flags.zf = decide (v = 0) ∧
      (v ≠ 0 → v.getLsbD x.toNat = true ∧ ∀ i, i < x.toNat → v.getLsbD i = false)) ∧
    (∃ t x, exec (.bsr p r rm) s = .next t ∧ s.Commits t ∧ s.Writes t p w (.reg r) x ∧ s.flags.KeepsSystem t.flags ∧
      t.flags.zf = decide (v = 0) ∧
      (v ≠ 0 → v.getLsbD x.toNat = true ∧ ∀ i, x.toNat < i → v.getLsbD i = false))) ∧
  (∀ (p : Prefixes) (cc : BitVec 4) (rm : RM) (s : State), s.Reaches p .b8 rm →
    ∃ t, exec (.setcc p cc rm) s = .next t ∧ s.Commits t ∧ t.flags = s.flags ∧
      s.Writes t p .b8 rm (if s.flags.cond cc then 1#8 else 0#8))

/-! ### Data transfer (40_data_transfer.md) -/

/-- MOV between registers, memory and immediates in each of its forms, the four forms with a direct offset included, writes its
destination and nothing else, and no flag. XCHG exchanges its operands, a register form and a memory form alike, and changes no
flag (R200, R201, R204, R227). -/
def Obligations.MoveResult : Prop :=
  (∀ (p : Prefixes) (f : MovForm) (s : State), s.Reaches p (f.width p) f.rmOf →
    ∃ t, exec (.mov p f) s = .next t ∧ s.Commits t ∧ t.flags = s.flags ∧
      s.Writes t p (f.width p) f.dst (s.moveSource p f)) ∧
  (∀ (p : Prefixes) (off : Word) (s : State),
    let a := s.lin (s.dsOr p) off
    (s.Backed a 1 →
      (∃ t, exec (.movMoffs p (.alOb off)) s = .next t ∧ s.Commits t ∧ t.flags = s.flags ∧
        s.Writes t p .b8 (.reg rAL) (s.peek (a % s.par.ring))) ∧
      (∃ t, exec (.movMoffs p (.obAl off)) s = .next t ∧ s.Commits t ∧ t.flags = s.flags ∧ t.gpr = s.gpr ∧
        s.Stores t a 1 (s.r8 rAL).toNat)) ∧
    (s.Backed a (osW p).bytes →
      (∃ t, exec (.movMoffs p (.eaxOv off)) s = .next t ∧ s.Commits t ∧ t.flags = s.flags ∧
        s.Writes t p (osW p) (.reg rAX) (BitVec.ofNat _ (s.bytesAt a (osW p).bytes))) ∧
      (∃ t, exec (.movMoffs p (.ovEax off)) s = .next t ∧ s.Commits t ∧ t.flags = s.flags ∧ t.gpr = s.gpr ∧
        s.Stores t a (osW p).bytes (s.reg (osW p) rAX).toNat))) ∧
  (∀ (p : Prefixes) (w : Width) (q r : BitVec 3) (s : State),
    let f : XchgForm := if w = .b8 then .ebGb (.reg q) r else .evGv (.reg q) r
    w = .b8 ∨ w = osW p →
      ∃ t, exec (.xchg p f) s = .next t ∧ s.Commits t ∧ t.flags = s.flags ∧ t.mem = s.mem ∧
        t.gpr = ((s.setReg w q (s.reg w r)).setReg w r (s.reg w q)).gpr) ∧
  (∀ (p : Prefixes) (w : Width) (m : Mem) (r : BitVec 3) (s : State), s.Backed (s.memAddr p m) w.bytes →
    let f : XchgForm := if w = .b8 then .ebGb (.mem m) r else .evGv (.mem m) r
    w = .b8 ∨ w = osW p →
      ∃ t, exec (.xchg p f) s = .next t ∧ s.Commits t ∧ t.flags = s.flags ∧
        s.Stores t (s.memAddr p m) w.bytes (s.reg w r).toNat ∧
        t.gpr = (s.setReg w r (BitVec.ofNat _ (s.bytesAt (s.memAddr p m) w.bytes))).gpr) ∧
  (∀ (p : Prefixes) (r : BitVec 3) (s : State),
    ∃ t, exec (.xchg p (.eaxGv r)) s = .next t ∧ s.Commits t ∧ t.flags = s.flags ∧ t.mem = s.mem ∧
      t.gpr = ((s.setReg (osW p) rAX (s.reg (osW p) r)).setReg (osW p) r (s.reg (osW p) rAX)).gpr)

/-- MOV from a segment register stores a word in memory at either operand size, and the low half of a register; its upper half
stays at operand size 16 and is left open at 32. MOV to a segment register reads a word and changes that register alone; a
load of SS sets the shadow, and no other does. LDS, LES and LSS load an offset of operand size into a register and the word
after it into the segment register; LSS sets no shadow (R202, R203, R214 to R216, 60_exceptions.md R744). -/
def Obligations.SegmentLoadResult : Prop :=
  (∀ (p : Prefixes) (r : BitVec 3) (sr : SegReg) (s : State),
    ∃ t hi, exec (.movFromSeg p (.reg r) sr) s = .next t ∧ s.Commits t ∧ t.flags = s.flags ∧
      s.Writes t p .b32 (.reg r) (hi ++ s.sreg sr) ∧
      (p.os32 = false → hi = (s.r32 r).extractLsb' 16 16)) ∧
  (∀ (p : Prefixes) (m : Mem) (sr : SegReg) (s : State), s.Backed (s.memAddr p m) 2 →
    ∃ t, exec (.movFromSeg p (.mem m) sr) s = .next t ∧ s.Commits t ∧ t.flags = s.flags ∧ t.gpr = s.gpr ∧
      s.Stores t (s.memAddr p m) 2 (s.sreg sr).toNat) ∧
  (∀ (p : Prefixes) (sr : SegReg) (rm : RM) (s : State), s.Reaches p .b16 rm →
    exec (.movToSeg p sr rm) s =
      .next { s.setSreg sr (s.operand p .b16 rm) with ip := s.ctx.nextIp, shadow := decide (sr = .ss) }) ∧
  (∀ (p : Prefixes) (r : BitVec 3) (m : Mem) (s : State), s.Backed (s.memAddr p m) ((osW p).bytes + 2) →
    let off := BitVec.ofNat (osW p).bits (s.bytesAt (s.memAddr p m) (osW p).bytes)
    let seg := BitVec.ofNat 16 (s.bytesAt (s.memAddr p m + (osW p).bytes) 2)
    let u := s.setReg (osW p) r off
    exec (.lds p r m) s = .next { u with ds := seg, ip := s.ctx.nextIp, shadow := false } ∧
    exec (.les p r m) s = .next { u with es := seg, ip := s.ctx.nextIp, shadow := false } ∧
    exec (.lss p r m) s = .next { u with ss := seg, ip := s.ctx.nextIp, shadow := false })

/-- PUSH of a register, an r/m operand, an immediate or a segment register, and PUSHF: SP goes down by the operand size and the
value from before that is stored at SS:SP; PUSH of a segment register at operand size 32 stores its word and leaves the word
above it unchanged or cleared (R205 to R207, R212, 20_memory.md R113).
That the upper word lies at the next two linear addresses, also across offset FFFFh, is the model's reading
(notes/assumptions/27.md). -/
def Obligations.PushResult : Prop :=
  (∀ (p : Prefixes) (f : StackForm) (s : State), s.Reaches p (osW p) f.rmOf →
    s.Backed (s.slot (osW p).bytes) (osW p).bytes →
      ∃ t, exec (.push p f) s = .next t ∧ s.Pushes t (osW p).bytes (s.operand p (osW p) f.rmOf).toNat) ∧
  (∀ (p : Prefixes) (f : ImmForm) (s : State), s.Backed (s.slot (osW p).bytes) (osW p).bytes →
    ∃ t, exec (.pushImm p f) s = .next t ∧ s.Pushes t (osW p).bytes (f.value (osW p)).toNat) ∧
  (∀ (p : Prefixes) (s : State), s.Backed (s.slot (osW p).bytes) (osW p).bytes →
    ∃ t, exec (.pushf p) s = .next t ∧ s.Pushes t (osW p).bytes s.flags.image.toNat) ∧
  (∀ (p : Prefixes) (sr : SegReg) (s : State), p.os32 = false → s.Backed (s.slot 2) 2 →
    ∃ t, exec (.pushSeg p sr) s = .next t ∧ s.Pushes t 2 (s.sreg sr).toNat) ∧
  (∀ (p : Prefixes) (sr : SegReg) (s : State), p.os32 = true → s.Backed (s.slot 4) 4 →
    ∃ t, exec (.pushSeg p sr) s = .next t ∧ s.Commits t ∧ t.flags = s.flags ∧ t.gpr = (s.setR16 rSP (s.r16 rSP - 4)).gpr ∧
      t.Holds (s.slot 4) 2 (s.sreg sr).toNat ∧ s.SameOutside t (s.slot 4) 4 ∧
      (t.Holds (s.slot 4 + 2) 2 0 ∨ s.SameOutside t (s.slot 4) 2))

/-- POP to a register: the value at SS:SP after SP has gone up, so that POP of SP keeps the value. POP to memory: the store is
addressed after SP has gone up. POP of a segment register takes the low word, and that of SS sets the shadow. POPF loads
FLAGS from the low word; the fixed bits stay (R208, R209, R213, 20_memory.md R114, 10_state.md R50). -/
def Obligations.PopResult : Prop :=
  (∀ (p : Prefixes) (s : State), s.Backed (s.lin s.ss (s.r16 rSP)) (osW p).bytes →
    let w := osW p
    let v := s.bytesAt (s.lin s.ss (s.r16 rSP)) w.bytes
    let u := s.setR16 rSP (s.r16 rSP + BitVec.ofNat 16 w.bytes)
    (∀ r : BitVec 3, ∃ t, exec (.pop p (.reg r)) s = .next t ∧ s.Commits t ∧ t.flags = s.flags ∧ t.mem = s.mem ∧
      t.gpr = (u.setReg w r (BitVec.ofNat _ v)).gpr) ∧
    (∀ r : BitVec 3, ∃ t, exec (.pop p (.rm (.reg r))) s = .next t ∧ s.Commits t ∧ t.flags = s.flags ∧ t.mem = s.mem ∧
      t.gpr = (u.setReg w r (BitVec.ofNat _ v)).gpr) ∧
    (∀ m : Mem, u.Backed (u.memAddr p m) w.bytes →
      ∃ t, exec (.pop p (.rm (.mem m))) s = .next t ∧ s.Commits t ∧ t.flags = s.flags ∧ t.gpr = u.gpr ∧
        s.Stores t (u.memAddr p m) w.bytes v) ∧
    (∀ sr : SegReg, exec (.popSeg p sr) s =
      .next { u.setSreg sr (BitVec.ofNat 16 v) with ip := s.ctx.nextIp, shadow := decide (sr = .ss) }) ∧
    exec (.popf p) s = .next { u with flags := Flags.ofImage (BitVec.ofNat 16 v), ip := s.ctx.nextIp, shadow := false })

/-- PUSHA stores the eight registers downwards from SS:SP, SP as it was at the start, in the order AX, CX, DX, BX, SP, BP, SI,
DI; POPA loads them back upwards and skips the stored SP; both at operand size 16 or 32 (R210, R211). -/
def Obligations.PushAllPopAll : Prop :=
  ∀ (p : Prefixes) (s : State), s.par.NoHole →
    let w := osW p
    let slot (k : Nat) : Nat := s.lin s.ss (s.r16 rSP + BitVec.ofNat 16 (k * w.bytes))
    let below (k : Nat) : Nat := s.lin s.ss (s.r16 rSP - BitVec.ofNat 16 (k * w.bytes))
    (∃ t, exec (.pusha p) s = .next t ∧ s.Commits t ∧ t.flags = s.flags ∧
      t.gpr = (s.setR16 rSP (s.r16 rSP - BitVec.ofNat 16 (8 * w.bytes))).gpr ∧
      (∀ r : BitVec 3, t.Holds (below (r.toNat + 1)) w.bytes (s.reg w r).toNat) ∧
      (∀ b, (∀ k i, 1 ≤ k → k ≤ 8 → i < w.bytes → b ≠ (below k + i) % s.par.ring) → t.peek b = s.peek b)) ∧
    (∃ t, exec (.popa p) s = .next t ∧ s.Commits t ∧ t.flags = s.flags ∧ t.mem = s.mem ∧
      t.r16 rSP = s.r16 rSP + BitVec.ofNat 16 (8 * w.bytes) ∧
      (t.r32 rSP).extractLsb' 16 16 = (s.r32 rSP).extractLsb' 16 16 ∧
      (∀ r : BitVec 3, r ≠ rSP → t.reg w r = BitVec.ofNat _ (s.bytesAt (slot (7 - r.toNat)) w.bytes)) ∧
      (w = .b16 → ∀ r : BitVec 3, (t.r32 r).extractLsb' 16 16 = (s.r32 r).extractLsb' 16 16))

/-- LEA writes the effective address and reads no memory; XLAT reads the byte at BX plus AL; MOVZX and MOVSX extend a byte or a
word; CBW and CWD extend the accumulator, at operand size 32 AX to EAX and EAX to EDX:EAX; no flag changes (R217, R218, R221
to R224). -/
def Obligations.ExtendAndAddress : Prop :=
  ∀ (p : Prefixes) (s : State),
    (∀ (r : BitVec 3) (m : Mem), ∃ t, exec (.lea p r m) s = .next t ∧ s.Commits t ∧ t.flags = s.flags ∧
      s.Writes t p (osW p) (.reg r) (BitVec.ofNat _ (s.ea m).toNat)) ∧
    (let a := s.lin (s.dsOr p) (s.r16 rBX + BitVec.ofNat 16 (s.r8 rAL).toNat)
     s.Backed a 1 → ∃ t, exec (.xlat p) s = .next t ∧ s.Commits t ∧ t.flags = s.flags ∧
      s.Writes t p .b8 (.reg rAL) (s.peek (a % s.par.ring))) ∧
    (∀ (r : BitVec 3) (wide : Bool) (rm : RM), s.Reaches p (srcW wide) rm →
      (∃ t, exec (.movzx p r wide rm) s = .next t ∧ s.Commits t ∧ t.flags = s.flags ∧
        s.Writes t p (osW p) (.reg r) (BitVec.ofNat _ (s.operand p (srcW wide) rm).toNat)) ∧
      (∃ t, exec (.movsx p r wide rm) s = .next t ∧ s.Commits t ∧ t.flags = s.flags ∧
        s.Writes t p (osW p) (.reg r) (BitVec.ofInt _ (s.operand p (srcW wide) rm).toInt))) ∧
    (∃ t, exec (.cbw p) s = .next t ∧ s.Commits t ∧ t.flags = s.flags ∧ t.mem = s.mem ∧
      if p.os32 then t.gpr = (s.setR32 rAX (BitVec.ofInt 32 (s.r16 rAX).toInt)).gpr
      else t.gpr = (s.setR16 rAX (BitVec.ofInt 16 (s.r8 rAL).toInt)).gpr) ∧
    (∃ t, exec (.cwd p) s = .next t ∧ s.Commits t ∧ t.flags = s.flags ∧
      s.Writes t p (osW p) (.reg rDX) (BitVec.ofInt _ (if (s.reg (osW p) rAX).toInt < 0 then -1 else 0)))

/-- IN writes the accumulator and logs the read, whatever value the port gives; OUT writes the port and changes nothing but the
log (R225, R226, 20_memory.md R121, R122). -/
def Obligations.PortResult : Prop :=
  ∀ (p : Prefixes) (wide : Bool) (q : Port) (s : State),
    let w := portW p wide
    (∃ (t : State) (v : Nat), exec (.inPort p wide q) s = .next t ∧ v < 2 ^ w.bits ∧
      t = { s.setReg w rAX (BitVec.ofNat _ v) with
        events := s.events ++ [.ioRead (s.port q) w.bytes v], draws := t.draws, ip := s.ctx.nextIp, shadow := false }) ∧
    exec (.outPort p wide q) s = .next { s with
      events := s.events ++ [.ioWrite (s.port q) w.bytes (s.reg w rAX).toNat], ip := s.ctx.nextIp, shadow := false }

/-! ### Strings (43_string.md) -/

/-- One MOVS, CMPS, SCAS, LODS, STOS, INS or OUTS at each width, with no repeat prefix: what is read, written and compared, the
port DX and the event log of INS and OUTS, and SI and DI moved by the element size, up or down by DF (R380, R382 to R388). -/
def Obligations.StringStepResult : Prop :=
  (∀ (p : Prefixes) (s : State) (w : Width), p.rep = none → w = .b8 ∨ w = osW p →
    let src := s.lin (s.dsOr p) (s.r16 rSI)
    let dst := s.lin s.es (s.r16 rDI)
    let d : Word := if s.flags.df then -BitVec.ofNat 16 w.bytes else BitVec.ofNat 16 w.bytes
    let x := BitVec.ofNat w.bits (s.bytesAt src w.bytes)
    let y := BitVec.ofNat w.bits (s.bytesAt dst w.bytes)
    let stepped (u : State) (si di : Bool) : State :=
      let u := if si then u.setR16 rSI (u.r16 rSI + d) else u
      if di then u.setR16 rDI (u.r16 rDI + d) else u
    (s.Backed src w.bytes → s.Backed dst w.bytes →
      ∃ t, exec (if w = .b8 then .movsb p else .movsw p) s = .next t ∧ s.Commits t ∧ t.flags = s.flags ∧
        t.gpr = (stepped s true true).gpr ∧ s.Stores t dst w.bytes x.toNat) ∧
    (s.Backed src w.bytes → s.Backed dst w.bytes →
      ∃ t, exec (if w = .b8 then .cmpsb p else .cmpsw p) s = .next t ∧ s.Commits t ∧ t.mem = s.mem ∧
        t.gpr = (stepped s true true).gpr ∧ s.flags.AfterSub t.flags x y false (x - y)) ∧
    (s.Backed dst w.bytes →
      ∃ t, exec (if w = .b8 then .scasb p else .scasw p) s = .next t ∧ s.Commits t ∧ t.mem = s.mem ∧
        t.gpr = (stepped s false true).gpr ∧
        s.flags.AfterSub t.flags (s.reg w rAX) y false (s.reg w rAX - y)) ∧
    (s.Backed src w.bytes →
      ∃ t, exec (if w = .b8 then .lodsb p else .lodsw p) s = .next t ∧ s.Commits t ∧ t.flags = s.flags ∧
        t.mem = s.mem ∧ t.gpr = (stepped (s.setReg w rAX x) true false).gpr) ∧
    (s.Backed dst w.bytes →
      ∃ t, exec (if w = .b8 then .stosb p else .stosw p) s = .next t ∧ s.Commits t ∧ t.flags = s.flags ∧
        t.gpr = (stepped s false true).gpr ∧ s.Stores t dst w.bytes (s.reg w rAX).toNat)) ∧
  (∀ (p : Prefixes) (s : State) (w : Width), p.rep = none → w = .b8 ∨ w = osW p →
    let src := s.lin (s.dsOr p) (s.r16 rSI)
    let dst := s.lin s.es (s.r16 rDI)
    let d : Word := if s.flags.df then -BitVec.ofNat 16 w.bytes else BitVec.ofNat 16 w.bytes
    (s.Backed dst w.bytes →
      ∃ (t : State) (v : Nat), exec (if w = .b8 then .insb p else .insw p) s = .next t ∧ v < 2 ^ w.bits ∧
        t = { s.setR16 rDI (s.r16 rDI + d) with
          mem := t.mem, events := s.events ++ [.ioRead (s.r16 rDX) w.bytes v], draws := t.draws, ip := s.ctx.nextIp,
          shadow := false } ∧
        s.Stores t dst w.bytes v) ∧
    (s.Backed src w.bytes →
      exec (if w = .b8 then .outsb p else .outsw p) s = .next { s.setR16 rSI (s.r16 rSI + d) with
        events := s.events ++ [.ioWrite (s.r16 rDX) w.bytes (s.bytesAt src w.bytes)], ip := s.ctx.nextIp,
        shadow := false }))

/-- The repeat prefixes, for each of the fourteen string instructions (`stringInstrs`): with CX = 0 nothing happens but the
advance of IP; else, once one iteration without the prefix has ended in a running state u with CX counted down, the
instruction is done with u if CX is 0 there, or if it compares and ZF is not what the prefix asks for, and otherwise goes on
as the repeated instruction from u, whose state holds the effects of every earlier iteration. Where that iteration ends with the
run Faulted by an AddressFault, the repeated instruction ends in the very state it left: its completed byte writes and its port
access stay, CX is not counted down for it, and no register, flag or IP changes. Where memory has no hole the instruction
completes, and one that does not compare leaves CX = 0 (R381, 10_state.md R78). -/
def Obligations.RepeatResult : Prop :=
  ∀ (p : Prefixes) (s : State) (r : Rep), ∀ si ∈ stringInstrs,
    (s.par.NoHole → ∃ t, exec (si.1 { p with rep := some r }) s = .next t ∧ t.run = s.run ∧ t.ip = s.ctx.nextIp ∧
      t.shadow = false ∧ (si.2 = false → t.r16 rCX = 0)) ∧
    (s.r16 rCX = 0 → exec (si.1 { p with rep := some r }) s = .next s.commit) ∧
    (s.r16 rCX ≠ 0 →
      ∀ t, exec (si.1 { p with rep := none }) s = .next t → t.run = .running →
        let u := { t.setR16 rCX (s.r16 rCX - 1) with ip := s.ip, shadow := s.shadow }
        exec (si.1 { p with rep := some r }) s =
          if u.r16 rCX = 0 ∨ (si.2 = true ∧ u.flags.zf ≠ decide (r = .rep)) then .next u.commit
          else exec (si.1 { p with rep := some r }) u) ∧
    (s.r16 rCX ≠ 0 → s.run = .running →
      ∀ t, exec (si.1 { p with rep := none }) s = .next t → t.run ≠ .running →
        exec (si.1 { p with rep := some r }) s = .next t ∧
          ∃ a, t = { s with
            mem := t.mem, events := t.events, draws := t.draws
            run := .faulted (.addressFault a) s.ctx.startCs s.ctx.startIp })

/-! ### Control transfer (44_control_transfer.md) -/

/-- The near and far jumps, to a target at or below FFFFh: IP takes it, a far jump loads CS, and nothing else changes; a
relative target is next_ip plus the displacement at the width of the operand size (R410 to R414). -/
def Obligations.JumpResult : Prop :=
  ∀ (p : Prefixes) (s : State),
    (∀ (d : Rel), let target := s.target p d
      target.toNat ≤ 0xFFFF →
        exec (.jmpRel p d) s = .next { s with ip := BitVec.ofNat 16 target.toNat, shadow := false }) ∧
    (∀ (rm : RM), s.Reaches p (osW p) rm → (s.operand p (osW p) rm).toNat ≤ 0xFFFF →
      exec (.jmpInd p rm) s =
        .next { s with ip := BitVec.ofNat 16 (s.operand p (osW p) rm).toNat, shadow := false }) ∧
    (∀ (off : DWord) (seg : Word), izOk p off = true → off.toNat ≤ 0xFFFF →
      exec (.jmpFar p off seg) s = .next { s with cs := seg, ip := BitVec.ofNat 16 off.toNat, shadow := false }) ∧
    (∀ (m : Mem), s.Backed (s.memAddr p m) ((osW p).bytes + 2) →
      s.bytesAt (s.memAddr p m) (osW p).bytes ≤ 0xFFFF →
      exec (.jmpFarInd p m) s = .next { s with
        cs := BitVec.ofNat 16 (s.bytesAt (s.memAddr p m + (osW p).bytes) 2)
        ip := BitVec.ofNat 16 (s.bytesAt (s.memAddr p m) (osW p).bytes), shadow := false })

/-- A target above FFFFh halts the run with UnsupportedFeature, with nothing written: the jumps, near and far, direct and
indirect; a taken conditional jump and JCXZ; the calls, near and far; and a taken LOOP, LOOPE or LOOPNE, which has counted CX
down and written nothing else (R410).
That CX is counted down before the check of the target is the model's reading (notes/assumptions/24.md). -/
def Obligations.TargetBeyondHalts : Prop :=
  ∀ (p : Prefixes) (s : State), p.os32 = true →
    let beyond (i : Instr) (u : State) : Prop := exec i s = .next (u.halt (.unsupportedFeature .ipBeyond))
    (∀ (d : Rel), 0xFFFF < (s.target p d).toNat → beyond (.jmpRel p d) s) ∧
    (∀ (d : DWord), 0xFFFF < (s.target p (.jz d)).toNat →
      beyond (.callRel p d) s ∧ ∀ cc, s.flags.cond cc = true → beyond (.jccNear p cc d) s) ∧
    (∀ (d : Byte), 0xFFFF < (s.target p (.jb d)).toNat →
      let u := s.setR16 rCX (s.r16 rCX - 1)
      (∀ cc, s.flags.cond cc = true → beyond (.jccShort p cc d) s) ∧ (s.r16 rCX = 0 → beyond (.jcxz p d) s) ∧
      (s.r16 rCX ≠ 1 → beyond (.loop p d) u ∧ (s.flags.zf = true → beyond (.loope p d) u) ∧
        (s.flags.zf = false → beyond (.loopne p d) u))) ∧
    (∀ (rm : RM), s.Reaches p (osW p) rm → 0xFFFF < (s.operand p (osW p) rm).toNat →
      beyond (.jmpInd p rm) s ∧ beyond (.callInd p rm) s) ∧
    (∀ (off : DWord) (seg : Word), 0xFFFF < off.toNat → beyond (.jmpFar p off seg) s ∧ beyond (.callFar p off seg) s) ∧
    (∀ (m : Mem), s.Backed (s.memAddr p m) ((osW p).bytes + 2) → 0xFFFF < s.bytesAt (s.memAddr p m) (osW p).bytes →
      beyond (.jmpFarInd p m) s ∧ beyond (.callFarInd p m) s)

/-- Jcc, JCXZ and the three LOOPs: taken, with a target at or below FFFFh, IP takes the target; not taken, wherever the target
lies, IP goes past the instruction. LOOP counts CX down first, and no flag changes (R415 to R420). -/
def Obligations.ConditionalJumps : Prop :=
  ∀ (p : Prefixes) (s : State),
    let goes (i : Instr) (u : State) (r : Rel) (taken : Bool) : Prop :=
      (taken = true → (s.target p r).toNat ≤ 0xFFFF) →
        exec i s = .next { u with
          ip := if taken then BitVec.ofNat 16 (s.target p r).toNat else s.ctx.nextIp, shadow := false }
    let u := s.setR16 rCX (s.r16 rCX - 1)
    let more := decide (s.r16 rCX ≠ 1)
    (∀ (cc : BitVec 4) (d : Byte), goes (.jccShort p cc d) s (.jb d) (s.flags.cond cc)) ∧
    (∀ (cc : BitVec 4) (z : DWord), goes (.jccNear p cc z) s (.jz z) (s.flags.cond cc)) ∧
    (∀ d : Byte, goes (.jcxz p d) s (.jb d) (decide (s.r16 rCX = 0)) ∧ goes (.loop p d) u (.jb d) more ∧
      goes (.loope p d) u (.jb d) (more && s.flags.zf) ∧ goes (.loopne p d) u (.jb d) (more && !s.flags.zf))

/-- The near and far calls, to a target at or below FFFFh: CS for a far one and then next_ip are pushed at operand size, and the
jump is taken; a pushed CS at operand size 32 leaves the word above it unchanged or cleared (R421 to R424).
That the upper word lies at the next two linear addresses, also across offset FFFFh, is the model's reading
(notes/assumptions/27.md). -/
def Obligations.CallResult : Prop :=
  ∀ (p : Prefixes) (s : State), s.par.NoHole →
    let w := osW p
    (∀ d : DWord, (s.target p (.jz d)).toNat ≤ 0xFFFF → ∃ t, exec (.callRel p d) s = .next t ∧
      s.Jumps t s.cs (BitVec.ofNat 16 (s.target p (.jz d)).toNat) ∧
      t.gpr = (s.setR16 rSP (s.r16 rSP - BitVec.ofNat 16 w.bytes)).gpr ∧
      s.Stores t (s.slot w.bytes) w.bytes s.ctx.nextIp.toNat) ∧
    (∀ rm : RM, (s.operand p w rm).toNat ≤ 0xFFFF → ∃ t, exec (.callInd p rm) s = .next t ∧
      s.Jumps t s.cs (BitVec.ofNat 16 (s.operand p w rm).toNat) ∧
      t.gpr = (s.setR16 rSP (s.r16 rSP - BitVec.ofNat 16 w.bytes)).gpr ∧
      s.Stores t (s.slot w.bytes) w.bytes s.ctx.nextIp.toNat) ∧
    (∀ (off : DWord) (seg : Word), izOk p off = true → off.toNat ≤ 0xFFFF →
      ∃ t, exec (.callFar p off seg) s = .next t ∧ s.FarCalls t w seg (BitVec.ofNat 16 off.toNat)) ∧
    (∀ m : Mem, s.bytesAt (s.memAddr p m) w.bytes ≤ 0xFFFF → ∃ t, exec (.callFarInd p m) s = .next t ∧
      s.FarCalls t w (BitVec.ofNat 16 (s.bytesAt (s.memAddr p m + w.bytes) 2))
        (BitVec.ofNat 16 (s.bytesAt (s.memAddr p m) w.bytes)))

/-- RET and RETF pop the target and RETF also CS, then release the operand's bytes; a popped target above FFFFh halts the run
with SP already moved. IRET pops IP, CS and FLAGS, each at operand size, and the run goes on there with those flags; a popped
IP above FFFFh halts the run (R425, R426, R410, R430, 60_exceptions.md R736). -/
def Obligations.ReturnResult : Prop :=
  (∀ (p : Prefixes) (n : Option Word) (s : State), s.par.NoHole →
    let w := osW p
    let at1 := s.lin s.ss (s.r16 rSP)
    let at2 := s.lin s.ss (s.r16 rSP + BitVec.ofNat 16 w.bytes)
    let ip := s.bytesAt at1 w.bytes
    let cs := BitVec.ofNat 16 (s.bytesAt at2 w.bytes)
    (ip ≤ 0xFFFF →
      exec (.ret p n) s = .next { s.setR16 rSP (s.r16 rSP + BitVec.ofNat 16 w.bytes + n.getD 0) with
        ip := BitVec.ofNat 16 ip, shadow := false } ∧
      exec (.retf p n) s = .next { s.setR16 rSP (s.r16 rSP + BitVec.ofNat 16 (2 * w.bytes) + n.getD 0) with
        cs := cs, ip := BitVec.ofNat 16 ip, shadow := false }) ∧
    (0xFFFF < ip →
      exec (.ret p n) s =
        .next ((s.setR16 rSP (s.r16 rSP + BitVec.ofNat 16 w.bytes)).halt (.unsupportedFeature .ipBeyond)) ∧
      exec (.retf p n) s =
        .next ((s.setR16 rSP (s.r16 rSP + BitVec.ofNat 16 (2 * w.bytes))).halt (.unsupportedFeature .ipBeyond)))) ∧
  (∀ (p : Prefixes) (s : State), s.par.NoHole →
    let w := osW p
    let item (k : Nat) : Nat := s.bytesAt (s.lin s.ss (s.r16 rSP + BitVec.ofNat 16 (k * w.bytes))) w.bytes
    let u := s.setR16 rSP (s.r16 rSP + BitVec.ofNat 16 (3 * w.bytes))
    (item 0 ≤ 0xFFFF → exec (.iret p) s = .next { u with
      ip := BitVec.ofNat 16 (item 0), cs := BitVec.ofNat 16 (item 1), flags := Flags.ofImage (BitVec.ofNat 16 (item 2)),
      shadow := false }) ∧
    (0xFFFF < item 0 → exec (.iret p) s = .next (u.halt (.unsupportedFeature .ipBeyond))))

/-- INT n, INT3 and INTO with OF = 1 take their interrupt as a trap, which returns past the instruction; INTO with OF = 0 does
nothing but advance IP. BOUND with the index within the bounds, all signed and of operand size, does nothing but advance IP;
outside them it takes interrupt 5 as a fault, which returns to the instruction (R427 to R429, R433, 60_exceptions.md R741,
R742). -/
def Obligations.SoftwareInterrupts : Prop :=
  ∀ (p : Prefixes) (s : State),
    (∀ (r : BitVec 3) (m : Mem), s.Backed (s.memAddr p m) (2 * (osW p).bytes) →
      let a := s.memAddr p m
      let lo := (BitVec.ofNat (osW p).bits (s.bytesAt a (osW p).bytes)).toInt
      let hi := (BitVec.ofNat (osW p).bits (s.bytesAt (a + (osW p).bytes) (osW p).bytes)).toInt
      let i := (s.reg (osW p) r).toInt
      (lo ≤ i ∧ i ≤ hi → exec (.bound p r m) s = .next s.commit) ∧
      (i < lo ∨ hi < i → exec (.bound p r m) s = .next (s.dispatch 5 s.ctx.startIp))) ∧
    (∀ v : Byte, exec (.int p v) s = .next (s.dispatch v s.ctx.nextIp)) ∧
    exec (.int3 p) s = .next (s.dispatch 3 s.ctx.nextIp) ∧
    (s.flags.ofl = true → exec (.into p) s = .next (s.dispatch 4 s.ctx.nextIp)) ∧
    (s.flags.ofl = false → exec (.into p) s = .next s.commit)

/-- ENTER at operand size 16 saves BP, makes BP the frame, copies one pointer fewer than the nesting level modulo 32 and then
the frame itself, and makes room; the copy of a pointer is stated where no slot written before it overlaps the pointer. At
operand size 32 it halts the run. LEAVE takes SP from BP and pops BP (R431, R432). -/
def Obligations.FrameResult : Prop :=
  ∀ (p : Prefixes) (s : State), s.par.NoHole →
    (∀ (size : Word) (level : Byte), p.os32 = false →
      let n := level.toNat % 32
      let frame := s.r16 rSP - 2
      ∃ t, exec (.enter p size level) s = .next t ∧ s.Commits t ∧ t.flags = s.flags ∧
        t.gpr = ((s.setR16 rBP frame).setR16 rSP (frame - BitVec.ofNat 16 (2 * n) - size)).gpr ∧
        t.Holds (s.lin s.ss frame) 2 (s.r16 rBP).toNat ∧
        (n ≠ 0 → t.Holds (s.lin s.ss (frame - BitVec.ofNat 16 (2 * n))) 2 frame.toNat) ∧
        (∀ k, 1 ≤ k → k < n →
          let old := s.lin s.ss (s.r16 rBP - BitVec.ofNat 16 (2 * k))
          (∀ j i h, j < k → i < 2 → h < 2 →
            (old + i) % s.par.ring ≠ (s.lin s.ss (frame - BitVec.ofNat 16 (2 * j)) + h) % s.par.ring) →
          t.Holds (s.lin s.ss (frame - BitVec.ofNat 16 (2 * k))) 2 (s.bytesAt old 2)) ∧
        (∀ b, (∀ k i, k ≤ n → i < 2 → b ≠ (s.lin s.ss (frame - BitVec.ofNat 16 (2 * k)) + i) % s.par.ring) →
          t.peek b = s.peek b)) ∧
    (∀ (size : Word) (level : Byte), p.os32 = true →
      exec (.enter p size level) s = .next (s.halt (.unsupportedFeature .enter32))) ∧
    (let v := s.bytesAt (s.lin s.ss (s.r16 rBP)) (osW p).bytes
     exec (.leave p) s =
      .next ((s.setR16 rSP (s.r16 rBP + BitVec.ofNat 16 (osW p).bytes)).setReg (osW p) rBP (BitVec.ofNat _ v)).commit)

/-! ### Processor control (45_processor_control.md) -/

/-- CLC, STC, CMC, CLD, STD, CLI and STI change their one flag; NOP and WAIT nothing; HLT stops the core after it (R460 to
R469). The system and protected-mode rows and the rows of FS and GS halt the run with UnsupportedFeature and change nothing
else (R471, R472, 30_encoding.md R169, R170). -/
def Obligations.ProcessorControl : Prop :=
  (∀ (p : Prefixes) (s : State),
    let done (f : Flags) : State := { s with flags := f, ip := s.ctx.nextIp, shadow := false }
    exec (.clc p) s = .next (done { s.flags with cf := false }) ∧
    exec (.stc p) s = .next (done { s.flags with cf := true }) ∧
    exec (.cmc p) s = .next (done { s.flags with cf := !s.flags.cf }) ∧
    exec (.cld p) s = .next (done { s.flags with df := false }) ∧
    exec (.std p) s = .next (done { s.flags with df := true }) ∧
    exec (.cli p) s = .next (done { s.flags with ifl := false }) ∧
    exec (.sti p) s = .next (done { s.flags with ifl := true }) ∧
    exec (.nop p) s = .next (done s.flags) ∧ exec (.wait p) s = .next (done s.flags) ∧
    exec (.hlt p) s = .next { done s.flags with run := .halted }) ∧
  (∀ (p : Prefixes) (s : State),
    (∃ t, exec (.pushFs p) s = .next t ∧ s.HaltsAs t (.unsupportedFeature .fsGs)) ∧
    (∃ t, exec (.pushGs p) s = .next t ∧ s.HaltsAs t (.unsupportedFeature .fsGs)) ∧
    (∃ t, exec (.popFs p) s = .next t ∧ s.HaltsAs t (.unsupportedFeature .fsGs)) ∧
    (∃ t, exec (.popGs p) s = .next t ∧ s.HaltsAs t (.unsupportedFeature .fsGs)) ∧
    (∃ t, exec (.lfs p) s = .next t ∧ s.HaltsAs t (.unsupportedFeature .fsGs)) ∧
    (∃ t, exec (.lgs p) s = .next t ∧ s.HaltsAs t (.unsupportedFeature .fsGs)) ∧
    (∃ t, exec (.arpl p) s = .next t ∧ s.HaltsAs t (.unsupportedFeature .protectedMode)) ∧
    (∀ b : Byte, ∃ t, exec (.system p b) s = .next t ∧ s.HaltsAs t (.unsupportedFeature .protectedMode)))

/-! ### The FPU on values (46_fpu_model.md) -/

/-- Rounding to a multiple of 2^q selects what R507 says: the nearest, on a tie the even one; the largest not above; the smallest
not below; the nearest not of greater magnitude. It says truly whether the result differs from the exact value and whether it
is of greater magnitude. It holds for an exact magnitude and for one known to lie between two neighbours (R507). -/
def Obligations.RoundingCorrect : Prop :=
  ∀ (rc : Rc) (neg : Bool) (a : Approx) (q : Int) (x : ℚ), a.Is x → (a.sticky = true → a.e < q) →
    let r := roundAt rc neg a q
    let y : ℚ := r.k * 2 ^ q
    r.q = q ∧ |y - x| < 2 ^ q ∧ (r.inexact = true ↔ y ≠ x) ∧ (r.above = true ↔ x < y) ∧
      (match rc with
      | .nearest => 2 * |y - x| ≤ 2 ^ q ∧ (2 * |y - x| = 2 ^ q → r.k % 2 = 0)
      | .down => if neg then x ≤ y else y ≤ x
      | .up => if neg then y ≤ x else x ≤ y
      | .zero => y ≤ x)

/-- The operation tables give the exact real result for finite operands: sum, difference, product, quotient by a nonzero value
and, for a positive value, a square root (that of ±0 is in FpuSpecialOperands); a comparison is that of the exact values (R526 to
R528, R530, 48_fpu_compare_trans_control.md R640). -/
def Obligations.ArithmeticExact : Prop :=
  ∀ (rc : Rc) (a b : F80), a.Finite → b.Finite →
    (addCalc rc a b).Is (a.rat + b.rat) ∧ (subCalc rc a b).Is (a.rat - b.rat) ∧ (mulCalc rc a b).Is (a.rat * b.rat) ∧
      (b.rat ≠ 0 → (divCalc rc a b).Is (a.rat / b.rat)) ∧
      fCompare a b = compare a.rat b.rat ∧
      (0 < a.rat → ∃ p : Approx, sqrtCalc a = .real false p ∧ 2 ^ 66 ≤ p.m ∧ ((p.m : ℚ) * 2 ^ p.e) ^ 2 ≤ a.rat ∧
        a.rat < (((p.m : ℚ) + 1) * 2 ^ p.e) ^ 2 ∧ (p.sticky = false ↔ ((p.m : ℚ) * 2 ^ p.e) ^ 2 = a.rat))

/-- What an operation of two operands, or of one, gives when they are neither NaNs nor unsupported. A nonzero exact real is
delivered as R509 and R510 say: the selection of RC at p bits, the overflow and the tiny result under either mask, PE and C1.
An invalid operation, a zero divide and an exact value give their results; a result that is left open raises nothing. A
denormal operand adds DE, or stops the operation where DM is clear (46_fpu_model.md R507, R509, R510, R513, R515, R516, R519).
C1 is clear for a result R509 does not round, and under an unmasked overflow or underflow it says 0 or 1 as R509 compares; a
bias-adjusted result that is no value of the format is left open; a zero divide looks at no denormal; a result that is left
open sets no DE: these are the model's reading (notes/assumptions/17.md, 18.md, 19.md, 35.md, 44.md). -/
def Obligations.FpuDelivery : Prop :=
  ∀ (c : FCtl) (d p : Nat), p = 24 ∨ p = 53 ∨ p = 64 →
    let gives (k : Calc) (den : Bool) (r : FRes F80) : Prop :=
      let computes (P : FRes F80 → Prop) : Prop :=
        if den then
          (if c.dm then ∃ u, P u ∧ r = { u with exc := u.exc ||| xDE } else r = { exc := xDE, res := none, c1 := false })
        else P r
      match k with
      | .real neg a => ∀ x : ℚ, x ≠ 0 → neg = decide (x < 0) → a.Is |x| → computes (Delivers c p x)
      | .value v pe c1 => computes fun u => u = { exc := peIf pe, res := some v, c1 := c1 }
      | .invalid => r = invalidGives c 0xFFFFC000000000000000
      | .zeroDivide neg => r = { exc := xZE, res := if c.zm then some (F80.inf neg) else none, c1 := false }
      | .free => r.exc = 0 ∧ r.res.isSome = true
    (∀ (op : F80 → F80 → Calc) (a b : Opnd), a.v.Numeric → b.v.Numeric →
      gives (op a.v b.v) (a.den || b.den || decide (a.v.cls = .denormal ∨ b.v.cls = .denormal)) (arith2 c d p op a b)) ∧
    (∀ (op : F80 → Calc) (a : F80), a.Numeric → gives (op a) (decide (a.cls = .denormal)) (arith1 c d p op a))

/-- What an operation gives when an operand is a NaN or unsupported: the real indefinite with IE for an unsupported operand; else
the NaN with the larger significand, quieted, with IE if one of them signals; nothing where IE is not masked. Quieting sets
the top fraction bit (46_fpu_model.md R503, R513, R514, R517).
Where the significands are equal, or the quiet bit decides which is larger, either NaN may result (notes/assumptions/43.md).
That an unsupported operand is looked at before a signalling NaN, and that C1 is clear, are the model's reading
(notes/assumptions/21.md, 17.md). -/
def Obligations.FpuNanOperands : Prop :=
  ∀ (c : FCtl) (d p : Nat),
    (∀ (op : F80 → F80 → Calc) (a b : Opnd), ¬ (a.v.Numeric ∧ b.v.Numeric) → NanGives c a.v b.v (arith2 c d p op a b)) ∧
    (∀ (op : F80 → Calc) (a : F80), ¬ a.Numeric → NanGives c a F80.one (arith1 c d p op a)) ∧
    (∀ (a : F80) (k : Nat), k < 80 → a.quiet.getLsbD k = (a.getLsbD k || decide (k = 62)))

/-- The operation tables on zeros, infinities and the other operands that the spec gives a fixed result: sums and differences
with the sign of an exact zero; products; quotients; FSQRT; FSCALE; FRNDINT; sine, cosine and tangent; FPATAN with its
multiples of π; F2XM1; FYL2X; FYL2XP1. Elsewhere a transcendental is the rational P_TRANS names for the exact operands
(46_fpu_model.md R521, R526 to R530, 47_fpu_transfer_arith.md R600, R601, 48_fpu_compare_trans_control.md R651 to R658, R667).
FSCALE's n is cut off at 65536, beyond which every scaling overflows or underflows alike. A result out of the domain of F2XM1
or FYL2XP1 is left open (notes/assumptions/35.md). -/
def Obligations.FpuSpecialOperands : Prop :=
  ∀ (rc : Rc) (a b : F80), a.Numeric → b.Numeric →
    let differ := a.neg != b.neg
    let zero (x : F80) : Prop := x.cls = .zero
    let inf (x : F80) : Prop := x.cls = .infinity
    let away : Prop := ToInfinity rc a.neg
    let piMultiple (exp sig : Nat) : Calc :=
      .value (F80.mk a.neg exp (if away then sig + 1 else sig)) true (decide away)
    let below := decide (b.rat < 1)
    let inRange : Prop := b.Finite ∧ |b.rat| < 1 ∧ 1 < 2 * (1 - |b.rat|) ^ 2
    -- sum and difference
    (inf a → addCalc rc a b = if inf b ∧ differ then .invalid else .exact a) ∧
    (a.Finite → inf b → addCalc rc a b = .exact b) ∧
    (a.Finite → b.Finite → a.rat + b.rat = 0 →
      addCalc rc a b = .exact (F80.zero (if differ then decide (rc = .down) else a.neg))) ∧
    subCalc rc a b = addCalc rc a (F80.mk (!b.neg) b.exp b.sig) ∧
    -- product, quotient, square root
    (inf a ∨ inf b → mulCalc rc a b = if zero a ∨ zero b then .invalid else .exact (F80.inf differ)) ∧
    (a.Finite → b.Finite → zero a ∨ zero b → mulCalc rc a b = .exact (F80.zero differ)) ∧
    (inf a → divCalc rc a b = if inf b then .invalid else .exact (F80.inf differ)) ∧
    (a.Finite → inf b → divCalc rc a b = .exact (F80.zero differ)) ∧
    (zero a → b.Finite → divCalc rc a b = if zero b then .invalid else .exact (F80.zero differ)) ∧
    (a.FiniteNonzero → zero b → divCalc rc a b = .zeroDivide differ) ∧
    (zero a ∨ (inf a ∧ a.neg = false) → sqrtCalc a = .exact a) ∧ (¬ zero a → a.neg = true → sqrtCalc a = .invalid) ∧
    -- scaling and rounding to an integer
    (zero a → scaleCalc a b = if inf b ∧ b.neg = false then .invalid else .exact a) ∧
    (inf a → scaleCalc a b = if inf b ∧ b.neg = true then .invalid else .exact a) ∧
    (a.FiniteNonzero → inf b → scaleCalc a b = .exact (if b.neg then F80.zero a.neg else F80.inf a.neg)) ∧
    (a.FiniteNonzero → b.Finite → (scaleCalc a b).Is (a.rat * 2 ^ max (-65536) (min 65536 (truncate b.rat)))) ∧
    (zero a ∨ inf a → rndintCalc rc a = .exact a) ∧
    -- sine, cosine, tangent
    (inf a → sinCalc a = .invalid ∧ cosCalc a = .invalid ∧ tanCalc a = .invalid) ∧
    (zero a → sinCalc a = .exact a ∧ cosCalc a = .exact F80.one ∧ tanCalc a = .exact a) ∧
    (a.FiniteNonzero → sinCalc a = transCalc .sin a a ∧ cosCalc a = transCalc .cos a a ∧ tanCalc a = transCalc .tan a a) ∧
    -- the arctangent of a by b
    (zero a → atanCalc rc a b = if b.neg then piMultiple 0x4000 0xC90FDAA22168C234 else .exact (F80.zero a.neg)) ∧
    (a.FiniteNonzero → zero b → atanCalc rc a b = piMultiple 0x3FFF 0xC90FDAA22168C234) ∧
    (a.FiniteNonzero → inf b →
      atanCalc rc a b = if b.neg then piMultiple 0x4000 0xC90FDAA22168C234 else .exact (F80.zero a.neg)) ∧
    (a.FiniteNonzero → b.FiniteNonzero → atanCalc rc a b = transCalc .atan2 a b) ∧
    (inf a → b.Finite → atanCalc rc a b = piMultiple 0x3FFF 0xC90FDAA22168C234) ∧
    (inf a → inf b → atanCalc rc a b =
      if b.neg then piMultiple 0x4000 0x96CBE3F9990E91A7 else piMultiple 0x3FFE 0xC90FDAA22168C234) ∧
    -- 2^a - 1
    (zero a → f2xm1Calc a = .exact a) ∧ (a.Finite → a.rat = 1 → f2xm1Calc a = .exact 0x3FFF8000000000000000) ∧
    (a.Finite → a.rat = -1 → f2xm1Calc a = .exact 0xBFFE8000000000000000) ∧
    (a.FiniteNonzero → |a.rat| < 1 → f2xm1Calc a = transCalc .f2xm1 a a) ∧
    (inf a ∨ (a.Finite ∧ 1 < |a.rat|) → f2xm1Calc a = .free) ∧
    -- a times the logarithm of b
    (zero b → yl2xCalc a b =
      if zero a then .invalid else if inf a then .exact (F80.inf !a.neg) else .zeroDivide !a.neg) ∧
    (¬ zero b → b.neg = true → yl2xCalc a b = .invalid) ∧
    (inf b → b.neg = false → yl2xCalc a b = if zero a then .invalid else .exact (F80.inf a.neg)) ∧
    (b.Finite → b.rat = 1 → yl2xCalc a b = if inf a then .invalid else .exact (F80.zero a.neg)) ∧
    (b.Finite → 0 < b.rat → b.rat ≠ 1 → yl2xCalc a b =
      if zero a then .exact (F80.zero (a.neg != below)) else if inf a then .exact (F80.inf (a.neg != below))
      else transCalc .yl2x a b) ∧
    -- a times the logarithm of b + 1
    (¬ inRange → yl2xp1Calc a b = .free) ∧
    (zero b → yl2xp1Calc a b = if inf a then .invalid else .exact (F80.zero differ)) ∧
    (inRange → ¬ zero b → yl2xp1Calc a b =
      if zero a then .exact (F80.zero differ) else if inf a then .exact (F80.inf differ) else transCalc .yl2xp1 a b) ∧
    -- P_TRANS
    (∀ f : TransFn, let z := Config.trans f a.val b.val
      (transCalc f a b).Is ((if z.neg then -1 else 1) * (z.num + 1) / (z.den + 1)))

/-! ### FPU instructions (46, 47, 48) -/

/-- FLD, FILD and FBLD push the value of their operand, exactly; FLD of an extended or a register value copies its bits; a
denormal single or double sets DE, a signalling one sets IE and is quieted, an infinity and a quiet NaN stay; the constants push
the value of their row and set no flag. An empty register sets IE and SF; a full stack sets IE, SF and C1; masked, the indefinite
is pushed. This holds under any exception masks: an unmasked IE or DE pushes nothing, and the interrupt P_FPU_VECTOR is taken if
an unmasked flag is set at the end, pending ones too. What a single or double value is follows from its fields, and so it does for
the memory operands of arithmetic and comparison, which fmtSingle.load, fmtDouble.load and intToF80 read (47_fpu_transfer_arith.md
R570 to R572, 48_fpu_compare_trans_control.md R659 to R665, 46_fpu_model.md R501, R502, R512, R515, R519, R520, R525, R540).
That the operand's own exceptions are not looked at on a full stack is the model's reading (notes/assumptions/20.md). -/
def Obligations.FpuLoadResult : Prop :=
  ∀ (p : Prefixes) (s : State),
    let f := s.fpu
    let c := f.ctl
    let full := !f.isEmpty 7
    let ends (i : Instr) (fdp : Option Nat) (r : FRes F80) : Prop :=
      s.FpuEnds i fdp fun u => u.mem = s.mem ∧ f.GivesPush u.fpu r
    let pushes (i : Instr) (fdp : Option Nat) (r : FRes F80) : Prop :=
      ends i fdp (if full then { exc := 0x41, res := if c.im then some F80.indefinite else none, c1 := true } else r)
    let done (i : Instr) (fdp : Option Nat) (v : F80) : Prop := pushes i fdp { exc := 0, res := some v, c1 := false }
    let loads (i : Instr) (fdp : Option Nat) (o : Opnd) : Prop :=
      pushes i fdp
        (if o.v.cls = .snan then invalidGives c o.v.quiet
          else if o.den then { exc := xDE, res := if c.dm then some o.v else none, c1 := false }
          else { exc := 0, res := some o.v, c1 := false })
    let isInt (v : F80) (i : Int) : Prop := v.Encodes (decide (i < 0)) i
    (∀ v : Nat, fmtSingle.Loads v (fmtSingle.load v) ∧ fmtDouble.Loads v (fmtDouble.load v)) ∧
    (∀ i : Int, -(2 ^ 63) ≤ i → i < 2 ^ 63 → isInt (intToF80 i) i) ∧
    (∀ m : Mem, let a := s.memAddr p m
      (s.Backed a 4 → ∃ o, fmtSingle.Loads (s.bytesAt a 4) o ∧ loads (.fld p (.m32 m)) (some a) o) ∧
      (s.Backed a 8 → ∃ o, fmtDouble.Loads (s.bytesAt a 8) o ∧ loads (.fld p (.m64 m)) (some a) o) ∧
      (s.Backed a 10 → done (.fld p (.m80 m)) (some a) (BitVec.ofNat 80 (s.bytesAt a 10))) ∧
      (s.Backed a 2 → ∃ v, isInt v (BitVec.ofNat 16 (s.bytesAt a 2)).toInt ∧ done (.fild p (.m16 m)) (some a) v) ∧
      (s.Backed a 4 → ∃ v, isInt v (BitVec.ofNat 32 (s.bytesAt a 4)).toInt ∧ done (.fild p (.m32 m)) (some a) v) ∧
      (s.Backed a 8 → ∃ v, isInt v (BitVec.ofNat 64 (s.bytesAt a 8)).toInt ∧ done (.fild p (.m64 m)) (some a) v) ∧
      (s.Backed a 10 → ∃ v : F80,
        (bcdValid 18 (s.bytesAt a 10) = true → v.Finite ∧ v.neg = (s.bytesAt a 10).testBit 79 ∧
          |v.rat| = bcdValue 18 (s.bytesAt a 10)) ∧
        done (.fbld p m) (some a) v)) ∧
    (∀ k : BitVec 3,
      if f.isEmpty k then
        ends (.fld p (.st k)) none
          { exc := 0x41, res := if c.im then some F80.indefinite else none, c1 := c.im && full }
      else done (.fld p (.st k)) none (f.st k)) ∧
    done (.fld1 p) none 0x3FFF8000000000000000 ∧ done (.fldz p) none 0 ∧
    (let away := f.rc = .up
     let near := f.rc = .nearest ∨ f.rc = .up
     done (.fldl2t p) none (if away then 0x4000D49A784BCD1B8AFF else 0x4000D49A784BCD1B8AFE) ∧
     done (.fldl2e p) none (if near then 0x3FFFB8AA3B295C17F0BC else 0x3FFFB8AA3B295C17F0BB) ∧
     done (.fldpi p) none (if near then 0x4000C90FDAA22168C235 else 0x4000C90FDAA22168C234) ∧
     done (.fldlg2 p) none (if near then 0x3FFD9A209A84FBCFF799 else 0x3FFD9A209A84FBCFF798) ∧
     done (.fldln2 p) none (if near then 0x3FFEB17217F7D1CF79AC else 0x3FFEB17217F7D1CF79AB))

/-- A push on a full stack, masked: IE, SF and C1 are set and the real indefinite is pushed, by a load from memory, a load of a
register and a constant alike (46_fpu_model.md R512, R540).
That the operand's own exceptions are not looked at on a full stack is the model's reading (notes/assumptions/20.md). -/
def Obligations.FpuStackOverflow : Prop :=
  ∀ (p : Prefixes) (s : State), s.fpu.Masked → s.fpu.isEmpty 7 = false →
    let done (i : Instr) (fdp : Option Nat) : Prop :=
      ∃ t, exec i s = .next t ∧ s.FpuCommits t i fdp ∧ t.mem = s.mem ∧ s.fpu.Pushed t.fpu 0xFFFFC000000000000000 ∧
        s.fpu.Flagged t.fpu 0x41 true
    done (.fld1 p) none ∧ done (.fldz p) none ∧ done (.fldpi p) none ∧ done (.fldl2t p) none ∧ done (.fldl2e p) none ∧
      done (.fldlg2 p) none ∧ done (.fldln2 p) none ∧ (∀ k, done (.fld p (.st k)) none) ∧
      (∀ m : Mem, let a := s.memAddr p m
        (s.Backed a 4 → done (.fld p (.m32 m)) (some a)) ∧ (s.Backed a 8 → done (.fld p (.m64 m)) (some a)) ∧
        (s.Backed a 10 → done (.fld p (.m80 m)) (some a)) ∧ (s.Backed a 2 → done (.fild p (.m16 m)) (some a)) ∧
        (s.Backed a 4 → done (.fild p (.m32 m)) (some a)) ∧ (s.Backed a 8 → done (.fild p (.m64 m)) (some a)) ∧
        (s.Backed a 10 → done (.fbld p m) (some a)))

/-- FST, FSTP, FIST, FISTP and FBSTP store ST(0) in the format of their operand and then perhaps pop. A finite value is delivered
to a single or double as R509 says; an infinity stores as one, a NaN with its top fraction bits and quiet, an unsupported value
as the real indefinite. An integer or BCD store holds the integer that RC selects, with PE and C1, or the indefinite with IE
where there is none in range. FSTP of an extended and a register destination copy the bits. An empty ST(0) stores the
indefinite of the format with IE and SF. This holds under any exception masks: an unmasked stack fault, IE, OE or UE leaves memory
and the stack as they are, an unmasked PE stores and pops, and the interrupt P_FPU_VECTOR is taken if an unmasked flag is set at
the end, pending ones too (47_fpu_transfer_arith.md R573 to R577, 46_fpu_model.md R504, R507, R509, R512, R519, R520, R522 to R524).
C1 clear for a store that R509 and R522 do not round, and C1 of an unmasked overflow or underflow, are the model's reading
(notes/assumptions/17.md, 18.md). -/
def Obligations.FpuStoreResult : Prop :=
  ∀ (p : Prefixes) (s : State),
    let f := s.fpu
    let c := f.ctl
    let x := f.st 0
    let stores (i : Instr) (m : Mem) (n indefinite : Nat) (converts : FRes Nat → Prop) (pops : Bool) : Prop :=
      s.Backed (s.memAddr p m) n →
        ∃ r, (if f.isEmpty 0 then r = stackFault c indefinite else converts r) ∧
          s.FpuEnds i (some (s.memAddr p m)) fun u =>
            f.Flagged u.fpu r.exc r.c1 ∧
              match r.res with
              | none => u.mem = s.mem ∧ f.KeepsStack u.fpu
              | some v => s.Stores u (s.memAddr p m) n v ∧ f.Dropped u.fpu (if pops then 1 else 0)
    let single (i : Instr) (m : Mem) (pops : Bool) : Prop :=
      stores i m 4 0xFFC00000 (fmtSingle.Converts 0xFFC00000 c x) pops
    let double (i : Instr) (m : Mem) (pops : Bool) : Prop :=
      stores i m 8 0xFFF8000000000000 (fmtDouble.Converts 0xFFF8000000000000 c x) pops
    let int (i : Instr) (m : Mem) (n : Nat) (pops : Bool) : Prop :=
      stores i m n (2 ^ (8 * n - 1)) (ConvertsInt n c x) pops
    let copies (i : Instr) (k : BitVec 3) (pops : Bool) : Prop :=
      s.FpuEnds i none fun u => u.mem = s.mem ∧
        f.Gives u.fpu (if f.isEmpty 0 then stackFault c F80.indefinite else { exc := 0, res := some x, c1 := false }) k pops
    (∀ m : Mem,
      single (.fst p (.m32 m)) m false ∧ double (.fst p (.m64 m)) m false ∧
      single (.fstp p (.m32 m)) m true ∧ double (.fstp p (.m64 m)) m true ∧
      stores (.fstp p (.m80 m)) m 10 0xFFFFC000000000000000
        (fun r => r = { exc := 0, res := some x.toNat, c1 := false }) true ∧
      int (.fist p (.m16 m)) m 2 false ∧ int (.fist p (.m32 m)) m 4 false ∧
      int (.fistp p (.m16 m)) m 2 true ∧ int (.fistp p (.m32 m)) m 4 true ∧ int (.fistp p (.m64 m)) m 8 true ∧
      stores (.fbstp p m) m 10 0xFFFFC000000000000000 (ConvertsBcd c x) true) ∧
    (∀ k : BitVec 3, copies (.fst p (.st k)) k false ∧ copies (.fstp p (.st k)) k true)

/-- With every exception masked, the six arithmetic operations in each of their operand forms: the destination takes the result of
the operation on the operands in the order of the mnemonic, rounded once at the precision of PC, with the flags and C1 of that
result; the P forms then pop. An empty operand gives the real indefinite with IE and SF (47_fpu_transfer_arith.md R579 to R596,
46_fpu_model.md R508, R512, R518).
That C1 is clear for a result R509 does not round, that an unsupported operand is looked at before a signalling NaN, and that a
zero divide looks at no denormal, are the model's reading (notes/assumptions/17.md, 21.md, 44.md). -/
def Obligations.FpuArithResult : Prop :=
  ∀ (p : Prefixes) (s : State), s.fpu.Masked →
    let f := s.fpu
    let result (op : FOp) (a b : Opnd) (empty : Bool) : FRes F80 :=
      if empty then underflowResult F80.indefinite else arith2 f.ctl s.drawn (f.prec s.par) (op f.rc) a b
    let inSt (i : Instr) (op : FOp) (dst src : BitVec 3) (pops : Bool) : Prop :=
      ∃ t, exec i s = .next t ∧ s.FpuCommits t i none ∧ t.mem = s.mem ∧
        f.Takes t.fpu (result op (.reg (f.st dst)) (.reg (f.st src)) (f.isEmpty dst || f.isEmpty src)) dst pops
    let inMem (i : Instr) (op : FOp) (m : Mem) (n : Nat) (load : Nat → Opnd) : Prop :=
      s.Backed (s.memAddr p m) n →
        ∃ t, exec i s = .next t ∧ s.FpuCommits t i (some (s.memAddr p m)) ∧ t.mem = s.mem ∧
          f.Takes t.fpu (result op (.reg (f.st 0)) (load (s.bytesAt (s.memAddr p m) n)) (f.isEmpty 0)) 0 false
    let rev (op : FOp) : FOp := fun rc a b => op rc b a
    let all (op : FOp) (plain : FArith → Instr) (pop : BitVec 3 → Instr) (int : FInt → Instr) : Prop :=
      (∀ k : BitVec 3, inSt (plain (.st0 k)) op 0 k false ∧ inSt (plain (.sti k)) op k 0 false ∧
        inSt (pop k) op k 0 true) ∧
      (∀ m : Mem, inMem (plain (.m32 m)) op m 4 fmtSingle.load ∧ inMem (plain (.m64 m)) op m 8 fmtDouble.load ∧
        inMem (int (.m16 m)) op m 2 (fun v => .reg (intToF80 (BitVec.ofNat 16 v).toInt)) ∧
        inMem (int (.m32 m)) op m 4 (fun v => .reg (intToF80 (BitVec.ofNat 32 v).toInt)))
    all addCalc (.fadd p) (.faddp p) (.fiadd p) ∧ all subCalc (.fsub p) (.fsubp p) (.fisub p) ∧
    all (rev subCalc) (.fsubr p) (.fsubrp p) (.fisubr p) ∧ all mulCalc (.fmul p) (.fmulp p) (.fimul p) ∧
    all divCalc (.fdiv p) (.fdivp p) (.fidiv p) ∧ all (rev divCalc) (.fdivr p) (.fdivrp p) (.fidivr p)

/-- With every exception masked, FSQRT, FABS, FCHS, FRNDINT and FSCALE replace ST(0); FXCH exchanges two registers; FXTRACT splits
ST(0) into exponent and significand. FRNDINT of a finite value is the integer that RC selects, with the operand's sign, PE and C1.
An empty operand gives the indefinite with IE and SF; FXTRACT of ±0 sets ZE and gives -∞ and ±0, of an infinity +∞ and itself, of
a NaN that NaN twice (47_fpu_transfer_arith.md R578, R597 to R602, 46_fpu_model.md R513, R514, R522, R546).
Whether FRNDINT of a denormal sets DE is left open, one way for every FRNDINT (notes/assumptions/22.md). C1 clear for a result
R509 does not round, that an unsupported operand is looked at before a signalling NaN, and the registers that FXCH leaves
nonempty, are the model's reading (notes/assumptions/17.md, 21.md, 38.md), and so is the second result of FXTRACT of an
unsupported operand (32.md). -/
def Obligations.FpuOneOperandResult : Prop :=
  ∀ (p : Prefixes) (s : State), s.fpu.Masked →
    let f := s.fpu
    let x := f.st 0
    let commits (i : Instr) (t : State) : Prop := exec i s = .next t ∧ s.FpuCommits t i none ∧ t.mem = s.mem
    let done (i : Instr) (empty : Bool) (r : FRes F80) : Prop :=
      ∃ t, commits i t ∧ f.Takes t.fpu (if empty then underflowResult F80.indefinite else r) 0 false
    done (.fsqrt p) (f.isEmpty 0) (arith1 f.ctl s.drawn (f.prec s.par) sqrtCalc x) ∧
    done (.fabs p) (f.isEmpty 0) { exc := 0, res := some (F80.mk false x.exp x.sig), c1 := false } ∧
    done (.fchs p) (f.isEmpty 0) { exc := 0, res := some (F80.mk (!x.neg) x.exp x.sig), c1 := false } ∧
    done (.fscale p) (f.isEmpty 0 || f.isEmpty 1)
      (arith2 f.ctl s.drawn 64 scaleCalc (.reg x) (.reg (f.st 1))) ∧
    (∃ t r, commits (.frndint p) t ∧ f.Takes t.fpu r 0 false ∧
      if f.isEmpty 0 then r = underflowResult F80.indefinite
      else if x.Finite then
        let i := roundToInt f.rc x.rat
        let de : BitVec 16 := if x.cls = .denormal ∧ Config.frndintDe = true then xDE else 0
        r.exc = peIf (decide ((i : ℚ) ≠ x.rat)) ||| de ∧ r.c1 = decide (|x.rat| < |(i : ℚ)|) ∧
          ∃ v, r.res = some v ∧ v.Encodes x.neg i
      else if x.cls = .infinity then r = { exc := 0, res := some x, c1 := false }
      else NanGives f.ctl x F80.one r) ∧
    (∀ k : BitVec 3,
      let value (j : BitVec 3) : F80 := if f.isEmpty j then 0xFFFFC000000000000000 else f.st j
      ∃ t, commits (.fxch p k) t ∧ f.Flagged t.fpu (if f.isEmpty 0 || f.isEmpty k then 0x41 else 0) false ∧
        f.StackIs t.fpu f.top (Function.update (Function.update f.phReg f.top (value k)) (f.top + k) (value 0))
          (Function.update (Function.update f.phEmpty f.top false) (f.top + k) false)) ∧
    (f.isEmpty 0 = false → f.isEmpty 7 = true →
      ∃ t e g, commits (.fxtract p) t ∧ f.ReplacedPushed t.fpu e g ∧
        match x.cls with
        | .normal | .denormal =>
          let k := Int.log 2 |x.rat|
          f.Flagged t.fpu (if x.cls = .denormal then xDE else 0) false ∧ e.Encodes (decide (k < 0)) k ∧ g.Finite ∧
            g.neg = x.neg ∧ 1 ≤ |g.rat| ∧ |g.rat| < 2 ∧ x.rat = g.rat * 2 ^ k
        | .zero => f.Flagged t.fpu xZE false ∧ e = F80.inf true ∧ g = x
        | .infinity => f.Flagged t.fpu 0 false ∧ e = F80.inf false ∧ g = x
        | .qnan => f.Flagged t.fpu 0 false ∧ e = x ∧ g = x
        | .snan => f.Flagged t.fpu xIE false ∧ e = x.quiet ∧ g = x.quiet
        | .unsupported => f.Flagged t.fpu xIE false ∧ e = F80.indefinite ∧ g = F80.indefinite)

/-- FPREM and FPREM1 with every exception masked. Of two finite nonzero values whose leading bits are less than 64 places apart
the remainder is exact, by the quotient truncated for FPREM and rounded to nearest for FPREM1, C2 is 0, and C0, C3 and C1 are the
quotient's bits 2, 1 and 0; with 64 places or more, C2 is 1 and the multiple of the divisor that R603 names has been taken off; a
zero remainder has the sign of the dividend. A zero dividend, or a finite one with an infinite divisor, stays, with all codes 0.
An infinite dividend or a zero divisor gives the indefinite with IE and C2 0; a NaN or an unsupported operand gives the NaN
result; an empty one the indefinite with IE and SF (47_fpu_transfer_arith.md R603, R604, 46_fpu_model.md R512 to R515).
C1 clear for a result R509 does not round, and that an unsupported operand is looked at before a signalling NaN, are the model's
reading (notes/assumptions/17.md, 21.md). -/
def Obligations.FpuRemainder : Prop :=
  ∀ (p : Prefixes) (s : State), s.fpu.Masked →
    let f := s.fpu
    let a := f.st 0
    let b := f.st 1
    let den : BitVec 16 := if a.cls = .denormal ∨ b.cls = .denormal then xDE else 0
    let apart : Int := Int.log 2 |a.rat| - Int.log 2 |b.rat|
    let done (i : Instr) (near : Bool) : Prop :=
      ∃ t v, exec i s = .next t ∧ s.FpuCommits t i none ∧ t.mem = s.mem ∧ f.Replaced t.fpu 0 v ∧
        if f.isEmpty 0 ∨ f.isEmpty 1 then v = F80.indefinite ∧ f.Flagged t.fpu 0x41 false
        else if ¬ (a.Numeric ∧ b.Numeric) then
          (∃ r, r.res = some v ∧ NanGives f.ctl a b r) ∧ f.Flagged t.fpu (nanExc a b) false
        else if a.cls = .infinity ∨ b.cls = .zero then
          v = F80.indefinite ∧ f.Flagged t.fpu xIE false ∧ t.fpu.codes.c2 = false
        else if a.cls = .zero ∨ b.cls = .infinity then
          v = a ∧ f.Flagged t.fpu den false ∧ t.fpu.codes = { c3 := false, c2 := false, c0 := false }
        else
          v.Finite ∧ (v.rat = 0 → v.neg = a.neg) ∧ t.fpu.sw &&& 0x7F = (f.sw ||| den) &&& 0x7F ∧
          if apart < 64 then
            ∃ q : Int, v.rat = a.rat - b.rat * q ∧
              (if near then 2 * |v.rat| ≤ |b.rat| ∧ (2 * |v.rat| = |b.rat| → q % 2 = 0) else q = truncate (a.rat / b.rat)) ∧
              t.fpu.codes = { c3 := q.natAbs.testBit 1, c2 := false, c0 := q.natAbs.testBit 2 } ∧
              t.fpu.status.c1 = q.natAbs.testBit 0
          else
            t.fpu.codes.c2 = true ∧ ∃ n : Int, 32 ≤ n ∧ n ≤ 63 ∧
              v.rat = a.rat - b.rat * truncate (a.rat / b.rat / 2 ^ (apart - n)) * 2 ^ (apart - n)
    done (.fprem p) false ∧ done (.fprem1 p) true

/-- The comparisons set C3, C2 and C0 to 000 for greater, 001 for less, 100 for equal and 111 for unordered, clear C1, and pop
none, one or two registers; the ordered ones set IE on any NaN, FUCOM, FUCOMP and FUCOMPP only on a signalling one. FTST
compares with +0. FXAM tells the class of ST(0), empty or not, and its sign in C1, and raises nothing. This holds under any
exception masks: a comparison with an unmasked stack fault, IE or DE writes no code but C1 and pops nothing, and the interrupt
P_FPU_VECTOR is taken if an unmasked flag is set at the end, pending ones too (48_fpu_compare_trans_control.md R640 to R650,
46_fpu_model.md R512, R515, R519, R520). -/
def Obligations.FpuCompareResult : Prop :=
  ∀ (p : Prefixes) (s : State),
    let f := s.fpu
    let relation (ordered : Bool) (a b : Opnd) (empty : Bool) : BitVec 16 × CmpCodes :=
      if empty then (0x41, ⟨true, true, true⟩)
      else if a.v.cls = .unsupported ∨ b.v.cls = .unsupported ∨ a.v.cls = .snan ∨ b.v.cls = .snan ∨
        (ordered = true ∧ (a.v.cls = .qnan ∨ b.v.cls = .qnan)) then (xIE, ⟨true, true, true⟩)
      else if a.v.cls = .qnan ∨ b.v.cls = .qnan then (0, ⟨true, true, true⟩)
      else (if a.isDenormal || b.isDenormal then xDE else 0,
        match fCompare a.v b.v with
        | .gt => ⟨false, false, false⟩
        | .lt => ⟨false, false, true⟩
        | .eq => ⟨true, false, false⟩)
    let done (i : Instr) (fdp : Option Nat) (r : BitVec 16 × CmpCodes) (pops : Nat) : Prop :=
      s.FpuEnds i fdp fun u => u.mem = s.mem ∧ f.Flagged u.fpu r.1 false ∧
        if f.Unmasked r.1 then u.fpu.codes = f.codes ∧ f.KeepsStack u.fpu
        else u.fpu.codes = r.2 ∧ f.Dropped u.fpu pops
    let withSt (ordered : Bool) (k : BitVec 3) : BitVec 16 × CmpCodes :=
      relation ordered (.reg (f.st 0)) (.reg (f.st k)) (f.isEmpty 0 || f.isEmpty k)
    (∀ k : BitVec 3, done (.fcom p (.st k)) none (withSt true k) 0 ∧ done (.fcomp p (.st k)) none (withSt true k) 1 ∧
      done (.fucom p k) none (withSt false k) 0 ∧ done (.fucomp p k) none (withSt false k) 1) ∧
    done (.fcompp p) none (withSt true 1) 2 ∧ done (.fucompp p) none (withSt false 1) 2 ∧
    done (.ftst p) none (relation true (.reg (f.st 0)) (.reg 0) (f.isEmpty 0)) 0 ∧
    (∀ m : Mem, let a := s.memAddr p m
      let withMem (o : Opnd) : BitVec 16 × CmpCodes := relation true (.reg (f.st 0)) o (f.isEmpty 0)
      (s.Backed a 4 → done (.fcom p (.m32 m)) (some a) (withMem (fmtSingle.load (s.bytesAt a 4))) 0 ∧
        done (.fcomp p (.m32 m)) (some a) (withMem (fmtSingle.load (s.bytesAt a 4))) 1) ∧
      (s.Backed a 8 → done (.fcom p (.m64 m)) (some a) (withMem (fmtDouble.load (s.bytesAt a 8))) 0 ∧
        done (.fcomp p (.m64 m)) (some a) (withMem (fmtDouble.load (s.bytesAt a 8))) 1) ∧
      (s.Backed a 2 →
        let o : Opnd := .reg (intToF80 (BitVec.ofNat 16 (s.bytesAt a 2)).toInt)
        done (.ficom p (.m16 m)) (some a) (withMem o) 0 ∧ done (.ficomp p (.m16 m)) (some a) (withMem o) 1) ∧
      (s.Backed a 4 →
        let o : Opnd := .reg (intToF80 (BitVec.ofNat 32 (s.bytesAt a 4)).toInt)
        done (.ficom p (.m32 m)) (some a) (withMem o) 0 ∧ done (.ficomp p (.m32 m)) (some a) (withMem o) 1)) ∧
    s.FpuEnds (.fxam p) none (fun u => u.mem = s.mem ∧ f.KeepsStack u.fpu ∧ f.Flagged u.fpu 0 (f.st 0).neg ∧
      u.fpu.codes = if f.isEmpty 0 then ⟨true, false, true⟩ else
        match (f.st 0).cls with
        | .unsupported => ⟨false, false, false⟩
        | .qnan | .snan => ⟨false, false, true⟩
        | .normal => ⟨false, true, false⟩
        | .infinity => ⟨false, true, true⟩
        | .zero => ⟨true, false, false⟩
        | .denormal => ⟨true, true, false⟩)

/-- The transcendental instructions with every exception masked. FSIN, FCOS, FSINCOS and FPTAN of a value of magnitude 2^63 or
more set C2 and change nothing else of the FPU's data; else ST(0) takes the rounded result, FSINCOS pushing the cosine and FPTAN
1.0 beside it, and C2 is 0 but for a NaN or an unsupported operand; FPATAN, FYL2X and FYL2XP1 put their result into ST(1) and pop;
F2XM1 replaces ST(0). An empty operand gives the indefinite with IE and SF; for FSINCOS, FPTAN and FXTRACT so does a full stack,
with C1 set, and both results are the indefinite. The real value of a result is whatever P_TRANS gives
(48_fpu_compare_trans_control.md R651 to R658, 46_fpu_model.md R512 to R514, R529, R546).
That only C2 changes beyond the range, C1 and the flags of an operand outside the domain, that an unsupported operand is looked at
before a signalling NaN, that a zero divide looks at no denormal, and C1 where both stack faults meet, are the model's reading
(notes/assumptions/17.md, 21.md, 23.md, 35.md, 44.md, 45.md), and so is the second result of an unsupported operand (32.md). C2 of
a NaN, an unsupported operand and a stack fault is left open (notes/assumptions/34.md). -/
def Obligations.FpuTranscendentalResult : Prop :=
  ∀ (p : Prefixes) (s : State), s.fpu.Masked →
    let f := s.fpu
    let x := f.st 0
    let one (op : F80 → Calc) : FRes F80 :=
      if f.isEmpty 0 then underflowResult F80.indefinite else arith1 f.ctl s.drawn 64 op x
    let two (op : F80 → F80 → Calc) : FRes F80 :=
      if f.isEmpty 0 || f.isEmpty 1 then underflowResult F80.indefinite
      else arith2 f.ctl s.drawn 64 op (.reg (f.st 1)) (.reg x)
    let commits (i : Instr) (t : State) : Prop := exec i s = .next t ∧ s.FpuCommits t i none ∧ t.mem = s.mem
    let beyond (i : Instr) : Prop :=
      ∃ t, commits i t ∧ f.KeepsStack t.fpu ∧ f.Flagged t.fpu 0 f.status.c1 ∧ t.fpu.codes.c2 = true
    let takes (i : Instr) (op : F80 → Calc) : Prop :=
      ∃ t, commits i t ∧ f.Takes t.fpu (one op) 0 false ∧ (f.isEmpty 0 = false → x.Numeric → t.fpu.codes.c2 = false)
    let pair (i : Instr) (u v : F80) (exc : BitVec 16) (c1 : Bool) : Prop :=
      ∃ t, commits i t ∧ f.ReplacedPushed t.fpu u v ∧ f.Flagged t.fpu exc c1 ∧
        (f.isEmpty 0 = false → f.isEmpty 7 = true → x.Numeric → t.fpu.codes.c2 = false)
    let isHuge : Prop := f.isEmpty 0 = false ∧ x.Finite ∧ 2 ^ 63 ≤ |x.rat|
    let cosine := arith1 f.ctl (drawSecond s.drawn) 64 cosCalc x
    (isHuge → beyond (.fsin p) ∧ beyond (.fcos p)) ∧
    (isHuge → f.isEmpty 7 = true → beyond (.fsincos p) ∧ beyond (.fptan p)) ∧
    (¬ isHuge → takes (.fsin p) sinCalc ∧ takes (.fcos p) cosCalc) ∧
    (f.isEmpty 0 = true ∨ f.isEmpty 7 = false → ∀ i ∈ [Instr.fsincos p, .fptan p, .fxtract p],
      ∃ t, commits i t ∧ f.ReplacedPushed t.fpu F80.indefinite F80.indefinite ∧
        f.Flagged t.fpu 0x41 (decide (f.isEmpty 7 = false))) ∧
    (¬ isHuge → f.isEmpty 0 = false → f.isEmpty 7 = true →
      (x.Finite →
        (∃ u v, (one sinCalc).res = some u ∧ cosine.res = some v ∧
          pair (.fsincos p) u v ((one sinCalc).exc ||| cosine.exc) cosine.c1) ∧
        (∃ u, (one tanCalc).res = some u ∧ pair (.fptan p) u F80.one (one tanCalc).exc (one tanCalc).c1)) ∧
      (¬ x.Finite → ∃ r v, r.res = some v ∧
        (if x.cls = .infinity then r = invalidGives f.ctl F80.indefinite else NanGives f.ctl x F80.one r) ∧
        pair (.fsincos p) v v r.exc false ∧ pair (.fptan p) v v r.exc false)) ∧
    (∃ t, commits (.f2xm1 p) t ∧ f.Takes t.fpu (one f2xm1Calc) 0 false) ∧
    (∃ t, commits (.fpatan p) t ∧ f.Takes t.fpu (two (atanCalc f.rc)) 1 true) ∧
    (∃ t, commits (.fyl2x p) t ∧ f.Takes t.fpu (two yl2xCalc) 1 true) ∧
    (∃ t, commits (.fyl2xp1 p) t ∧ f.Takes t.fpu (two yl2xp1Calc) 1 true)

/-- The FPU control instructions on words, environments and save areas: FLDCW, FNSTCW, FNSTSW, FNCLEX, FNINIT, FNSTENV, FNSAVE,
FLDENV and FRSTOR. The stored fields stand where the layout of the operand size says; FNSTENV then masks every exception and
FNSAVE initializes; FRSTOR loads the registers from the loaded TOP on (48_fpu_compare_trans_control.md R680 to R689,
10_state.md R69).
That FNSTCW and FNSTSW leave ES and B as they are is the model's choice (notes/assumptions/26.md). -/
def Obligations.FpuControlResult : Prop :=
  ∀ (p : Prefixes) (s : State),
    let f := s.fpu
    let n := if p.os32 then 28 else 14
    let c := if p.os32 then 4 else 2
    let commits (t : State) : Prop :=
      t = { s with fpu := t.fpu, mem := t.mem, draws := t.draws, ip := s.ctx.nextIp, shadow := false }
    let initial : Fpu := { regs := f.regs, cw := 0x037F, status := FpuStatus.clear, empty := 0xFF, fip := 0, fop := 0, fdp := 0 }
    let image (t : State) (a : Nat) : Prop :=
      t.Holds a 2 f.cw.toNat ∧ t.Holds (a + c) 2 f.sw.toNat ∧ t.Holds (a + 2 * c) 2 f.tw ∧
      t.Holds (a + 3 * c) 2 f.fip.toNat ∧ t.Holds (a + 5 * c) 2 f.fdp.toNat ∧
      (if p.os32 then t.Holds (a + 16) 4 (f.fop.toNat + 4096 * (f.fip.toNat / 65536)) ∧
          t.Holds (a + 24) 4 (4096 * (f.fdp.toNat / 65536))
        else t.Holds (a + 8) 2 (f.fop.toNat + 4096 * (f.fip.toNat / 65536 % 16)) ∧
          t.Holds (a + 12) 2 (4096 * (f.fdp.toNat / 65536 % 16)))
    let loads (g : Fpu) (a : Nat) : Prop :=
      g.cw = forceCw (BitVec.ofNat 16 (s.bytesAt a 2)) ∧
      g.sw &&& 0x7F7F = BitVec.ofNat 16 (s.bytesAt (a + c) 2) &&& 0x7F7F ∧ g.Summed ∧
      (∀ k : BitVec 3, g.phEmpty k = decide (s.bytesAt (a + 2 * c) 2 / 4 ^ k.toNat % 4 = 3)) ∧
      (if p.os32 then
        g.fip.toNat = s.bytesAt (a + 12) 2 + 65536 * (s.bytesAt (a + 16) 4 / 4096 % 65536) ∧
        g.fop.toNat = s.bytesAt (a + 16) 4 % 2048 ∧
        g.fdp.toNat = s.bytesAt (a + 20) 2 + 65536 * (s.bytesAt (a + 24) 4 / 4096 % 65536)
      else
        g.fip.toNat = s.bytesAt (a + 6) 2 + 65536 * (s.bytesAt (a + 8) 2 / 4096) ∧
        g.fop.toNat = s.bytesAt (a + 8) 2 % 2048 ∧
        g.fdp.toNat = s.bytesAt (a + 10) 2 + 65536 * (s.bytesAt (a + 12) 2 / 4096))
    (∃ t, exec (.fnclex p) s = .next t ∧ commits t ∧ t.mem = s.mem ∧ t.fpu.sw = f.sw &&& 0x7F00 ∧
      t.fpu = { f with status := t.fpu.status }) ∧
    (∃ t, exec (.fninit p) s = .next t ∧ commits t ∧ t.mem = s.mem ∧ t.fpu = initial) ∧
    (∃ t, exec (.fnstsw p .ax) s = .next t ∧ s.Commits t ∧ t.flags = s.flags ∧ t.mem = s.mem ∧
      t.gpr = (s.setR16 rAX f.sw).gpr) ∧
    (∀ m : Mem, let a := s.memAddr p m
      (s.Backed a 2 →
        (∃ t, exec (.fldcw p m) s = .next t ∧ commits t ∧ t.mem = s.mem ∧ t.fpu.Summed ∧
          t.fpu = { f with cw := forceCw (BitVec.ofNat 16 (s.bytesAt a 2)), status := t.fpu.status } ∧
          t.fpu.sw &&& 0x7F7F = f.sw &&& 0x7F7F) ∧
        (∃ t, exec (.fnstcw p m) s = .next t ∧ commits t ∧ t.fpu = f ∧ s.Stores t a 2 f.cw.toNat) ∧
        (∃ t, exec (.fnstsw p (.m16 m)) s = .next t ∧ commits t ∧ t.fpu = f ∧ s.Stores t a 2 f.sw.toNat)) ∧
      (s.Backed a n →
        (∃ t, exec (.fnstenv p m) s = .next t ∧ commits t ∧ image t a ∧ s.SameOutside t a n ∧ t.fpu.Summed ∧
          t.fpu = { f with cw := f.cw ||| 0x3F, status := t.fpu.status } ∧ t.fpu.sw &&& 0x7F7F = f.sw &&& 0x7F7F) ∧
        (∃ t, exec (.fldenv p m) s = .next t ∧ commits t ∧ t.mem = s.mem ∧ t.fpu.regs = f.regs ∧ loads t.fpu a)) ∧
      (s.Backed a (n + 80) →
        (∃ t, exec (.fnsave p m) s = .next t ∧ commits t ∧ image t a ∧ s.SameOutside t a (n + 80) ∧
          (∀ k : BitVec 3, t.Holds (a + n + 10 * k.toNat) 10 (f.st k).toNat) ∧ t.fpu = initial) ∧
        (∃ t, exec (.frstor p m) s = .next t ∧ commits t ∧ t.mem = s.mem ∧ loads t.fpu a ∧
          ∀ k : BitVec 3, t.fpu.st k = BitVec.ofNat 80 (s.bytesAt (a + n + 10 * k.toNat) 10))))

/-- FINCSTP and FDECSTP move TOP and clear C1 with no register changed; FFREE marks ST(i) empty; FNOP changes no register; each then
takes the interrupt P_FPU_VECTOR if an unmasked exception is pending. FENI, FDISI and FSETPM do nothing but advance IP
(48_fpu_compare_trans_control.md R690 to R694, R696, 46_fpu_model.md R520). -/
def Obligations.FpuStackControl : Prop :=
  ∀ (p : Prefixes) (s : State),
    let f := s.fpu
    let ends (i : Instr) (P : Fpu → Prop) : Prop := s.FpuEnds i none fun u => u.mem = s.mem ∧ P u.fpu
    ends (.fincstp p) (fun g => f.Flagged g 0 false ∧ f.StackIs g (f.top + 1) f.phReg f.phEmpty) ∧
    ends (.fdecstp p) (fun g => f.Flagged g 0 false ∧ f.StackIs g (f.top - 1) f.phReg f.phEmpty) ∧
    (∀ k : BitVec 3, ends (.ffree p k) fun g => g.sw &&& 0x7F = f.sw &&& 0x7F ∧
      f.StackIs g f.top f.phReg (Function.update f.phEmpty (f.top + k) true)) ∧
    ends (.fnop p) (fun g => g.sw &&& 0x7F = f.sw &&& 0x7F ∧ f.KeepsStack g) ∧
    exec (.feni p) s = .next s.commit ∧ exec (.fdisi p) s = .next s.commit ∧ exec (.fsetpm p) s = .next s.commit

/-- The FPU computations under any exception masks: the flags and C1 are those of the result, an operation stopped by an unmasked
exception writes and pops nothing, one that delivers (OE, UE, PE, and all that is masked) writes and pops, and the instruction
ends by taking the interrupt P_FPU_VECTOR as a trap, which returns past it, if an unmasked flag is then set, a pending one too. It is
stated for the six arithmetic operations in each of their operand forms, FSQRT, FSCALE, FABS, FCHS, FXCH, F2XM1, FSIN and FCOS,
FPATAN, FYL2X and FYL2XP1 (the others are in FpuUnmaskedRoundRemainderPair), on operands that are there or empty. FSIN and FCOS of a
magnitude of 2^63 or more set C2 and change nothing else of the FPU's data; of every other number and infinity they clear C2,
stopped or not (46_fpu_model.md R511 to R513, R515, R516, R519, R520,
48_fpu_compare_trans_control.md R651, R652, 60_exceptions.md R743).
C1 clear for a result R509 does not round, C1 of an unmasked overflow or underflow, that an unsupported operand is looked at before a
signalling NaN, that only C2 changes beyond the range, the registers that FXCH leaves nonempty, and that a zero divide looks at no
denormal are the model's reading (notes/assumptions/17.md, 18.md, 21.md, 23.md, 38.md, 44.md). -/
def Obligations.FpuUnmaskedArithmetic : Prop :=
  ∀ (p : Prefixes) (s : State),
    let f := s.fpu
    let x := f.st 0
    let takes (i : Instr) (fdp : Option Nat) (r : FRes F80) (k : BitVec 3) (pops : Bool) : Prop :=
      s.FpuEnds i fdp fun u => u.mem = s.mem ∧ f.Gives u.fpu r k pops
    let result (prec : Nat) (op : FOp) (a b : Opnd) (empty : Bool) : FRes F80 :=
      if empty then stackFault f.ctl F80.indefinite else arith2 f.ctl s.drawn prec (op f.rc) a b
    let inSt (i : Instr) (op : FOp) (dst src : BitVec 3) (pops : Bool) : Prop :=
      takes i none (result (f.prec s.par) op (.reg (f.st dst)) (.reg (f.st src)) (f.isEmpty dst || f.isEmpty src)) dst pops
    let inMem (i : Instr) (op : FOp) (m : Mem) (n : Nat) (load : Nat → Opnd) : Prop :=
      s.Backed (s.memAddr p m) n → takes i (some (s.memAddr p m))
        (result (f.prec s.par) op (.reg x) (load (s.bytesAt (s.memAddr p m) n)) (f.isEmpty 0)) 0 false
    let rev (op : FOp) : FOp := fun rc a b => op rc b a
    let all (op : FOp) (plain : FArith → Instr) (pop : BitVec 3 → Instr) (int : FInt → Instr) : Prop :=
      (∀ k : BitVec 3, inSt (plain (.st0 k)) op 0 k false ∧ inSt (plain (.sti k)) op k 0 false ∧
        inSt (pop k) op k 0 true) ∧
      (∀ m : Mem, inMem (plain (.m32 m)) op m 4 fmtSingle.load ∧ inMem (plain (.m64 m)) op m 8 fmtDouble.load ∧
        inMem (int (.m16 m)) op m 2 (fun v => .reg (intToF80 (BitVec.ofNat 16 v).toInt)) ∧
        inMem (int (.m32 m)) op m 4 (fun v => .reg (intToF80 (BitVec.ofNat 32 v).toInt)))
    let one (i : Instr) (prec : Nat) (op : F80 → Calc) : Prop :=
      takes i none (if f.isEmpty 0 then stackFault f.ctl F80.indefinite else arith1 f.ctl s.drawn prec op x) 0 false
    let two (i : Instr) (op : F80 → F80 → Calc) : Prop :=
      takes i none (result 64 (fun _ => op) (.reg (f.st 1)) (.reg x) (f.isEmpty 0 || f.isEmpty 1)) 1 true
    let isHuge : Prop := f.isEmpty 0 = false ∧ x.Finite ∧ 2 ^ 63 ≤ |x.rat|
    let beyond (i : Instr) : Prop :=
      s.FpuEnds i none fun u =>
        u.mem = s.mem ∧ f.Flagged u.fpu 0 f.status.c1 ∧ f.KeepsStack u.fpu ∧ u.fpu.codes.c2 = true
    let sine (i : Instr) (op : F80 → Calc) : Prop :=
      s.FpuEnds i none fun u => u.mem = s.mem ∧
        f.Gives u.fpu (if f.isEmpty 0 then stackFault f.ctl F80.indefinite else arith1 f.ctl s.drawn 64 op x) 0 false ∧
        (f.isEmpty 0 = false → x.Numeric → u.fpu.codes.c2 = false)
    let bits (i : Instr) (v : F80) : Prop :=
      takes i none
        (if f.isEmpty 0 then stackFault f.ctl F80.indefinite else { exc := 0, res := some v, c1 := false }) 0 false
    all addCalc (.fadd p) (.faddp p) (.fiadd p) ∧ all subCalc (.fsub p) (.fsubp p) (.fisub p) ∧
    all (rev subCalc) (.fsubr p) (.fsubrp p) (.fisubr p) ∧ all mulCalc (.fmul p) (.fmulp p) (.fimul p) ∧
    all divCalc (.fdiv p) (.fdivp p) (.fidiv p) ∧ all (rev divCalc) (.fdivr p) (.fdivrp p) (.fidivr p) ∧
    one (.fsqrt p) (f.prec s.par) sqrtCalc ∧ one (.f2xm1 p) 64 f2xm1Calc ∧
    (if isHuge then beyond (.fsin p) ∧ beyond (.fcos p) else sine (.fsin p) sinCalc ∧ sine (.fcos p) cosCalc) ∧
    bits (.fabs p) (F80.mk false x.exp x.sig) ∧ bits (.fchs p) (F80.mk (!x.neg) x.exp x.sig) ∧
    takes (.fscale p) none (result 64 (fun _ => scaleCalc) (.reg x) (.reg (f.st 1)) (f.isEmpty 0 || f.isEmpty 1)) 0 false ∧
    two (.fpatan p) (atanCalc f.rc) ∧ two (.fyl2x p) yl2xCalc ∧ two (.fyl2xp1 p) yl2xp1Calc ∧
    (∀ k : BitVec 3,
      let empty := f.isEmpty 0 || f.isEmpty k
      let value (j : BitVec 3) : F80 := if f.isEmpty j then F80.indefinite else f.st j
      s.FpuEnds (.fxch p k) none fun u => u.mem = s.mem ∧ f.Flagged u.fpu (if empty then 0x41 else 0) false ∧
        if empty = true ∧ f.im = false then f.KeepsStack u.fpu
        else f.StackIs u.fpu f.top (Function.update (Function.update f.phReg f.top (value k)) (f.top + k) (value 0))
          (Function.update (Function.update f.phEmpty f.top false) (f.top + k) false))

/-- FRNDINT, FXTRACT, FPREM, FPREM1, FSINCOS and FPTAN under any exception masks: what is written and pushed, the flags, C1, and
the interrupt P_FPU_VECTOR if an unmasked flag is then set. An operand that is empty, or for the three that push a full stack, an
invalid operation, a signalling NaN, an unsupported operand, a denormal and FXTRACT's zero write and push nothing where their
exception is raised and unmasked; an unmasked UE delivers the value times 2^24576; an unmasked PE writes
and pushes. Sine, cosine and tangent are the results of FpuDelivery; FSINCOS and FPTAN push only where both results are there,
and clear C2 of every number below 2^63 and every infinity
(46_fpu_model.md R512 to R516, R519, R520, R522, R546, 47_fpu_transfer_arith.md R600, R602 to R604,
48_fpu_compare_trans_control.md R653, R654, 60_exceptions.md R743).
Whether FRNDINT of a denormal raises DE, one way for every FRNDINT, and C2 where no rule writes it, are left open
(notes/assumptions/22.md, 34.md). C1 clear for a result R509 does not round, C1 of an unmasked underflow, that an unsupported operand
is looked at before a signalling NaN, that only C2 changes beyond the range, the second result of an unsupported operand, and C1
where both stack faults meet are the model's reading (notes/assumptions/17.md, 18.md, 21.md, 23.md, 32.md, 45.md). -/
def Obligations.FpuUnmaskedRoundRemainderPair : Prop :=
  ∀ (p : Prefixes) (s : State),
    let f := s.fpu
    let c := f.ctl
    let x := f.st 0
    let y := f.st 1
    let ends (i : Instr) (P : Fpu → Prop) : Prop := s.FpuEnds i none fun u => u.mem = s.mem ∧ P u.fpu
    let gives (g : Fpu) (r : FRes F80) : Prop := f.Gives g r 0 false
    let noRoom : Prop := f.isEmpty 0 = true ∨ f.isEmpty 7 = false
    let pairFault (g : Fpu) : Prop :=
      if c.im then f.Flagged g 0x41 (!f.isEmpty 7) ∧ f.ReplacedPushed g F80.indefinite F80.indefinite
      else f.Flagged g 0x41 (!f.isEmpty 0) ∧ f.KeepsStack g
    let anyDenormal : Prop := x.cls = .denormal ∨ y.cls = .denormal
    let den : BitVec 16 := if anyDenormal then xDE else 0
    let apart : Int := Int.log 2 |x.rat| - Int.log 2 |y.rat|
    let remainder (i : Instr) (near : Bool) : Prop :=
      ends i fun g =>
        if f.isEmpty 0 ∨ f.isEmpty 1 then gives g (stackFault c F80.indefinite)
        else if ¬ (x.Numeric ∧ y.Numeric) then ∃ r, NanGives c x y r ∧ gives g r
        else if x.cls = .infinity ∨ y.cls = .zero then
          gives g (invalidGives c F80.indefinite) ∧ (c.im = true → g.codes.c2 = false)
        else if anyDenormal ∧ c.dm = false then gives g { exc := xDE, res := none, c1 := false }
        else if x.cls = .zero ∨ y.cls = .infinity then
          gives g { exc := den, res := some x, c1 := false } ∧ g.codes = { c3 := false, c2 := false, c0 := false }
        else
          ∃ (v : F80) (k : Int), f.Replaced g 0 v ∧
            let rest : ℚ := x.rat - y.rat * k
            let neg := if rest = 0 then x.neg else decide (rest < 0)
            let tiny : Prop := rest ≠ 0 ∧ |rest| < 1 / 2 ^ 16382 ∧ c.um = false
            v.Encodes neg (if tiny then rest * 2 ^ 24576 else rest) ∧
              g.sw &&& 0x7F = (f.sw ||| den ||| (if tiny then xUE else 0)) &&& 0x7F ∧
              if apart < 64 then
                (if near then 2 * |rest| ≤ |y.rat| ∧ (2 * |rest| = |y.rat| → k % 2 = 0) else k = truncate (x.rat / y.rat)) ∧
                  g.codes = { c3 := k.natAbs.testBit 1, c2 := false, c0 := k.natAbs.testBit 2 } ∧
                  g.status.c1 = k.natAbs.testBit 0
              else
                g.codes.c2 = true ∧ ∃ n : Nat, 32 ≤ n ∧ n ≤ 63 ∧
                  (k : ℚ) = truncate (x.rat / y.rat / 2 ^ (apart - n)) * 2 ^ (apart - n)
    let pair (i : Instr) (op : F80 → Calc) (second : FRes F80) : Prop :=
      ends i fun g =>
        if noRoom then pairFault g
        else if x.Finite ∧ 2 ^ 63 ≤ |x.rat| then f.Flagged g 0 f.status.c1 ∧ f.KeepsStack g ∧ g.codes.c2 = true
        else
          ∃ a b : FRes F80,
            (if x.Finite then a = arith1 c s.drawn 64 op x ∧ b = second
              else b = a ∧ if x.cls = .infinity then a = invalidGives c F80.indefinite else NanGives c x F80.one a) ∧
            f.GivesTwo g a b ∧ (x.Numeric → g.codes.c2 = false)
    let tangent := arith1 c s.drawn 64 tanCalc x
    ends (.frndint p) (fun g => ∃ r, gives g r ∧
      if f.isEmpty 0 then r = stackFault c F80.indefinite
      else if x.cls = .denormal ∧ Config.frndintDe = true ∧ c.dm = false then r = { exc := xDE, res := none, c1 := false }
      else if x.Finite then
        let i := roundToInt c.rc x.rat
        let de : BitVec 16 := if x.cls = .denormal ∧ Config.frndintDe = true then xDE else 0
        r.exc = peIf (decide ((i : ℚ) ≠ x.rat)) ||| de ∧ r.c1 = decide (|x.rat| < |(i : ℚ)|) ∧
          ∃ v, r.res = some v ∧ v.Encodes x.neg i
      else if x.cls = .infinity then r = { exc := 0, res := some x, c1 := false }
      else NanGives c x F80.one r) ∧
    ends (.fxtract p) (fun g =>
      if noRoom then pairFault g
      else
        ∃ (exc : BitVec 16) (e m : F80), f.Flagged g exc false ∧
          (if f.Unmasked exc then f.KeepsStack g else f.ReplacedPushed g e m) ∧
          match x.cls with
          | .normal | .denormal =>
            let k := Int.log 2 |x.rat|
            exc = (if x.cls = .denormal then xDE else 0) ∧ e.Encodes (decide (k < 0)) k ∧ m.Finite ∧ m.neg = x.neg ∧
              1 ≤ |m.rat| ∧ |m.rat| < 2 ∧ x.rat = m.rat * 2 ^ k
          | .zero => exc = xZE ∧ e = F80.inf true ∧ m = x
          | .infinity => exc = 0 ∧ e = F80.inf false ∧ m = x
          | .qnan => exc = 0 ∧ e = x ∧ m = x
          | .snan => exc = xIE ∧ e = x.quiet ∧ m = x.quiet
          | .unsupported => exc = xIE ∧ e = F80.indefinite ∧ m = F80.indefinite) ∧
    remainder (.fprem p) false ∧ remainder (.fprem1 p) true ∧
    pair (.fsincos p) sinCalc (arith1 c (drawSecond s.drawn) 64 cosCalc x) ∧
    pair (.fptan p) tanCalc { tangent with res := tangent.res.map fun _ => F80.one }

/-! ### State, registers and memory (10_state.md, 20_memory.md) -/

/-- The state right after launch: what the spec gives (run state Running, no shadow, the FPU as FNINIT leaves it), and the
invariant (10_state.md R80, R74, 70_reset_and_hazards.md R784).
The empty event log and the validity of the parameters are the model's own (notes/assumptions/8.md, 5.md). The general and
segment registers, IP, FLAGS, R0 to R7 and memory stand at the values the model chose (notes/assumptions/1.md to 4.md) and are
not stated. -/
def Obligations.ResetState : Prop :=
  let s := State.reset
  s.run = .running ∧ s.shadow = false ∧ s.events = [] ∧ s.fpu.cw = 0x037F ∧ s.fpu.sw = 0 ∧ s.fpu.empty = 0xFF ∧
    s.fpu.tw = 0xFFFF ∧ s.fpu.fip = 0 ∧ s.fpu.fdp = 0 ∧ s.fpu.fop = 0 ∧ s.par.Valid ∧ s.Inv

/-- The views of a general register: an 8-bit write changes one byte and a 16-bit write the low half, a read gives what was
written, and no other byte of any register changes (R41 to R43). -/
def Obligations.RegisterViews : Prop :=
  ∀ (s : State) (i j : BitVec 3),
    (∀ v : Byte, (s.setR8 i v).r8 j = (if j = i then v else s.r8 j) ∧
      ((s.setR8 i v).r32 j).extractLsb' 16 16 = (s.r32 j).extractLsb' 16 16) ∧
    (∀ v : Word, (s.setR16 i v).r16 j = (if j = i then v else s.r16 j) ∧
      ((s.setR16 i v).r32 j).extractLsb' 16 16 = (s.r32 j).extractLsb' 16 16) ∧
    (∀ v : DWord, (s.setR32 i v).r32 j = (if j = i then v else s.r32 j)) ∧
    s.r16 i = (s.r32 i).setWidth 16 ∧
    (i.toNat < 4 → (s.r8 i).toNat = (s.r32 i).toNat % 256 ∧ (s.r8 (i + 4)).toNat = (s.r32 i).toNat / 256 % 256)

/-- The FLAGS image: bit 1 is 1, bits 3, 5 and 12 to 15 are 0, and the nine flags stand at bits 0, 2, 4 and 6 to 11; a write of
a 16-bit value takes the nine flags and ignores the other bits (R49, R50). The conditions of Jcc and SETcc: the even codes O,
C, Z, C or Z, S, P, S different from O, and Z or S different from O; the odd codes their negations (R62). LAHF puts the low
byte of the image into AH. SAHF loads SF, ZF, AF, PF and CF from AH and keeps OF, DF, IF and TF (40_data_transfer.md R219,
R220). -/
def Obligations.FlagsImage : Prop :=
  (∀ v : Word, (Flags.ofImage v).image = (v &&& 0x0FD5) ||| 0x0002) ∧ (∀ f : Flags, Flags.ofImage f.image = f) ∧
  (∀ f : Flags, [f.image.getLsbD 0, f.image.getLsbD 2, f.image.getLsbD 4, f.image.getLsbD 6, f.image.getLsbD 7,
      f.image.getLsbD 8, f.image.getLsbD 9, f.image.getLsbD 10, f.image.getLsbD 11] =
    [f.cf, f.pf, f.af, f.zf, f.sf, f.tf, f.ifl, f.df, f.ofl]) ∧
  (∀ (f : Flags) (k : Fin 8),
    let base : Bool :=
      match k.val with
      | 0 => f.ofl
      | 1 => f.cf
      | 2 => f.zf
      | 3 => f.cf || f.zf
      | 4 => f.sf
      | 5 => f.pf
      | 6 => f.sf != f.ofl
      | _ => f.zf || (f.sf != f.ofl)
    f.cond (BitVec.ofNat 4 (2 * k.val)) = base ∧ f.cond (BitVec.ofNat 4 (2 * k.val + 1)) = !base) ∧
  (∀ (p : Prefixes) (s : State),
    (∃ t, exec (.lahf p) s = .next t ∧ s.Commits t ∧ t.flags = s.flags ∧
      s.Writes t p .b8 (.reg rAH) (s.flags.image.extractLsb' 0 8)) ∧
    (∃ t, exec (.sahf p) s = .next t ∧ s.Commits t ∧ t.gpr = s.gpr ∧ t.mem = s.mem ∧
      t.flags = { Flags.ofImage (s.flags.image.extractLsb' 8 8 ++ s.r8 rAH) with
        ofl := s.flags.ofl, df := s.flags.df, ifl := s.flags.ifl, tf := s.flags.tf }))

/-- Memory: a write of n backed bytes keeps the canonical form, is read back modulo 2^(8n), at any address of the ring and with
the bytes in ascending order, and leaves every other byte; nothing but memory changes. An access that reaches an address at
or above P_MEMSIZE halts the run with that address, a write having stored the bytes before it (R100 to R108). -/
def Obligations.MemoryReadBack : Prop :=
  ∀ (s : State) (a n v : Nat), n ≤ 2 ^ 20 →
    (s.Backed a n → ∃ t, s.linWrite a n v = .ok t ∧ t = { s with mem := t.mem } ∧ s.Stores t a n v ∧
      t.linRead a n = .ok (v % 256 ^ n) ∧ (Memory.wf s.mem → Memory.wf t.mem)) ∧
    (∀ k, k < n → s.Backed a k → s.par.memSize ≤ (a + k) % s.par.ring →
      s.linRead a n = .error (s.halt (.addressFault ((a + k) % s.par.ring))) ∧
      ∃ t, s.linWrite a n v = .error (t.halt (.addressFault ((a + k) % s.par.ring))) ∧
        t = { s with mem := t.mem } ∧ s.Stores t a k v)

/-! ### Decode and encode (30_encoding.md) -/

/-- Decode of encode: the bytes of a well-formed instruction, whatever follows them, decode to it, with every operand at every
value its encoding admits. -/
def Obligations.DecodeEncode : Prop :=
  ∀ (i : Instr) (rest : List Byte), WellFormed i → decode (encode i ++ rest) = .ok (i, rest)

/-- Words written out from the encodings of the spec, one or two for each family, decode to the instructions they stand for
(30_encoding.md R158, R159, R161). -/
def Obligations.DecodedWords : Prop :=
  decode [0x89, 0xD8] = .ok (.mov .none (.evGv (.reg 0) 3), []) ∧
  decode [0x66, 0xB8, 0x78, 0x56, 0x34, 0x12] = .ok (.mov ⟨none, true, false, none⟩ (.gvIz 0 0x12345678), []) ∧
  decode [0x83, 0xC0, 0xFF] = .ok (.add .none (.evIbs (.reg 0) 0xFF), []) ∧
  decode [0xF0, 0x01, 0x07] = .ok (.add ⟨none, false, true, none⟩ (.evGv (.mem (.indexed 7)) 0), []) ∧
  decode [0xC1, 0xE0, 0x04] = .ok (.shl .none (.ev (.reg 0)) (.imm 4), []) ∧
  decode [0x0F, 0xBA, 0xE8, 0x03] = .ok (.bts .none (.reg 0) (.imm 3), []) ∧
  decode [0xF2, 0xAE] = .ok (.scasb ⟨none, false, false, some .repne⟩, []) ∧
  decode [0x7C, 0x10] = .ok (.jccShort .none 0xC 0x10, []) ∧
  decode [0x9A, 0x00, 0x00, 0x00, 0x30] = .ok (.callFar .none 0 0x3000, []) ∧
  decode [0xF4] = .ok (.hlt .none, []) ∧
  decode [0xD8, 0xF1] = .ok (.fdiv .none (.st0 1), []) ∧ decode [0xDC, 0xE1] = .ok (.fsubr .none (.sti 1), []) ∧
  decode [0xDE, 0xF9] = .ok (.fdivp .none 1, []) ∧
  decode [0xDB, 0x3E, 0x00, 0x03] = .ok (.fstp .none (.m80 (.direct 0x0300)), []) ∧
  decode [0xD9, 0xFE] = .ok (.fsin .none, []) ∧ decode [0xDF, 0xE0] = .ok (.fnstsw .none .ax, []) ∧
  decode [0x0F, 0x06] = .ok (.system .none 0x06, [])

/-! ### Steps -/

/-- A step runs the instruction at CS:IP: when the bytes there, as far as memory backs them and up to 15, decode to i and no
external interrupt is injected, the step is exec of i from the state whose start_ip, next_ip and start CS are those of i,
followed by the single-step trap that TF at the start asks for (30_encoding.md R142, R162, 20_memory.md R115,
60_exceptions.md R740, R745).
`ctx` is the model's record of the instruction's own names (notes/assumptions/12.md). -/
def Obligations.StepRunsDecoded : Prop :=
  ∀ (s : State) (i : Instr) (rest : List Byte) (n : Nat), s.run = .running → s.injected = none → s.Fetches n →
    decode (s.codeBytes n) = .ok (i, rest) →
      let u : State := { s.boundary with
        ctx := ⟨s.cs, s.ip, s.ip + BitVec.ofNat 16 (n - rest.length), false⟩ }
      step s = match exec i u with
        | .next t => .next (t.singleStep s.flags.tf)
        | .fault r => .fault r
        | .refused r => .refused r

/-- A step that runs no instruction. Bytes that name none, or whose instruction would be longer than 15 bytes, halt the run with
InvalidOpcode and the bytes read, or under P_UD = trap take interrupt 6 as a fault; a feature the core lacks halts with
UnsupportedFeature; an instruction that needs a byte at or above P_MEMSIZE halts with AddressFault at that byte and has no
other effect. An ended run has no step, and a halted core has none that it takes by itself (30_encoding.md R146, R148,
20_memory.md R115, 60_exceptions.md R722, R723, 10_state.md R73, R75).
The named stops of an ended run, and which bytes an instruction that is invalid or unsupported needs, are the model's choice
(notes/assumptions/6.md, 15.md). -/
def Obligations.StepWithoutInstruction : Prop :=
  (∀ (s : State) (n : Nat), s.run = .running → s.injected = none → s.Fetches n →
    let u : State := { s.boundary with ctx := ⟨s.cs, s.ip, s.ip, false⟩ }
    let invalid (read : List Byte) : Host.Outcome State Fault Refusal := match s.par.ud with
      | .halt => .next (u.halt (.invalidOpcode read))
      | .trap => .next (u.dispatch 6 s.ip)
    (∀ rest, decode (s.codeBytes n) = .error (.invalid rest) →
      step s = invalid ((s.codeBytes n).take (n - rest.length))) ∧
    (decode (s.codeBytes n) = .error .needMore →
      (n = 15 → step s = invalid (s.codeBytes n)) ∧
      (n < 15 → step s = .next (u.halt (.addressFault (s.codeAt n))))) ∧
    (∀ f, decode (s.codeBytes n) = .error (.unsupported f) → step s = .next (u.halt (.unsupportedFeature f)))) ∧
  (∀ (s : State) (c : Byte), s.run = .terminated c → step s = .fault (.terminated c)) ∧
  (∀ (s : State) (r : HaltReason) (c i : Word), s.run = .faulted r c i → step s = .fault (.faulted r c i)) ∧
  (∀ s : State, s.run = .halted → s.par.extInt = .never → step s = .fault .haltedForever)

/-- The interrupts at an instruction's end and between instructions. The single-step trap comes when TF was set at the start and
the instruction neither dispatched, nor ended the run, nor set the shadow. An external interrupt is possible only under
P_EXTINT = host with IF = 1 and no shadow, wakes a halted core, and is the dispatch of its vector with the IP at the boundary
(60_exceptions.md R740, R744, R746, 10_state.md R75).
How the host's choice is drawn and the record of the instruction's own names are the model's (notes/assumptions/11.md, 12.md). -/
def Obligations.BoundaryInterrupts : Prop :=
  (∀ (t : State) (tf : Bool),
    (tf = true → t.ctx.dispatched = false → t.run = .running ∨ t.run = .halted → t.shadow = false →
      t.singleStep tf = t.dispatch 1 t.ip) ∧
    (tf = false ∨ t.ctx.dispatched = true ∨ t.shadow = true ∨ (t.run ≠ .running ∧ t.run ≠ .halted) →
      t.singleStep tf = t)) ∧
  (∀ s : State, s.par.extInt = .never ∨ s.flags.ifl = false ∨ s.shadow = true → s.injected = none) ∧
  (∀ s : State, s.run = .running ∨ s.run = .halted →
    match s.injected with
    | none => True
    | some v =>
      step s = .next (({ s with draws := s.draws + 1, ctx := ⟨s.cs, s.ip, s.ip, false⟩ } : State).dispatch v s.ip)) ∧
  (∀ s : State, s.run = .halted → s.par.extInt = .host → s.injected = none →
    step s = .next { s with draws := s.draws + 1 })

/-- Taking an interrupt whose vector-table entry memory backs: a vector of P_INTERCEPT whose entry is the one placed at launch
goes to the host; else an entry of 0000h:0000h halts the run before any push, with the CS:IP of the instruction that raised
the interrupt; else, where memory has no hole, FLAGS, CS and the return offset are pushed in that order, IF and TF are
cleared, and the run goes on at the handler (60_exceptions.md R725 to R729, 10_state.md R72).
That the shadow ends at the guest entry is the model's reading (notes/assumptions/41.md); `ctx` is its record of the
instruction's own names (notes/assumptions/12.md). -/
def Obligations.DispatchResult : Prop :=
  ∀ (s : State) (v : Byte) (ret : Word), s.Backed (4 * v.toNat) 4 →
    let off := BitVec.ofNat 16 (s.bytesAt (4 * v.toNat) 2)
    let seg := BitVec.ofNat 16 (s.bytesAt (4 * v.toNat + 2) 2)
    let u : State := { s with run := .running, ctx := { s.ctx with dispatched := true } }
    (v ∈ s.par.intercept ∧ seg ++ off = s.par.ivtEntry v → s.dispatch v ret = u.hostService v ret) ∧
    (¬ (v ∈ s.par.intercept ∧ seg ++ off = s.par.ivtEntry v) → seg = 0 ∧ off = 0 →
      s.dispatch v ret = { u with run := .faulted (.unhandledInterrupt v) s.ctx.startCs s.ctx.startIp }) ∧
    (s.par.NoHole → ¬ (v ∈ s.par.intercept ∧ seg ++ off = s.par.ivtEntry v) → ¬ (seg = 0 ∧ off = 0) →
      let t := s.dispatch v ret
      t = { u with
        gpr := (s.setR16 rSP (s.r16 rSP - 6)).gpr, mem := t.mem, cs := seg, ip := off, shadow := false
        flags := { s.flags with ifl := false, tf := false } } ∧
      t.Holds (s.slot 2) 2 s.flags.image.toNat ∧ t.Holds (s.slot 4) 2 s.cs.toNat ∧ t.Holds (s.slot 6) 2 ret.toNat ∧
      (∀ b, (∀ k i, 1 ≤ k → k ≤ 3 → i < 2 → b ≠ (s.slot (2 * k) + i) % s.par.ring) → t.peek b = s.peek b))

/-- An AddressFault in a dispatch. Where a byte of the vector's entry is not backed by memory the run halts there with nothing
changed. Where the guest entry is taken and the first of the six bytes of its three pushes that is not backed is byte n, the run
halts there: the bytes before it stay written and SP stays at the slot it had come to, while CS, IP, FLAGS and all else are
unchanged. The record names the instruction that raised the interrupt (60_exceptions.md R754, 10_state.md R78, 20_memory.md R113). -/
def Obligations.DispatchFault : Prop :=
  ∀ (s : State) (v : Byte) (ret : Word),
    let u : State := { s with run := .running, ctx := { s.ctx with dispatched := true } }
    let t := s.dispatch v ret
    let fault (a : Nat) : RunState := .faulted (.addressFault a) s.ctx.startCs s.ctx.startIp
    (∀ n, n < 4 → s.Backed (4 * v.toNat) n → s.par.memSize ≤ 4 * v.toNat + n →
      t = { u with run := fault (4 * v.toNat + n) }) ∧
    (let off := BitVec.ofNat 16 (s.bytesAt (4 * v.toNat) 2)
     let seg := BitVec.ofNat 16 (s.bytesAt (4 * v.toNat + 2) 2)
     let word (n : Nat) : Word := if n < 2 then s.flags.image else if n < 4 then s.cs else ret
     let addr (n : Nat) : Nat := (s.slot (2 * (n / 2 + 1)) + n % 2) % s.par.ring
     s.Backed (4 * v.toNat) 4 → ¬ (v ∈ s.par.intercept ∧ seg ++ off = s.par.ivtEntry v) → ¬ (seg = 0 ∧ off = 0) →
      ∀ n, n < 6 → (∀ j, j < n → addr j < s.par.memSize) → s.par.memSize ≤ addr n →
        t = { u with
          gpr := (s.setR16 rSP (s.r16 rSP - BitVec.ofNat 16 (2 * (n / 2 + 1)))).gpr, mem := t.mem, run := fault (addr n) } ∧
        (∀ j, j < n → t.peek (addr j) = BitVec.ofNat 8 ((word j).toNat / 256 ^ (j % 2))) ∧
        (∀ b, (∀ j, j < n → b ≠ addr j) → t.peek b = s.peek b))

/-- Entry followed by return is the identity on FLAGS, CS and SP, and IP is the return offset: an IRET as the first instruction
of a handler that a dispatch entered, on the stack and memory as the entry left them (60_exceptions.md R736, R728). -/
def Obligations.EntryThenReturn : Prop :=
  ∀ (s : State) (v : Byte) (ret : Word) (p : Prefixes), s.par.NoHole → p.os32 = false →
    ¬ (v ∈ s.par.intercept) → s.bytesAt (4 * v.toNat) 4 ≠ 0 →
    let t := s.dispatch v ret
    ∃ u, exec (.iret p) t = .next u ∧ u.flags = s.flags ∧ u.cs = s.cs ∧ u.ip = ret ∧ u.gpr = s.gpr ∧ u.mem = t.mem ∧
      u.run = .running

/-- The end of a host service: Continue goes on at the return offset, Terminate ends the run with its code, Halt halts it with the
host's reason, each with the host's updates and then its record in the event log; Unknown sets CF and AX = 0001h and goes on,
with nothing else changed but that record. The host's updates are the seven registers, DS, ES, the six arithmetic flags, its notes
in the event log, and the bytes it writes, of which the last written to an address stays; CS, IP, SS, ESP, TF, IF, DF, the FPU, the
run state and every other byte stay (60_exceptions.md R731 to R735).
That the shadow ends with the service, at Terminate too, that the record of the service comes after the host's own, and that a write
at or above P_MEMSIZE is dropped, are the model's reading (notes/assumptions/41.md, 29.md, 9.md). -/
def Obligations.HostServiceResult : Prop :=
  (∀ (s : State) (v : Byte) (ret : Word),
    let r := Config.hostService v (s.r8 rAH) s
    let u := s.applyReply r
    let t := s.hostService v ret
    let log := s.events ++ r.notes.map .note ++ [.service v r.outcome]
    match r.outcome with
    | .cont => t = { u with ip := ret, shadow := false, events := log } ∧ t.ds = r.ds ∧ t.es = r.es
    | .terminate c => t = { u with run := .terminated c, shadow := false, events := log }
    | .halt h => t = { u with run := .faulted h.reason s.ctx.startCs s.ctx.startIp, events := log }
    | .unknown => t = { s.setR16 rAX 1 with
        flags := { s.flags with cf := true }, ip := ret, shadow := false
        events := s.events ++ [.service v .unknown] }) ∧
  (∀ (s : State) (r : HostReply),
    let t := s.applyReply r
    t = { s with
      gpr := t.gpr, mem := t.mem, ds := r.ds, es := r.es, events := s.events ++ r.notes.map .note
      flags := { s.flags with cf := r.cf, pf := r.pf, af := r.af, zf := r.zf, sf := r.sf, ofl := r.ofl } } ∧
      t.r32 rAX = r.eax ∧ t.r32 rBX = r.ebx ∧ t.r32 rCX = r.ecx ∧ t.r32 rDX = r.edx ∧ t.r32 rSI = r.esi ∧
      t.r32 rDI = r.edi ∧ t.r32 rBP = r.ebp ∧ t.r32 rSP = s.r32 rSP ∧
      ∀ b, t.peek b = s.peekAfter r.writes b)

/-- Every step keeps the invariant and the parameters: memory stays in its canonical form and within P_MEMSIZE, the fixed bits of
CW stay, and ES and B go on summarizing the FPU exception flags unless the run is Faulted (10_state.md R69, 46_fpu_model.md
R520, 20_memory.md R102).
That a halted instruction leaves ES and B unsummed is the model's reading (notes/assumptions/26.md). -/
def Obligations.InvariantStep : Prop :=
  ∀ s t : State, s.Inv → step s = .next t → t.Inv ∧ t.par = s.par
end

