-- ==== Sys2Proof/Laws/State.lean ====
section
/-! SUPPORT. One lemma per field of State per update: what each named update leaves, and what it writes. -/

namespace Sys2Proof.Machine

variable (s : State)

@[simp] theorem State.setR32_gpr (i : BitVec 3) (v : DWord) : (s.setR32 i v).gpr = s.gpr.set i.toNat v i.isLt := rfl
@[simp] theorem State.setR32_es (i : BitVec 3) (v : DWord) : (s.setR32 i v).es = s.es := rfl
@[simp] theorem State.setR32_cs (i : BitVec 3) (v : DWord) : (s.setR32 i v).cs = s.cs := rfl
@[simp] theorem State.setR32_ss (i : BitVec 3) (v : DWord) : (s.setR32 i v).ss = s.ss := rfl
@[simp] theorem State.setR32_ds (i : BitVec 3) (v : DWord) : (s.setR32 i v).ds = s.ds := rfl
@[simp] theorem State.setR32_ip (i : BitVec 3) (v : DWord) : (s.setR32 i v).ip = s.ip := rfl
@[simp] theorem State.setR32_flags (i : BitVec 3) (v : DWord) : (s.setR32 i v).flags = s.flags := rfl
@[simp] theorem State.setR32_fpu (i : BitVec 3) (v : DWord) : (s.setR32 i v).fpu = s.fpu := rfl
@[simp] theorem State.setR32_shadow (i : BitVec 3) (v : DWord) : (s.setR32 i v).shadow = s.shadow := rfl
@[simp] theorem State.setR32_run (i : BitVec 3) (v : DWord) : (s.setR32 i v).run = s.run := rfl
@[simp] theorem State.setR32_mem (i : BitVec 3) (v : DWord) : (s.setR32 i v).mem = s.mem := rfl
@[simp] theorem State.setR32_events (i : BitVec 3) (v : DWord) : (s.setR32 i v).events = s.events := rfl
@[simp] theorem State.setR32_par (i : BitVec 3) (v : DWord) : (s.setR32 i v).par = s.par := rfl
@[simp] theorem State.setR32_draws (i : BitVec 3) (v : DWord) : (s.setR32 i v).draws = s.draws := rfl
@[simp] theorem State.setR32_ctx (i : BitVec 3) (v : DWord) : (s.setR32 i v).ctx = s.ctx := rfl

@[simp] theorem State.setR16_es (i : BitVec 3) (v : Word) : (s.setR16 i v).es = s.es := rfl
@[simp] theorem State.setR16_cs (i : BitVec 3) (v : Word) : (s.setR16 i v).cs = s.cs := rfl
@[simp] theorem State.setR16_ss (i : BitVec 3) (v : Word) : (s.setR16 i v).ss = s.ss := rfl
@[simp] theorem State.setR16_ds (i : BitVec 3) (v : Word) : (s.setR16 i v).ds = s.ds := rfl
@[simp] theorem State.setR16_ip (i : BitVec 3) (v : Word) : (s.setR16 i v).ip = s.ip := rfl
@[simp] theorem State.setR16_flags (i : BitVec 3) (v : Word) : (s.setR16 i v).flags = s.flags := rfl
@[simp] theorem State.setR16_fpu (i : BitVec 3) (v : Word) : (s.setR16 i v).fpu = s.fpu := rfl
@[simp] theorem State.setR16_shadow (i : BitVec 3) (v : Word) : (s.setR16 i v).shadow = s.shadow := rfl
@[simp] theorem State.setR16_run (i : BitVec 3) (v : Word) : (s.setR16 i v).run = s.run := rfl
@[simp] theorem State.setR16_mem (i : BitVec 3) (v : Word) : (s.setR16 i v).mem = s.mem := rfl
@[simp] theorem State.setR16_events (i : BitVec 3) (v : Word) : (s.setR16 i v).events = s.events := rfl
@[simp] theorem State.setR16_par (i : BitVec 3) (v : Word) : (s.setR16 i v).par = s.par := rfl
@[simp] theorem State.setR16_draws (i : BitVec 3) (v : Word) : (s.setR16 i v).draws = s.draws := rfl
@[simp] theorem State.setR16_ctx (i : BitVec 3) (v : Word) : (s.setR16 i v).ctx = s.ctx := rfl

@[simp] theorem State.setR8_es (i : BitVec 3) (v : Byte) : (s.setR8 i v).es = s.es := by
  unfold State.setR8; split <;> rfl
@[simp] theorem State.setR8_cs (i : BitVec 3) (v : Byte) : (s.setR8 i v).cs = s.cs := by
  unfold State.setR8; split <;> rfl
@[simp] theorem State.setR8_ss (i : BitVec 3) (v : Byte) : (s.setR8 i v).ss = s.ss := by
  unfold State.setR8; split <;> rfl
@[simp] theorem State.setR8_ds (i : BitVec 3) (v : Byte) : (s.setR8 i v).ds = s.ds := by
  unfold State.setR8; split <;> rfl
@[simp] theorem State.setR8_ip (i : BitVec 3) (v : Byte) : (s.setR8 i v).ip = s.ip := by
  unfold State.setR8; split <;> rfl
@[simp] theorem State.setR8_flags (i : BitVec 3) (v : Byte) : (s.setR8 i v).flags = s.flags := by
  unfold State.setR8; split <;> rfl
@[simp] theorem State.setR8_fpu (i : BitVec 3) (v : Byte) : (s.setR8 i v).fpu = s.fpu := by
  unfold State.setR8; split <;> rfl
@[simp] theorem State.setR8_shadow (i : BitVec 3) (v : Byte) : (s.setR8 i v).shadow = s.shadow := by
  unfold State.setR8; split <;> rfl
@[simp] theorem State.setR8_run (i : BitVec 3) (v : Byte) : (s.setR8 i v).run = s.run := by
  unfold State.setR8; split <;> rfl
@[simp] theorem State.setR8_mem (i : BitVec 3) (v : Byte) : (s.setR8 i v).mem = s.mem := by
  unfold State.setR8; split <;> rfl
@[simp] theorem State.setR8_events (i : BitVec 3) (v : Byte) : (s.setR8 i v).events = s.events := by
  unfold State.setR8; split <;> rfl
@[simp] theorem State.setR8_par (i : BitVec 3) (v : Byte) : (s.setR8 i v).par = s.par := by
  unfold State.setR8; split <;> rfl
@[simp] theorem State.setR8_draws (i : BitVec 3) (v : Byte) : (s.setR8 i v).draws = s.draws := by
  unfold State.setR8; split <;> rfl
@[simp] theorem State.setR8_ctx (i : BitVec 3) (v : Byte) : (s.setR8 i v).ctx = s.ctx := by
  unfold State.setR8; split <;> rfl

@[simp] theorem State.setReg_es (w : Width) (i : BitVec 3) (v : BitVec w.bits) : (s.setReg w i v).es = s.es := by
  cases w <;> simp [State.setReg]
@[simp] theorem State.setReg_cs (w : Width) (i : BitVec 3) (v : BitVec w.bits) : (s.setReg w i v).cs = s.cs := by
  cases w <;> simp [State.setReg]
@[simp] theorem State.setReg_ss (w : Width) (i : BitVec 3) (v : BitVec w.bits) : (s.setReg w i v).ss = s.ss := by
  cases w <;> simp [State.setReg]
@[simp] theorem State.setReg_ds (w : Width) (i : BitVec 3) (v : BitVec w.bits) : (s.setReg w i v).ds = s.ds := by
  cases w <;> simp [State.setReg]
@[simp] theorem State.setReg_ip (w : Width) (i : BitVec 3) (v : BitVec w.bits) : (s.setReg w i v).ip = s.ip := by
  cases w <;> simp [State.setReg]
@[simp] theorem State.setReg_flags (w : Width) (i : BitVec 3) (v : BitVec w.bits) : (s.setReg w i v).flags = s.flags := by
  cases w <;> simp [State.setReg]
@[simp] theorem State.setReg_fpu (w : Width) (i : BitVec 3) (v : BitVec w.bits) : (s.setReg w i v).fpu = s.fpu := by
  cases w <;> simp [State.setReg]
@[simp] theorem State.setReg_shadow (w : Width) (i : BitVec 3) (v : BitVec w.bits) : (s.setReg w i v).shadow = s.shadow := by
  cases w <;> simp [State.setReg]
@[simp] theorem State.setReg_run (w : Width) (i : BitVec 3) (v : BitVec w.bits) : (s.setReg w i v).run = s.run := by
  cases w <;> simp [State.setReg]
@[simp] theorem State.setReg_mem (w : Width) (i : BitVec 3) (v : BitVec w.bits) : (s.setReg w i v).mem = s.mem := by
  cases w <;> simp [State.setReg]
@[simp] theorem State.setReg_events (w : Width) (i : BitVec 3) (v : BitVec w.bits) : (s.setReg w i v).events = s.events := by
  cases w <;> simp [State.setReg]
@[simp] theorem State.setReg_par (w : Width) (i : BitVec 3) (v : BitVec w.bits) : (s.setReg w i v).par = s.par := by
  cases w <;> simp [State.setReg]
@[simp] theorem State.setReg_draws (w : Width) (i : BitVec 3) (v : BitVec w.bits) : (s.setReg w i v).draws = s.draws := by
  cases w <;> simp [State.setReg]
@[simp] theorem State.setReg_ctx (w : Width) (i : BitVec 3) (v : BitVec w.bits) : (s.setReg w i v).ctx = s.ctx := by
  cases w <;> simp [State.setReg]

@[simp] theorem State.setSreg_gpr (r : SegReg) (v : Word) : (s.setSreg r v).gpr = s.gpr := by
  cases r <;> rfl
@[simp] theorem State.setSreg_ip (r : SegReg) (v : Word) : (s.setSreg r v).ip = s.ip := by
  cases r <;> rfl
@[simp] theorem State.setSreg_flags (r : SegReg) (v : Word) : (s.setSreg r v).flags = s.flags := by
  cases r <;> rfl
@[simp] theorem State.setSreg_fpu (r : SegReg) (v : Word) : (s.setSreg r v).fpu = s.fpu := by
  cases r <;> rfl
@[simp] theorem State.setSreg_shadow (r : SegReg) (v : Word) : (s.setSreg r v).shadow = s.shadow := by
  cases r <;> rfl
@[simp] theorem State.setSreg_run (r : SegReg) (v : Word) : (s.setSreg r v).run = s.run := by
  cases r <;> rfl
@[simp] theorem State.setSreg_mem (r : SegReg) (v : Word) : (s.setSreg r v).mem = s.mem := by
  cases r <;> rfl
@[simp] theorem State.setSreg_events (r : SegReg) (v : Word) : (s.setSreg r v).events = s.events := by
  cases r <;> rfl
@[simp] theorem State.setSreg_par (r : SegReg) (v : Word) : (s.setSreg r v).par = s.par := by
  cases r <;> rfl
@[simp] theorem State.setSreg_draws (r : SegReg) (v : Word) : (s.setSreg r v).draws = s.draws := by
  cases r <;> rfl
@[simp] theorem State.setSreg_ctx (r : SegReg) (v : Word) : (s.setSreg r v).ctx = s.ctx := by
  cases r <;> rfl

@[simp] theorem State.setFlags_gpr (f : Flags) : (s.setFlags f).gpr = s.gpr := rfl
@[simp] theorem State.setFlags_es (f : Flags) : (s.setFlags f).es = s.es := rfl
@[simp] theorem State.setFlags_cs (f : Flags) : (s.setFlags f).cs = s.cs := rfl
@[simp] theorem State.setFlags_ss (f : Flags) : (s.setFlags f).ss = s.ss := rfl
@[simp] theorem State.setFlags_ds (f : Flags) : (s.setFlags f).ds = s.ds := rfl
@[simp] theorem State.setFlags_ip (f : Flags) : (s.setFlags f).ip = s.ip := rfl
@[simp] theorem State.setFlags_flags (f : Flags) : (s.setFlags f).flags = f := rfl
@[simp] theorem State.setFlags_fpu (f : Flags) : (s.setFlags f).fpu = s.fpu := rfl
@[simp] theorem State.setFlags_shadow (f : Flags) : (s.setFlags f).shadow = s.shadow := rfl
@[simp] theorem State.setFlags_run (f : Flags) : (s.setFlags f).run = s.run := rfl
@[simp] theorem State.setFlags_mem (f : Flags) : (s.setFlags f).mem = s.mem := rfl
@[simp] theorem State.setFlags_events (f : Flags) : (s.setFlags f).events = s.events := rfl
@[simp] theorem State.setFlags_par (f : Flags) : (s.setFlags f).par = s.par := rfl
@[simp] theorem State.setFlags_draws (f : Flags) : (s.setFlags f).draws = s.draws := rfl
@[simp] theorem State.setFlags_ctx (f : Flags) : (s.setFlags f).ctx = s.ctx := rfl

@[simp] theorem State.poke_gpr (a : Nat) (b : Byte) : (s.poke a b).gpr = s.gpr := rfl
@[simp] theorem State.poke_es (a : Nat) (b : Byte) : (s.poke a b).es = s.es := rfl
@[simp] theorem State.poke_cs (a : Nat) (b : Byte) : (s.poke a b).cs = s.cs := rfl
@[simp] theorem State.poke_ss (a : Nat) (b : Byte) : (s.poke a b).ss = s.ss := rfl
@[simp] theorem State.poke_ds (a : Nat) (b : Byte) : (s.poke a b).ds = s.ds := rfl
@[simp] theorem State.poke_ip (a : Nat) (b : Byte) : (s.poke a b).ip = s.ip := rfl
@[simp] theorem State.poke_flags (a : Nat) (b : Byte) : (s.poke a b).flags = s.flags := rfl
@[simp] theorem State.poke_fpu (a : Nat) (b : Byte) : (s.poke a b).fpu = s.fpu := rfl
@[simp] theorem State.poke_shadow (a : Nat) (b : Byte) : (s.poke a b).shadow = s.shadow := rfl
@[simp] theorem State.poke_run (a : Nat) (b : Byte) : (s.poke a b).run = s.run := rfl
@[simp] theorem State.poke_mem (a : Nat) (b : Byte) : (s.poke a b).mem = Memory.set s.mem a b := rfl
@[simp] theorem State.poke_events (a : Nat) (b : Byte) : (s.poke a b).events = s.events := rfl
@[simp] theorem State.poke_par (a : Nat) (b : Byte) : (s.poke a b).par = s.par := rfl
@[simp] theorem State.poke_draws (a : Nat) (b : Byte) : (s.poke a b).draws = s.draws := rfl
@[simp] theorem State.poke_ctx (a : Nat) (b : Byte) : (s.poke a b).ctx = s.ctx := rfl

@[simp] theorem State.useDraw_gpr : (s.useDraw).gpr = s.gpr := rfl
@[simp] theorem State.useDraw_es : (s.useDraw).es = s.es := rfl
@[simp] theorem State.useDraw_cs : (s.useDraw).cs = s.cs := rfl
@[simp] theorem State.useDraw_ss : (s.useDraw).ss = s.ss := rfl
@[simp] theorem State.useDraw_ds : (s.useDraw).ds = s.ds := rfl
@[simp] theorem State.useDraw_ip : (s.useDraw).ip = s.ip := rfl
@[simp] theorem State.useDraw_flags : (s.useDraw).flags = s.flags := rfl
@[simp] theorem State.useDraw_fpu : (s.useDraw).fpu = s.fpu := rfl
@[simp] theorem State.useDraw_shadow : (s.useDraw).shadow = s.shadow := rfl
@[simp] theorem State.useDraw_run : (s.useDraw).run = s.run := rfl
@[simp] theorem State.useDraw_mem : (s.useDraw).mem = s.mem := rfl
@[simp] theorem State.useDraw_events : (s.useDraw).events = s.events := rfl
@[simp] theorem State.useDraw_par : (s.useDraw).par = s.par := rfl
@[simp] theorem State.useDraw_draws : (s.useDraw).draws = s.draws + 1 := rfl
@[simp] theorem State.useDraw_ctx : (s.useDraw).ctx = s.ctx := rfl

@[simp] theorem State.ioWrite_gpr (q : Word) (n v : Nat) : (s.ioWrite q n v).gpr = s.gpr := rfl
@[simp] theorem State.ioWrite_es (q : Word) (n v : Nat) : (s.ioWrite q n v).es = s.es := rfl
@[simp] theorem State.ioWrite_cs (q : Word) (n v : Nat) : (s.ioWrite q n v).cs = s.cs := rfl
@[simp] theorem State.ioWrite_ss (q : Word) (n v : Nat) : (s.ioWrite q n v).ss = s.ss := rfl
@[simp] theorem State.ioWrite_ds (q : Word) (n v : Nat) : (s.ioWrite q n v).ds = s.ds := rfl
@[simp] theorem State.ioWrite_ip (q : Word) (n v : Nat) : (s.ioWrite q n v).ip = s.ip := rfl
@[simp] theorem State.ioWrite_flags (q : Word) (n v : Nat) : (s.ioWrite q n v).flags = s.flags := rfl
@[simp] theorem State.ioWrite_fpu (q : Word) (n v : Nat) : (s.ioWrite q n v).fpu = s.fpu := rfl
@[simp] theorem State.ioWrite_shadow (q : Word) (n v : Nat) : (s.ioWrite q n v).shadow = s.shadow := rfl
@[simp] theorem State.ioWrite_run (q : Word) (n v : Nat) : (s.ioWrite q n v).run = s.run := rfl
@[simp] theorem State.ioWrite_mem (q : Word) (n v : Nat) : (s.ioWrite q n v).mem = s.mem := rfl
@[simp] theorem State.ioWrite_events (q : Word) (n v : Nat) : (s.ioWrite q n v).events = s.events ++ [.ioWrite q n v] := rfl
@[simp] theorem State.ioWrite_par (q : Word) (n v : Nat) : (s.ioWrite q n v).par = s.par := rfl
@[simp] theorem State.ioWrite_draws (q : Word) (n v : Nat) : (s.ioWrite q n v).draws = s.draws := rfl
@[simp] theorem State.ioWrite_ctx (q : Word) (n v : Nat) : (s.ioWrite q n v).ctx = s.ctx := rfl

@[simp] theorem State.log_gpr (e : HostEvent) : (s.log e).gpr = s.gpr := rfl
@[simp] theorem State.log_es (e : HostEvent) : (s.log e).es = s.es := rfl
@[simp] theorem State.log_cs (e : HostEvent) : (s.log e).cs = s.cs := rfl
@[simp] theorem State.log_ss (e : HostEvent) : (s.log e).ss = s.ss := rfl
@[simp] theorem State.log_ds (e : HostEvent) : (s.log e).ds = s.ds := rfl
@[simp] theorem State.log_ip (e : HostEvent) : (s.log e).ip = s.ip := rfl
@[simp] theorem State.log_flags (e : HostEvent) : (s.log e).flags = s.flags := rfl
@[simp] theorem State.log_fpu (e : HostEvent) : (s.log e).fpu = s.fpu := rfl
@[simp] theorem State.log_shadow (e : HostEvent) : (s.log e).shadow = s.shadow := rfl
@[simp] theorem State.log_run (e : HostEvent) : (s.log e).run = s.run := rfl
@[simp] theorem State.log_mem (e : HostEvent) : (s.log e).mem = s.mem := rfl
@[simp] theorem State.log_events (e : HostEvent) : (s.log e).events = s.events ++ [e] := rfl
@[simp] theorem State.log_par (e : HostEvent) : (s.log e).par = s.par := rfl
@[simp] theorem State.log_draws (e : HostEvent) : (s.log e).draws = s.draws := rfl
@[simp] theorem State.log_ctx (e : HostEvent) : (s.log e).ctx = s.ctx := rfl

@[simp] theorem State.halt_gpr (r : HaltReason) : (s.halt r).gpr = s.gpr := rfl
@[simp] theorem State.halt_es (r : HaltReason) : (s.halt r).es = s.es := rfl
@[simp] theorem State.halt_cs (r : HaltReason) : (s.halt r).cs = s.cs := rfl
@[simp] theorem State.halt_ss (r : HaltReason) : (s.halt r).ss = s.ss := rfl
@[simp] theorem State.halt_ds (r : HaltReason) : (s.halt r).ds = s.ds := rfl
@[simp] theorem State.halt_ip (r : HaltReason) : (s.halt r).ip = s.ip := rfl
@[simp] theorem State.halt_flags (r : HaltReason) : (s.halt r).flags = s.flags := rfl
@[simp] theorem State.halt_fpu (r : HaltReason) : (s.halt r).fpu = s.fpu := rfl
@[simp] theorem State.halt_shadow (r : HaltReason) : (s.halt r).shadow = s.shadow := rfl
@[simp] theorem State.halt_run (r : HaltReason) : (s.halt r).run = .faulted r s.ctx.startCs s.ctx.startIp := rfl
@[simp] theorem State.halt_mem (r : HaltReason) : (s.halt r).mem = s.mem := rfl
@[simp] theorem State.halt_events (r : HaltReason) : (s.halt r).events = s.events := rfl
@[simp] theorem State.halt_par (r : HaltReason) : (s.halt r).par = s.par := rfl
@[simp] theorem State.halt_draws (r : HaltReason) : (s.halt r).draws = s.draws := rfl
@[simp] theorem State.halt_ctx (r : HaltReason) : (s.halt r).ctx = s.ctx := rfl

@[simp] theorem State.commit_gpr : (s.commit).gpr = s.gpr := rfl
@[simp] theorem State.commit_es : (s.commit).es = s.es := rfl
@[simp] theorem State.commit_cs : (s.commit).cs = s.cs := rfl
@[simp] theorem State.commit_ss : (s.commit).ss = s.ss := rfl
@[simp] theorem State.commit_ds : (s.commit).ds = s.ds := rfl
@[simp] theorem State.commit_ip : (s.commit).ip = s.ctx.nextIp := rfl
@[simp] theorem State.commit_flags : (s.commit).flags = s.flags := rfl
@[simp] theorem State.commit_fpu : (s.commit).fpu = s.fpu := rfl
@[simp] theorem State.commit_shadow : (s.commit).shadow = false := rfl
@[simp] theorem State.commit_run : (s.commit).run = s.run := rfl
@[simp] theorem State.commit_mem : (s.commit).mem = s.mem := rfl
@[simp] theorem State.commit_events : (s.commit).events = s.events := rfl
@[simp] theorem State.commit_par : (s.commit).par = s.par := rfl
@[simp] theorem State.commit_draws : (s.commit).draws = s.draws := rfl
@[simp] theorem State.commit_ctx : (s.commit).ctx = s.ctx := rfl

@[simp] theorem State.jump_gpr (c i : Word) : (s.jump c i).gpr = s.gpr := rfl
@[simp] theorem State.jump_es (c i : Word) : (s.jump c i).es = s.es := rfl
@[simp] theorem State.jump_cs (c i : Word) : (s.jump c i).cs = c := rfl
@[simp] theorem State.jump_ss (c i : Word) : (s.jump c i).ss = s.ss := rfl
@[simp] theorem State.jump_ds (c i : Word) : (s.jump c i).ds = s.ds := rfl
@[simp] theorem State.jump_ip (c i : Word) : (s.jump c i).ip = i := rfl
@[simp] theorem State.jump_flags (c i : Word) : (s.jump c i).flags = s.flags := rfl
@[simp] theorem State.jump_fpu (c i : Word) : (s.jump c i).fpu = s.fpu := rfl
@[simp] theorem State.jump_shadow (c i : Word) : (s.jump c i).shadow = false := rfl
@[simp] theorem State.jump_run (c i : Word) : (s.jump c i).run = s.run := rfl
@[simp] theorem State.jump_mem (c i : Word) : (s.jump c i).mem = s.mem := rfl
@[simp] theorem State.jump_events (c i : Word) : (s.jump c i).events = s.events := rfl
@[simp] theorem State.jump_par (c i : Word) : (s.jump c i).par = s.par := rfl
@[simp] theorem State.jump_draws (c i : Word) : (s.jump c i).draws = s.draws := rfl
@[simp] theorem State.jump_ctx (c i : Word) : (s.jump c i).ctx = s.ctx := rfl

@[simp] theorem State.resumeAt_gpr (i : Word) : (s.resumeAt i).gpr = s.gpr := rfl
@[simp] theorem State.resumeAt_es (i : Word) : (s.resumeAt i).es = s.es := rfl
@[simp] theorem State.resumeAt_cs (i : Word) : (s.resumeAt i).cs = s.cs := rfl
@[simp] theorem State.resumeAt_ss (i : Word) : (s.resumeAt i).ss = s.ss := rfl
@[simp] theorem State.resumeAt_ds (i : Word) : (s.resumeAt i).ds = s.ds := rfl
@[simp] theorem State.resumeAt_ip (i : Word) : (s.resumeAt i).ip = i := rfl
@[simp] theorem State.resumeAt_flags (i : Word) : (s.resumeAt i).flags = s.flags := rfl
@[simp] theorem State.resumeAt_fpu (i : Word) : (s.resumeAt i).fpu = s.fpu := rfl
@[simp] theorem State.resumeAt_shadow (i : Word) : (s.resumeAt i).shadow = false := rfl
@[simp] theorem State.resumeAt_run (i : Word) : (s.resumeAt i).run = s.run := rfl
@[simp] theorem State.resumeAt_mem (i : Word) : (s.resumeAt i).mem = s.mem := rfl
@[simp] theorem State.resumeAt_events (i : Word) : (s.resumeAt i).events = s.events := rfl
@[simp] theorem State.resumeAt_par (i : Word) : (s.resumeAt i).par = s.par := rfl
@[simp] theorem State.resumeAt_draws (i : Word) : (s.resumeAt i).draws = s.draws := rfl
@[simp] theorem State.resumeAt_ctx (i : Word) : (s.resumeAt i).ctx = s.ctx := rfl

@[simp] theorem State.beginDispatch_gpr : (s.beginDispatch).gpr = s.gpr := rfl
@[simp] theorem State.beginDispatch_es : (s.beginDispatch).es = s.es := rfl
@[simp] theorem State.beginDispatch_cs : (s.beginDispatch).cs = s.cs := rfl
@[simp] theorem State.beginDispatch_ss : (s.beginDispatch).ss = s.ss := rfl
@[simp] theorem State.beginDispatch_ds : (s.beginDispatch).ds = s.ds := rfl
@[simp] theorem State.beginDispatch_ip : (s.beginDispatch).ip = s.ip := rfl
@[simp] theorem State.beginDispatch_flags : (s.beginDispatch).flags = s.flags := rfl
@[simp] theorem State.beginDispatch_fpu : (s.beginDispatch).fpu = s.fpu := rfl
@[simp] theorem State.beginDispatch_shadow : (s.beginDispatch).shadow = s.shadow := rfl
@[simp] theorem State.beginDispatch_run : (s.beginDispatch).run = .running := rfl
@[simp] theorem State.beginDispatch_mem : (s.beginDispatch).mem = s.mem := rfl
@[simp] theorem State.beginDispatch_events : (s.beginDispatch).events = s.events := rfl
@[simp] theorem State.beginDispatch_par : (s.beginDispatch).par = s.par := rfl
@[simp] theorem State.beginDispatch_draws : (s.beginDispatch).draws = s.draws := rfl
@[simp] theorem State.beginDispatch_ctx : (s.beginDispatch).ctx = { s.ctx with dispatched := true } := rfl

@[simp] theorem State.begin_gpr (n : Nat) : (s.begin n).gpr = s.gpr := rfl
@[simp] theorem State.begin_es (n : Nat) : (s.begin n).es = s.es := rfl
@[simp] theorem State.begin_cs (n : Nat) : (s.begin n).cs = s.cs := rfl
@[simp] theorem State.begin_ss (n : Nat) : (s.begin n).ss = s.ss := rfl
@[simp] theorem State.begin_ds (n : Nat) : (s.begin n).ds = s.ds := rfl
@[simp] theorem State.begin_ip (n : Nat) : (s.begin n).ip = s.ip := rfl
@[simp] theorem State.begin_flags (n : Nat) : (s.begin n).flags = s.flags := rfl
@[simp] theorem State.begin_fpu (n : Nat) : (s.begin n).fpu = s.fpu := rfl
@[simp] theorem State.begin_shadow (n : Nat) : (s.begin n).shadow = s.shadow := rfl
@[simp] theorem State.begin_run (n : Nat) : (s.begin n).run = s.run := rfl
@[simp] theorem State.begin_mem (n : Nat) : (s.begin n).mem = s.mem := rfl
@[simp] theorem State.begin_events (n : Nat) : (s.begin n).events = s.events := rfl
@[simp] theorem State.begin_par (n : Nat) : (s.begin n).par = s.par := rfl
@[simp] theorem State.begin_draws (n : Nat) : (s.begin n).draws = s.draws := rfl

@[simp] theorem State.setFpu_gpr (f : Fpu) : (s.setFpu f).gpr = s.gpr := rfl
@[simp] theorem State.setFpu_es (f : Fpu) : (s.setFpu f).es = s.es := rfl
@[simp] theorem State.setFpu_cs (f : Fpu) : (s.setFpu f).cs = s.cs := rfl
@[simp] theorem State.setFpu_ss (f : Fpu) : (s.setFpu f).ss = s.ss := rfl
@[simp] theorem State.setFpu_ds (f : Fpu) : (s.setFpu f).ds = s.ds := rfl
@[simp] theorem State.setFpu_ip (f : Fpu) : (s.setFpu f).ip = s.ip := rfl
@[simp] theorem State.setFpu_flags (f : Fpu) : (s.setFpu f).flags = s.flags := rfl
@[simp] theorem State.setFpu_fpu (f : Fpu) : (s.setFpu f).fpu = f := rfl
@[simp] theorem State.setFpu_shadow (f : Fpu) : (s.setFpu f).shadow = s.shadow := rfl
@[simp] theorem State.setFpu_run (f : Fpu) : (s.setFpu f).run = s.run := rfl
@[simp] theorem State.setFpu_mem (f : Fpu) : (s.setFpu f).mem = s.mem := rfl
@[simp] theorem State.setFpu_events (f : Fpu) : (s.setFpu f).events = s.events := rfl
@[simp] theorem State.setFpu_par (f : Fpu) : (s.setFpu f).par = s.par := rfl
@[simp] theorem State.setFpu_draws (f : Fpu) : (s.setFpu f).draws = s.draws := rfl
@[simp] theorem State.setFpu_ctx (f : Fpu) : (s.setFpu f).ctx = s.ctx := rfl

end Sys2Proof.Machine
end

