-- ==== Sys2Proof/Laws/Memory.lean ====
section
/-! SUPPORT. The laws of memory: a read after a write, the canonical form, and what each access of the machine answers. -/

namespace Sys2Proof.Machine

/-! ### The list of cells -/

theorem Memory.get_insert (m : List Host.Cell) (a b : Nat) (v : Byte) (h : ∀ c ∈ m, c.1 ≠ a) :
    Memory.get (Memory.insert a v m) b = if b = a then v else Memory.get m b := by
  induction m with
  | nil =>
    rcases eq_or_ne b a with rfl | hb
    · simp [Memory.insert, Memory.get]
    · simp [Memory.insert, Memory.get, hb, hb.symm]
  | cons c rest ih =>
    have hc : c.1 ≠ a := h c (by simp)
    have ih := ih fun d hd => h d (by simp [hd])
    unfold Memory.insert
    split
    · rcases eq_or_ne b a with rfl | hb
      · simp [Memory.get]
      · simp [Memory.get, hb, hb.symm]
    · by_cases hb : c.1 = b
      · have : b ≠ a := fun e => hc (hb.trans e)
        simp [Memory.get, hb, this]
      · simp only [Memory.get] at ih ⊢
        simp only [List.find?_cons, beq_eq_false_iff_ne.mpr hb]
        exact ih

theorem Memory.get_filter (m : List Host.Cell) (a b : Nat) :
    Memory.get (m.filter fun c => c.1 != a) b = if b = a then 0 else Memory.get m b := by
  induction m with
  | nil => simp [Memory.get]
  | cons c rest ih =>
    simp only [Memory.get] at ih ⊢
    by_cases hc : c.1 = a
    · have e : List.filter (fun c : Host.Cell => c.1 != a) (c :: rest) = rest.filter fun c => c.1 != a := by
        simp [hc]
      rw [e, ih]
      by_cases hb : b = a
      · simp [hb]
      · have : c.1 ≠ b := fun e => hb (e.symm.trans hc)
        simp [hb, beq_eq_false_iff_ne.mpr this]
    · have e : List.filter (fun c : Host.Cell => c.1 != a) (c :: rest) = c :: rest.filter fun c => c.1 != a := by
        simp [hc]
      rw [e]
      by_cases hb : c.1 = b
      · have : b ≠ a := fun e => hc (hb.trans e)
        simp [hb, this]
      · simp only [List.find?_cons, beq_eq_false_iff_ne.mpr hb]
        exact ih

/-- A byte written is read back, and every other byte is as before. -/
theorem Memory.get_set (m : List Host.Cell) (a b : Nat) (v : Byte) :
    Memory.get (Memory.set m a v) b = if b = a then v else Memory.get m b := by
  unfold Memory.set
  split
  · rename_i h
    rw [Memory.get_filter, h]
  · rw [Memory.get_insert _ _ _ _ (by simp), Memory.get_filter]
    split <;> rfl

theorem Memory.mem_insert (m : List Host.Cell) (a : Nat) (v : Byte) (c : Host.Cell) :
    c ∈ Memory.insert a v m ↔ c = (a, v) ∨ c ∈ m := by
  induction m with
  | nil => simp [Memory.insert]
  | cons d rest ih =>
    unfold Memory.insert
    split
    · simp
    · simp only [List.mem_cons, ih]
      tauto

theorem Memory.insert_rising (m : List Host.Cell) (a : Nat) (v : Byte) (h : ∀ c ∈ m, c.1 ≠ a)
    (hm : m.Pairwise fun c d => c.1 < d.1) : (Memory.insert a v m).Pairwise fun c d => c.1 < d.1 := by
  induction m with
  | nil => simp [Memory.insert]
  | cons d rest ih =>
    have hd : d.1 ≠ a := h d (by simp)
    have hr := List.pairwise_cons.mp hm
    have ih := ih (fun c hc => h c (by simp [hc])) hr.2
    unfold Memory.insert
    split
    · rename_i lt
      refine List.pairwise_cons.mpr ⟨fun c hc => ?_, hm⟩
      rcases List.mem_cons.mp hc with e | hc
      · exact e ▸ lt
      · exact Nat.lt_trans lt (hr.1 c hc)
    · rename_i ge
      refine List.pairwise_cons.mpr ⟨fun c hc => ?_, ih⟩
      rcases (Memory.mem_insert rest a v c).mp hc with e | hc
      · rw [e]
        show d.1 < a
        omega
      · exact hr.1 c hc

/-- A write keeps the canonical form. -/
theorem Memory.set_wf (m : List Host.Cell) (a : Nat) (v : Byte) (h : Memory.wf m) : Memory.wf (Memory.set m a v) := by
  unfold Memory.set
  have hf : (m.filter fun c => c.1 != a).Pairwise fun c d => c.1 < d.1 := h.1.filter _
  split
  · exact ⟨hf, fun c hc => h.2 c (List.mem_of_mem_filter hc)⟩
  · rename_i hv
    refine ⟨Memory.insert_rising _ _ _ (by simp) hf, fun c hc => ?_⟩
    rcases (Memory.mem_insert _ _ _ _).mp hc with e | hc
    · rw [e]; exact hv
    · exact h.2 c (List.mem_of_mem_filter hc)

/-- A write lists no address but its own that was not listed. -/
theorem Memory.set_below (m : List Host.Cell) (a n : Nat) (v : Byte) (ha : a < n) (h : ∀ c ∈ m, c.1 < n) :
    ∀ c ∈ Memory.set m a v, c.1 < n := by
  intro c hc
  unfold Memory.set at hc
  split at hc
  · exact h c (List.mem_of_mem_filter hc)
  · rcases (Memory.mem_insert _ _ _ _).mp hc with e | hc
    · rw [e]; exact ha
    · exact h c (List.mem_of_mem_filter hc)

/-! ### Reads and writes of the machine -/

@[simp] theorem Exec.ok_bind {α β : Type} (v : α) (f : α → Exec β) : (Except.ok v >>= f : Exec β) = f v := rfl
@[simp] theorem Exec.error_bind {α β : Type} (e : State) (f : α → Exec β) :
    ((Except.error e : Exec α) >>= f) = .error e := rfl
@[simp] theorem Exec.map_ok {α β : Type} (v : α) (f : α → β) : Except.map f (Except.ok v : Exec α) = .ok (f v) := rfl
@[simp] theorem Exec.map_error {α β : Type} (e : State) (f : α → β) :
    Except.map f (Except.error e : Exec α) = .error e := rfl
@[simp] theorem Exec.final_ok (s : State) : Exec.final (.ok s) = s := rfl
@[simp] theorem Exec.final_error (s : State) : Exec.final (.error s) = s := rfl
@[simp] theorem finish_ok (s : State) : finish (.ok s) = .next s := rfl
@[simp] theorem finish_error (s : State) : finish (.error s) = .next s := rfl

theorem State.peek_poke (s : State) (a b : Nat) (v : Byte) : (s.poke a v).peek b = if b = a then v else s.peek b :=
  Memory.get_set s.mem a b v

/-- A host's writes change nothing but memory. -/
theorem State.hostWrites_frame (s : State) (l : List (Nat × Byte)) :
    s.hostWrites l = { s with mem := (s.hostWrites l).mem } := by
  induction l generalizing s with
  | nil => rfl
  | cons w l ih => simp only [State.hostWrites]; rw [ih]; split <;> rfl

/-- A host's writes leave in each byte of memory the last one made to it. -/
theorem State.hostWrites_peek (s : State) (l : List (Nat × Byte)) (b : Nat) :
    (s.hostWrites l).peek b = s.peekAfter l b := by
  induction l generalizing s with
  | nil => rfl
  | cons w l ih =>
    have hp : ∀ (c : Prop) [Decidable c], (if c then s.poke w.1 w.2 else s).par = s.par := by
      intro c _; split <;> rfl
    simp only [State.hostWrites, ih, State.peekAfter, List.reverse_cons, List.find?_append, hp]
    cases l.reverse.find? fun w => w.1 == b with
    | some v =>
      simp only [Option.some_or]
      split_ifs <;> simp [State.peek_poke]; grind
    | none =>
      simp only [Option.none_or, List.find?_singleton]
      split_ifs <;> simp [State.peek_poke] <;> grind

/-- What the updates of a host's reply change. -/
theorem State.applyReply_frame (s : State) (r : HostReply) :
    s.applyReply r = { s with
      gpr := (s.applyReply r).gpr, mem := (s.hostWrites r.writes).mem, ds := r.ds, es := r.es
      events := s.events ++ r.notes.map .note
      flags := { s.flags with cf := r.cf, pf := r.pf, af := r.af, zf := r.zf, sf := r.sf, ofl := r.ofl } } := by
  unfold State.applyReply
  rw [State.hostWrites_frame]; rfl

/-- A read of backed memory answers the number its bytes hold. -/
theorem State.linRead_backed (s : State) (a n : Nat) (h : s.Backed a n) : s.linRead a n = .ok (s.bytesAt a n) := by
  induction n generalizing a with
  | zero => rfl
  | succ n ih =>
    have h0 := h 0 (by omega)
    have h1 : s.Backed (a + 1) n := fun i hi => by
      have := h (i + 1) (by omega)
      rwa [show a + (i + 1) = a + 1 + i by omega] at this
    simp only [Nat.add_zero] at h0
    rw [State.linRead, if_pos h0, ih _ h1]
    rfl

/-- A read that reaches an unbacked byte halts the run and changes nothing else; a read answers or halts. -/
theorem State.linRead_cases (s : State) (a n : Nat) :
    s.linRead a n = .ok (s.bytesAt a n) ∨ ∃ b, s.linRead a n = haltWith s (.addressFault b) := by
  induction n generalizing a with
  | zero => exact .inl rfl
  | succ n ih =>
    rw [State.linRead]
    split
    · rcases ih (a + 1) with h | ⟨b, h⟩
      · left; rw [h]; rfl
      · right; exact ⟨b, by rw [h]; rfl⟩
    · exact .inr ⟨_, rfl⟩

theorem State.linReadW_backed (s : State) (w : Width) (a : Nat) (h : s.Backed a w.bytes) :
    s.linReadW w a = .ok (BitVec.ofNat w.bits (s.bytesAt a w.bytes)) := by
  rw [State.linReadW, s.linRead_backed a _ h]; rfl

/-- A write of backed memory ends in a state that differs in memory alone. -/
theorem State.linWrite_backed (s : State) (a n v : Nat) (h : s.Backed a n) :
    ∃ m, s.linWrite a n v = .ok { s with mem := m } := by
  induction n generalizing s a v with
  | zero => exact ⟨s.mem, rfl⟩
  | succ n ih =>
    have h0 := h 0 (by omega)
    simp only [Nat.add_zero] at h0
    have h1 : (s.poke (a % s.par.ring) (BitVec.ofNat 8 v)).Backed (a + 1) n := fun i hi => by
      have := h (i + 1) (by omega)
      rwa [show a + (i + 1) = a + 1 + i by omega] at this
    obtain ⟨m, hm⟩ := ih _ _ (v / 256) h1
    exact ⟨m, by rw [State.linWrite, if_pos h0, hm]; rfl⟩

/-- What a write leaves outside its bytes. -/
theorem State.linWrite_outside (s t : State) (a n v : Nat) (h : s.linWrite a n v = .ok t) (b : Nat)
    (hb : ∀ i, i < n → b ≠ (a + i) % s.par.ring) : t.peek b = s.peek b := by
  induction n generalizing s a v with
  | zero => cases h; rfl
  | succ n ih =>
    rw [State.linWrite] at h
    split at h
    · have e : t.peek b = (s.poke (a % s.par.ring) (BitVec.ofNat 8 v)).peek b := ih _ _ _ h fun i hi => by
        have := hb (i + 1) (by omega)
        rwa [show a + (i + 1) = a + 1 + i by omega] at this
      have := hb 0 (by omega)
      rw [e, State.peek_poke, if_neg (by simpa using this)]
    · cases h

/-- A write or a halt: what `linWrite` can answer. -/
theorem State.linWrite_cases (s : State) (a n v : Nat) :
    (∃ m, s.linWrite a n v = .ok { s with mem := m }) ∨
      ∃ m b, s.linWrite a n v = haltWith { s with mem := m } (.addressFault b) := by
  induction n generalizing s a v with
  | zero => exact .inl ⟨s.mem, rfl⟩
  | succ n ih =>
    rw [State.linWrite]
    split
    · rcases ih (s.poke (a % s.par.ring) (BitVec.ofNat 8 v)) (a + 1) (v / 256) with ⟨m, h⟩ | ⟨m, b, h⟩
      · exact .inl ⟨m, by rw [h]; rfl⟩
      · exact .inr ⟨m, b, by rw [h]; rfl⟩
    · exact .inr ⟨s.mem, _, rfl⟩

/-- The bytes of a written range are distinct. -/
theorem ring_offset_inj {ring a i j : Nat} (hi : i < ring) (hj : j < ring) (h : (a + i) % ring = (a + j) % ring) :
    i = j := by
  have := Nat.ModEq.add_left_cancel' a h
  rwa [Nat.ModEq, Nat.mod_eq_of_lt hi, Nat.mod_eq_of_lt hj] at this

/-- What a write of backed memory stores. -/
theorem State.linWrite_holds (s t : State) (a n v : Nat) (h : s.linWrite a n v = .ok t) (hn : n ≤ s.par.ring)
    (i : Nat) (hi : i < n) : t.peek ((a + i) % s.par.ring) = BitVec.ofNat 8 (v / 256 ^ i) := by
  induction n generalizing s a v i with
  | zero => omega
  | succ n ih =>
    rw [State.linWrite] at h
    split at h
    · cases i with
      | zero =>
        have e := State.linWrite_outside _ t (a + 1) n (v / 256) h (a % s.par.ring) fun j hj e => by
          have e' : (a + 0) % s.par.ring = (a + (j + 1)) % s.par.ring := by
            rw [Nat.add_zero, show a + (j + 1) = a + 1 + j by omega]; exact e
          have := ring_offset_inj (by omega) (by omega) e'
          omega
        rw [Nat.add_zero, e, State.peek_poke, if_pos rfl, Nat.pow_zero, Nat.div_one]
      | succ i =>
        have e : t.peek ((a + 1 + i) % s.par.ring) = BitVec.ofNat 8 (v / 256 / 256 ^ i) :=
          ih _ _ _ h (Nat.le_of_succ_le hn) i (by omega)
        rw [show a + (i + 1) = a + 1 + i by omega, e, Nat.div_div_eq_div_mul, Nat.pow_succ, Nat.mul_comm]
    · cases h

/-- A ring holds every access of the core: at least 2^20 bytes (20_memory.md R101). -/
theorem ring_large (p : Params) : 2 ^ 20 ≤ p.ring := Nat.pow_le_pow_right (by omega) (by omega)

/-- A write of backed memory stores its bytes, and nothing but memory changes. -/
theorem State.linWrite_stores (s : State) (a n v : Nat) (h : s.Backed a n) (hn : n ≤ 2 ^ 20) :
    ∃ m, s.linWrite a n v = .ok { s with mem := m } ∧ s.Stores { s with mem := m } a n v := by
  obtain ⟨m, hm⟩ := s.linWrite_backed a n v h
  exact ⟨m, hm, fun i hi => State.linWrite_holds s _ a n v hm (Nat.le_trans hn (ring_large s.par)) i hi,
    fun b hb => State.linWrite_outside s _ a n v hm b hb⟩

end Sys2Proof.Machine
end

