-- ==== Sys2Proof/Laws/Canonical.lean ====
section
/-! SUPPORT. Every memory operation keeps the canonical form, and lists no address at or above P_MEMSIZE. -/

namespace Sys2Proof.Machine

theorem State.poke_wf (s : State) (a : Nat) (b : Byte) (h : Memory.wf s.mem) : Memory.wf (s.poke a b).mem :=
  Memory.set_wf _ _ _ h

theorem State.poke_below (s : State) (a : Nat) (b : Byte) (ha : a < s.par.memSize)
    (h : ∀ c ∈ s.mem, c.1 < s.par.memSize) : ∀ c ∈ (s.poke a b).mem, c.1 < s.par.memSize :=
  Memory.set_below _ _ _ _ ha h

/-- A write, whether it completes or halts, changes memory and the run state alone. -/
theorem State.linWrite_final (s : State) (a n v : Nat) :
    ∃ m r, (s.linWrite a n v).final = { s with mem := m, run := r } := by
  rcases s.linWrite_cases a n v with ⟨m, h⟩ | ⟨m, b, h⟩
  · exact ⟨m, s.run, by rw [h]; rfl⟩
  · exact ⟨m, _, by rw [h]; rfl⟩

theorem State.linWrite_wf (s : State) (a n v : Nat) (h : Memory.wf s.mem) :
    Memory.wf (s.linWrite a n v).final.mem := by
  induction n generalizing s a v with
  | zero => exact h
  | succ n ih =>
    rw [State.linWrite]
    split
    · exact ih _ _ _ (s.poke_wf _ _ h)
    · exact h

theorem State.linWrite_below (s : State) (a n v : Nat) (h : ∀ c ∈ s.mem, c.1 < s.par.memSize) :
    ∀ c ∈ (s.linWrite a n v).final.mem, c.1 < s.par.memSize := by
  induction n generalizing s a v with
  | zero => exact h
  | succ n ih =>
    rw [State.linWrite]
    split
    · rename_i ha
      exact ih _ _ _ (s.poke_below _ _ ha h)
    · exact h

theorem State.push_wf (s : State) (n v : Nat) (h : Memory.wf s.mem) : Memory.wf (s.push n v).final.mem :=
  State.linWrite_wf _ _ _ _ h

/-- The host's writes change memory alone. -/
theorem State.hostWrites_eq (s : State) (l : List (Nat × Byte)) : ∃ m, s.hostWrites l = { s with mem := m } := by
  induction l generalizing s with
  | nil => exact ⟨s.mem, rfl⟩
  | cons w rest ih =>
    rw [State.hostWrites]
    split
    · exact ih (s.poke w.1 w.2)
    · exact ih s

theorem State.hostWrites_wf (s : State) (l : List (Nat × Byte)) (h : Memory.wf s.mem) :
    Memory.wf (s.hostWrites l).mem := by
  induction l generalizing s with
  | nil => exact h
  | cons w rest ih =>
    rw [State.hostWrites]
    split
    · exact ih _ (s.poke_wf _ _ h)
    · exact ih _ h

theorem State.hostWrites_below (s : State) (l : List (Nat × Byte)) (h : ∀ c ∈ s.mem, c.1 < s.par.memSize) :
    ∀ c ∈ (s.hostWrites l).mem, c.1 < s.par.memSize := by
  induction l generalizing s with
  | nil => exact h
  | cons w rest ih =>
    rw [State.hostWrites]
    split
    · rename_i ha
      exact ih _ (s.poke_below _ _ ha h)
    · exact ih _ h

theorem State.place_wf (s : State) (k : Nat) (l : List Byte) (h : Memory.wf s.mem) : Memory.wf (s.place k l).mem := by
  induction l generalizing s k with
  | nil => exact h
  | cons b rest ih => exact ih _ _ (s.poke_wf _ _ h)

theorem State.withFetchWord_wf (s : State) (nbits w : Nat) (h : Memory.wf s.mem) :
    Memory.wf (s.withFetchWord nbits w).mem :=
  s.place_wf 0 _ h

theorem State.reset_wf : Memory.wf State.reset.mem := by decide

end Sys2Proof.Machine
end

