-- ==== Sys2Proof/Laws/Fetch.lean ====
section
/-! SUPPORT. What the fetch reads: the bytes at CS:IP as far as memory backs them. -/

namespace Sys2Proof.Machine

/-- The window from byte k on holds the `n` bytes before the first address at or above P_MEMSIZE, and names that address. -/
theorem State.window_eq (s : State) (m k n : Nat) (hn : n ≤ m) (hb : ∀ j, j < n → s.codeAt (k + j) < s.par.memSize)
    (hh : n < m → s.par.memSize ≤ s.codeAt (k + n)) :
    s.window k m = ((List.range n).map fun j => s.peek (s.codeAt (k + j)),
      if n < m then some (s.codeAt (k + n)) else none) := by
  induction m generalizing k n with
  | zero => simp [State.window, Nat.le_zero.1 hn]
  | succ m ih =>
    cases n with
    | zero => simpa [State.window] using hh (Nat.succ_pos m)
    | succ n =>
      have h0 : s.lin s.cs (s.ip + BitVec.ofNat 16 k) < s.par.memSize := hb 0 (Nat.succ_pos n)
      have := ih (k + 1) n (Nat.le_of_succ_le_succ hn)
        (fun j hj => by simpa [Nat.add_right_comm, Nat.add_assoc] using hb (j + 1) (Nat.succ_lt_succ hj))
        (fun h => by simpa [Nat.add_right_comm, Nat.add_assoc] using hh (Nat.succ_lt_succ h))
      simp only [State.window, if_pos h0, this, List.range_succ_eq_map, List.map_cons, List.map_map, Function.comp_def,
        Nat.succ_lt_succ_iff, Nat.add_zero]
      simp only [Nat.succ_eq_add_one, Nat.add_assoc, Nat.add_comm 1]

/-- The window of a fetch that finds exactly `n` bytes. -/
theorem State.window_of_fetches {s : State} {n : Nat} (h : s.Fetches n) :
    s.window 0 15 = (s.codeBytes n, if n < 15 then some (s.codeAt n) else none) := by
  simpa [State.codeBytes] using s.window_eq 15 0 n h.1 (by simpa using h.2.1) (by simpa using h.2.2)

/-- What a fetch that finds exactly `n` bytes answers. -/
theorem State.fetch_of_fetches {s : State} {n : Nat} (h : s.Fetches n) :
    s.fetch = fetchedOf (s.codeBytes n) (if n < 15 then some (s.codeAt n) else none) := by
  simp [State.fetch, State.window_of_fetches h]

end Sys2Proof.Machine
end

