-- ==== Sys2Proof/Laws/Flags.lean ====
section
/-! SUPPORT. The flag computations in the words of the spec. -/

namespace Sys2Proof.Machine

theorem parity_eq {n : Nat} (r : BitVec n) :
    parity (r.setWidth 8) = decide ((List.range 8).countP (fun i => r.getLsbD i) % 2 = 0) := by
  have e : List.range 8 = [0, 1, 2, 3, 4, 5, 6, 7] := rfl
  simp only [parity, e, List.countP_cons, List.countP_nil, BitVec.getLsbD_setWidth]
  cases r.getLsbD 0 <;> cases r.getLsbD 1 <;> cases r.getLsbD 2 <;> cases r.getLsbD 3 <;> cases r.getLsbD 4 <;>
    cases r.getLsbD 5 <;> cases r.getLsbD 6 <;> cases r.getLsbD 7 <;> rfl

theorem Flags.setSZP_shows {n : Nat} (f : Flags) (r : BitVec n) : (f.setSZP r).Shows r :=
  ⟨rfl, by simp [Flags.setSZP, beq_eq_decide], parity_eq r⟩

theorem getLsbD_four {n : Nat} (x : BitVec n) : x.getLsbD 4 = decide (x.toNat / 16 % 2 = 1) := by
  rw [BitVec.getLsbD, Nat.testBit_eq_decide_div_mod_eq]

/-- The three widths are numerals. -/
theorem Width.bits_cases (w : Width) : w.bits = 8 ∨ w.bits = 16 ∨ w.bits = 32 := by
  cases w <;> decide

/-- Bit 4 of a, b and their sum says whether there is a carry into it. -/
theorem carry_into_four (a b c r : Nat) (hc : c ≤ 1) (hr : r % 32 = (a + b + c) % 32) :
    (decide (a / 16 % 2 = 1) ^^ decide (b / 16 % 2 = 1) ^^ decide (r / 16 % 2 = 1)) =
      decide (16 ≤ a % 16 + b % 16 + c) := by
  by_cases h1 : a / 16 % 2 = 1 <;> by_cases h2 : b / 16 % 2 = 1 <;> by_cases h3 : r / 16 % 2 = 1 <;>
    simp only [h1, h2, h3, decide_true, decide_false, Bool.xor_false, Bool.xor_true, Bool.not_false, Bool.not_true] <;>
    symm <;> simp only [decide_eq_true_eq, decide_eq_false_iff_not] <;> omega

/-- Bit 4 of a, b and their difference says whether there is a borrow into it. -/
theorem borrow_into_four (a b c r : Nat) (hc : c ≤ 1) (hr : (r + b + c) % 32 = a % 32) :
    (decide (a / 16 % 2 = 1) ^^ decide (b / 16 % 2 = 1) ^^ decide (r / 16 % 2 = 1)) =
      decide (a % 16 < b % 16 + c) := by
  by_cases h1 : a / 16 % 2 = 1 <;> by_cases h2 : b / 16 % 2 = 1 <;> by_cases h3 : r / 16 % 2 = 1 <;>
    simp only [h1, h2, h3, decide_true, decide_false, Bool.xor_false, Bool.xor_true, Bool.not_false, Bool.not_true] <;>
    symm <;> simp only [decide_eq_true_eq, decide_eq_false_iff_not] <;> omega

theorem Flags.addFlags_afterN {n : Nat} (hn : n = 8 ∨ n = 16 ∨ n = 32) (f : Flags) (a b : BitVec n) (c : Bool) :
    f.AfterAdd (f.addFlags a b c) a b c (addc a b c) := by
  have ha := a.isLt
  have hb := b.isLt
  refine ⟨f.setSZP_shows _, rfl, ?_, ?_, rfl, rfl, rfl⟩
  · simp only [Flags.addFlags, BitVec.getLsbD_xor]
    simp only [getLsbD_four, addc, BitVec.toNat_add, BitVec.toNat_ofNat]
    have hc : c.toNat ≤ 1 := by cases c <;> decide
    refine carry_into_four _ _ _ _ hc ?_
    rcases hn with rfl | rfl | rfl <;> omega
  · simp only [Flags.addFlags, signedOverflow, BitVec.msb_eq_decide, BitVec.toInt_eq_toNat_cond, addc, BitVec.toNat_add,
      BitVec.toNat_ofNat]
    rcases hn with rfl | rfl | rfl <;> cases c <;> simp <;> rw [Bool.eq_iff_iff] <;> simp <;> omega

theorem Flags.subFlags_afterN {n : Nat} (hn : n = 8 ∨ n = 16 ∨ n = 32) (f : Flags) (a b : BitVec n) (c : Bool) :
    f.AfterSub (f.subFlags a b c) a b c (subb a b c) := by
  have ha := a.isLt
  have hb := b.isLt
  refine ⟨f.setSZP_shows _, rfl, ?_, ?_, rfl, rfl, rfl⟩
  · simp only [Flags.subFlags, BitVec.getLsbD_xor]
    simp only [getLsbD_four, subb, BitVec.toNat_sub, BitVec.toNat_ofNat]
    have hc : c.toNat ≤ 1 := by cases c <;> decide
    refine borrow_into_four _ _ _ _ hc ?_
    rcases hn with rfl | rfl | rfl <;> omega
  · simp only [Flags.subFlags, signedOverflow, BitVec.msb_eq_decide, BitVec.toInt_eq_toNat_cond, subb, BitVec.toNat_sub,
      BitVec.toNat_ofNat]
    rcases hn with rfl | rfl | rfl <;> cases c <;> simp <;> rw [Bool.eq_iff_iff] <;> simp <;> omega

end Sys2Proof.Machine
end

