-- ==== Sys2Proof/Laws/Fpu.lean ====
section
/-! SUPPORT. What the operations of the FPU's words, of its register stack and of the end of an FPU instruction do. -/

namespace Sys2Proof.Machine

/-! ### The status word -/

/-- The word of the fields of a word is the word. -/
theorem FpuStatus.image_ofImage (v : BitVec 16) : (FpuStatus.ofImage v).image = v := by
  apply BitVec.eq_of_getLsbD_eq
  intro i hi
  simp only [FpuStatus.image, FpuStatus.ofImage, BitVec.getLsbD_append, BitVec.getLsbD_ofBool, BitVec.getLsbD_extractLsb']
  interval_cases i <;> simp

theorem FpuStatus.image_top (w : FpuStatus) : w.image.extractLsb' 11 3 = w.top := by
  apply BitVec.eq_of_getLsbD_eq
  intro i hi
  simp only [FpuStatus.image, BitVec.getLsbD_append, BitVec.getLsbD_ofBool, BitVec.getLsbD_extractLsb', hi, decide_true,
    Bool.true_and]
  interval_cases i <;> simp

/-- The fields of the word of the fields are the fields. -/
theorem FpuStatus.ofImage_image (w : FpuStatus) : FpuStatus.ofImage w.image = w := by
  obtain ⟨ie, de, ze, oe, ue, pe, sf, es, c0, c1, c2, top, c3, b⟩ := w
  have e := FpuStatus.image_top ⟨ie, de, ze, oe, ue, pe, sf, es, c0, c1, c2, top, c3, b⟩
  simp only [FpuStatus.ofImage, e]
  simp only [FpuStatus.image, BitVec.getLsbD_append, BitVec.getLsbD_ofBool]
  simp

/-- ES and B recomputed are right. -/
theorem Fpu.summary_summed (f : Fpu) : f.summary.Summed := ⟨rfl, rfl⟩

/-- With every exception masked, ES is clear. -/
theorem Fpu.es_masked (f : Fpu) (h : f.Masked) : f.es = false := by
  have hc : ∀ j, j < 6 → f.cw.getLsbD j = true := fun j hj => by
    have := congrArg (fun x => x.getLsbD j) h
    simp only [BitVec.getLsbD_extractLsb', hj, decide_true, Bool.true_and, Nat.zero_add] at this
    rw [this]
    have : ∀ k : Fin 6, (0x3F#6).getLsbD k.val = true := by decide
    exact this ⟨j, hj⟩
  simp only [Fpu.es, hc 0 (by omega), hc 1 (by omega), hc 2 (by omega), hc 3 (by omega), hc 4 (by omega), hc 5 (by omega)]
  rfl

/-- The NaN that an operation of NaNs gives is one that 46_fpu_model.md R514 allows. -/
theorem nanOf_result (d : Nat) (a b : F80) : NanResult a b (nanOf d a b) := by
  simp only [NanResult, nanOf, F80.Below, F80.nanBelow, F80.payload, Bool.not_eq_true', Bool.and_eq_true, decide_eq_true_eq]
  split_ifs <;> grind

/-- The free value of an instruction's first result is of the bits 16 to 95 of its draw (notes/assumptions/7.md). -/
theorem getLsbD_drawF80 (d i : Nat) (h : i < 80) : (drawF80 d).getLsbD i = d.testBit (16 + i) := by
  simp only [drawF80, BitVec.getLsbD_ofNat, h, decide_true, Bool.true_and, Nat.testBit_shiftRight]

/-- The free value of an instruction's second result is of the bits from 112 on, none of them the first's. -/
theorem getLsbD_drawF80_drawSecond (d i : Nat) (h : i < 80) : (drawF80 (drawSecond d)).getLsbD i = d.testBit (112 + i) := by
  rw [getLsbD_drawF80 _ _ h, drawSecond, Nat.testBit_shiftRight, ← Nat.add_assoc]

/-- ES recomputed says whether an exception flag is set whose mask bit is clear (46_fpu_model.md R520). -/
theorem Fpu.es_eq (f : Fpu) : f.es = decide (f.sw &&& ~~~f.cw &&& 0x3F ≠ 0) := by
  have hm : ∀ i, i < 16 → (0x3F : BitVec 16).getLsbD i = decide (i < 6) := fun i hi =>
    (by decide : ∀ k : Fin 16, (0x3F : BitVec 16).getLsbD k.val = decide (k.val < 6)) ⟨i, hi⟩
  have hb : ∀ i, i < 16 → (f.sw &&& ~~~f.cw &&& 0x3F).getLsbD i = (f.sw.getLsbD i && !f.cw.getLsbD i && decide (i < 6)) := by
    intro i hi
    rw [BitVec.getLsbD_and, BitVec.getLsbD_and, BitVec.getLsbD_not, hm i hi]; simp [hi]
  have hs : f.sw.getLsbD 0 = f.status.ie ∧ f.sw.getLsbD 1 = f.status.de ∧ f.sw.getLsbD 2 = f.status.ze ∧
      f.sw.getLsbD 3 = f.status.oe ∧ f.sw.getLsbD 4 = f.status.ue ∧ f.sw.getLsbD 5 = f.status.pe := by
    refine ⟨?_, ?_, ?_, ?_, ?_, ?_⟩ <;>
      simp only [Fpu.sw, FpuStatus.image, BitVec.getLsbD_append, BitVec.getLsbD_ofBool] <;> simp
  obtain ⟨h0, h1, h2, h3, h4, h5⟩ := hs
  have e : f.sw &&& ~~~f.cw &&& 0x3F = 0 ↔ ∀ i, i < 6 → f.sw.getLsbD i = true → f.cw.getLsbD i = true := by
    constructor
    · intro h i hi hv
      have := hb i (by omega)
      rw [h, hv] at this
      simpa [hi] using this.symm
    · intro h
      apply BitVec.eq_of_getLsbD_eq
      intro i hi
      rw [hb i hi]
      by_cases h6 : i < 6
      · have := h i h6
        cases hv : f.sw.getLsbD i <;> simp_all
      · simp [h6]
  rw [Bool.eq_iff_iff, decide_eq_true_iff, Ne, e]
  constructor
  · intro h hall
    have a0 := hall 0 (by omega); have a1 := hall 1 (by omega); have a2 := hall 2 (by omega)
    have a3 := hall 3 (by omega); have a4 := hall 4 (by omega); have a5 := hall 5 (by omega)
    rw [h0] at a0; rw [h1] at a1; rw [h2] at a2; rw [h3] at a3; rw [h4] at a4; rw [h5] at a5
    simp only [Fpu.es, Bool.or_eq_true, Bool.and_eq_true, Bool.not_eq_true'] at h
    grind
  · intro h
    by_contra hn
    apply h
    simp only [Fpu.es, Bool.or_eq_true, Bool.and_eq_true, Bool.not_eq_true', not_or, not_and] at hn
    intro i hi hv
    interval_cases i <;> grind

/-! ### What an update leaves, field by field -/

@[simp] theorem Fpu.setTop_regs (f : Fpu) (t : BitVec 3) : (f.setTop t).regs = f.regs := rfl
@[simp] theorem Fpu.setTop_empty (f : Fpu) (t : BitVec 3) : (f.setTop t).empty = f.empty := rfl
@[simp] theorem Fpu.setTop_cw (f : Fpu) (t : BitVec 3) : (f.setTop t).cw = f.cw := rfl
@[simp] theorem Fpu.setTop_phReg (f : Fpu) (t : BitVec 3) : (f.setTop t).phReg = f.phReg := rfl
@[simp] theorem Fpu.setTop_phEmpty (f : Fpu) (t : BitVec 3) : (f.setTop t).phEmpty = f.phEmpty := rfl
@[simp] theorem Fpu.setTop_c1 (f : Fpu) (t : BitVec 3) : (f.setTop t).status.c1 = f.status.c1 := rfl
@[simp] theorem Fpu.setC0_regs (f : Fpu) (b : Bool) : (f.setC0 b).regs = f.regs := rfl
@[simp] theorem Fpu.setC0_empty (f : Fpu) (b : Bool) : (f.setC0 b).empty = f.empty := rfl
@[simp] theorem Fpu.setC0_cw (f : Fpu) (b : Bool) : (f.setC0 b).cw = f.cw := rfl
@[simp] theorem Fpu.setC0_phReg (f : Fpu) (b : Bool) : (f.setC0 b).phReg = f.phReg := rfl
@[simp] theorem Fpu.setC0_phEmpty (f : Fpu) (b : Bool) : (f.setC0 b).phEmpty = f.phEmpty := rfl
@[simp] theorem Fpu.setC0_top (f : Fpu) (b : Bool) : (f.setC0 b).top = f.top := rfl
@[simp] theorem Fpu.setC0_c1 (f : Fpu) (b : Bool) : (f.setC0 b).status.c1 = f.status.c1 := rfl
@[simp] theorem Fpu.setC1_regs (f : Fpu) (b : Bool) : (f.setC1 b).regs = f.regs := rfl
@[simp] theorem Fpu.setC1_empty (f : Fpu) (b : Bool) : (f.setC1 b).empty = f.empty := rfl
@[simp] theorem Fpu.setC1_cw (f : Fpu) (b : Bool) : (f.setC1 b).cw = f.cw := rfl
@[simp] theorem Fpu.setC1_phReg (f : Fpu) (b : Bool) : (f.setC1 b).phReg = f.phReg := rfl
@[simp] theorem Fpu.setC1_phEmpty (f : Fpu) (b : Bool) : (f.setC1 b).phEmpty = f.phEmpty := rfl
@[simp] theorem Fpu.setC1_top (f : Fpu) (b : Bool) : (f.setC1 b).top = f.top := rfl
@[simp] theorem Fpu.setC2_regs (f : Fpu) (b : Bool) : (f.setC2 b).regs = f.regs := rfl
@[simp] theorem Fpu.setC2_empty (f : Fpu) (b : Bool) : (f.setC2 b).empty = f.empty := rfl
@[simp] theorem Fpu.setC2_cw (f : Fpu) (b : Bool) : (f.setC2 b).cw = f.cw := rfl
@[simp] theorem Fpu.setC2_phReg (f : Fpu) (b : Bool) : (f.setC2 b).phReg = f.phReg := rfl
@[simp] theorem Fpu.setC2_phEmpty (f : Fpu) (b : Bool) : (f.setC2 b).phEmpty = f.phEmpty := rfl
@[simp] theorem Fpu.setC2_top (f : Fpu) (b : Bool) : (f.setC2 b).top = f.top := rfl
@[simp] theorem Fpu.setC2_c1 (f : Fpu) (b : Bool) : (f.setC2 b).status.c1 = f.status.c1 := rfl
@[simp] theorem Fpu.setC3_regs (f : Fpu) (b : Bool) : (f.setC3 b).regs = f.regs := rfl
@[simp] theorem Fpu.setC3_empty (f : Fpu) (b : Bool) : (f.setC3 b).empty = f.empty := rfl
@[simp] theorem Fpu.setC3_cw (f : Fpu) (b : Bool) : (f.setC3 b).cw = f.cw := rfl
@[simp] theorem Fpu.setC3_phReg (f : Fpu) (b : Bool) : (f.setC3 b).phReg = f.phReg := rfl
@[simp] theorem Fpu.setC3_phEmpty (f : Fpu) (b : Bool) : (f.setC3 b).phEmpty = f.phEmpty := rfl
@[simp] theorem Fpu.setC3_top (f : Fpu) (b : Bool) : (f.setC3 b).top = f.top := rfl
@[simp] theorem Fpu.setC3_c1 (f : Fpu) (b : Bool) : (f.setC3 b).status.c1 = f.status.c1 := rfl
@[simp] theorem Fpu.raiseExc_regs (f : Fpu) (x : BitVec 16) : (f.raiseExc x).regs = f.regs := rfl
@[simp] theorem Fpu.raiseExc_empty (f : Fpu) (x : BitVec 16) : (f.raiseExc x).empty = f.empty := rfl
@[simp] theorem Fpu.raiseExc_cw (f : Fpu) (x : BitVec 16) : (f.raiseExc x).cw = f.cw := rfl
@[simp] theorem Fpu.raiseExc_phReg (f : Fpu) (x : BitVec 16) : (f.raiseExc x).phReg = f.phReg := rfl
@[simp] theorem Fpu.raiseExc_phEmpty (f : Fpu) (x : BitVec 16) : (f.raiseExc x).phEmpty = f.phEmpty := rfl
@[simp] theorem Fpu.raiseExc_top (f : Fpu) (x : BitVec 16) : (f.raiseExc x).top = f.top := rfl
@[simp] theorem Fpu.raiseExc_c1 (f : Fpu) (x : BitVec 16) : (f.raiseExc x).status.c1 = f.status.c1 := rfl
@[simp] theorem Fpu.summary_regs (f : Fpu) : f.summary.regs = f.regs := rfl
@[simp] theorem Fpu.summary_empty (f : Fpu) : f.summary.empty = f.empty := rfl
@[simp] theorem Fpu.summary_cw (f : Fpu) : f.summary.cw = f.cw := rfl
@[simp] theorem Fpu.summary_phReg (f : Fpu) : f.summary.phReg = f.phReg := rfl
@[simp] theorem Fpu.summary_phEmpty (f : Fpu) : f.summary.phEmpty = f.phEmpty := rfl
@[simp] theorem Fpu.summary_top (f : Fpu) : f.summary.top = f.top := rfl
@[simp] theorem Fpu.summary_c1 (f : Fpu) : f.summary.status.c1 = f.status.c1 := rfl
@[simp] theorem Fpu.drawCodes_regs (f : Fpu) (d : Nat) : (f.drawCodes d).regs = f.regs := rfl
@[simp] theorem Fpu.drawCodes_empty (f : Fpu) (d : Nat) : (f.drawCodes d).empty = f.empty := rfl
@[simp] theorem Fpu.drawCodes_cw (f : Fpu) (d : Nat) : (f.drawCodes d).cw = f.cw := rfl
@[simp] theorem Fpu.drawCodes_phReg (f : Fpu) (d : Nat) : (f.drawCodes d).phReg = f.phReg := rfl
@[simp] theorem Fpu.drawCodes_phEmpty (f : Fpu) (d : Nat) : (f.drawCodes d).phEmpty = f.phEmpty := rfl
@[simp] theorem Fpu.drawCodes_top (f : Fpu) (d : Nat) : (f.drawCodes d).top = f.top := rfl
@[simp] theorem Fpu.setPointers_regs (f : Fpu) (a : Nat) (b : BitVec 11) (c : Option Nat) : (f.setPointers a b c).regs = f.regs := rfl
@[simp] theorem Fpu.setPointers_empty (f : Fpu) (a : Nat) (b : BitVec 11) (c : Option Nat) : (f.setPointers a b c).empty = f.empty := rfl
@[simp] theorem Fpu.setPointers_cw (f : Fpu) (a : Nat) (b : BitVec 11) (c : Option Nat) : (f.setPointers a b c).cw = f.cw := rfl
@[simp] theorem Fpu.setPointers_phReg (f : Fpu) (a : Nat) (b : BitVec 11) (c : Option Nat) : (f.setPointers a b c).phReg = f.phReg := rfl
@[simp] theorem Fpu.setPointers_phEmpty (f : Fpu) (a : Nat) (b : BitVec 11) (c : Option Nat) : (f.setPointers a b c).phEmpty = f.phEmpty := rfl
@[simp] theorem Fpu.setPointers_top (f : Fpu) (a : Nat) (b : BitVec 11) (c : Option Nat) : (f.setPointers a b c).top = f.top := rfl
@[simp] theorem Fpu.setPointers_c1 (f : Fpu) (a : Nat) (b : BitVec 11) (c : Option Nat) : (f.setPointers a b c).status.c1 = f.status.c1 := rfl
@[simp] theorem Fpu.setTop_top (f : Fpu) (t : BitVec 3) : (f.setTop t).top = t := rfl
@[simp] theorem Fpu.setC1_c1 (f : Fpu) (b : Bool) : (f.setC1 b).status.c1 = b := rfl
@[simp] theorem Fpu.drawCodes_c1 (f : Fpu) (d : Nat) : (f.drawCodes d).status.c1 = f.status.c1 := rfl
@[simp] theorem Fpu.setEmpty_regs (f : Fpu) (j : BitVec 3) (b : Bool) : (f.setEmpty j b).regs = f.regs := rfl
@[simp] theorem Fpu.setEmpty_status (f : Fpu) (j : BitVec 3) (b : Bool) : (f.setEmpty j b).status = f.status := rfl
@[simp] theorem Fpu.setEmpty_cw (f : Fpu) (j : BitVec 3) (b : Bool) : (f.setEmpty j b).cw = f.cw := rfl
@[simp] theorem Fpu.setEmpty_phReg (f : Fpu) (j : BitVec 3) (b : Bool) : (f.setEmpty j b).phReg = f.phReg := rfl
@[simp] theorem Fpu.setEmpty_top (f : Fpu) (j : BitVec 3) (b : Bool) : (f.setEmpty j b).top = f.top := rfl
@[simp] theorem Fpu.setSt_status (f : Fpu) (i : BitVec 3) (v : F80) : (f.setSt i v).status = f.status := rfl
@[simp] theorem Fpu.pop_c1 (f : Fpu) : f.pop.status.c1 = f.status.c1 := rfl

/-! ### The register stack -/

theorem Fpu.phEmpty_setEmpty (f : Fpu) (j : BitVec 3) (b : Bool) :
    (f.setEmpty j b).phEmpty = Function.update f.phEmpty j b := by
  funext k
  have key : ∀ (e : BitVec 8) (j k : BitVec 3) (b : Bool),
      (if b then e ||| (1#8 <<< j.toNat) else e &&& ~~~(1#8 <<< j.toNat)).getLsbD k.toNat =
        if k = j then b else e.getLsbD k.toNat := by
    intro e j k b
    have hk : k.toNat < 8 := k.isLt
    have hj : j.toNat < 8 := j.isLt
    by_cases h : k = j
    · subst h; cases b <;> simp [hk]
    · have hn : k.toNat ≠ j.toNat := fun e => h (BitVec.eq_of_toNat_eq e)
      rw [if_neg h]
      by_cases h2 : k.toNat < j.toNat
      · cases b <;> simp [h2, hk]
      · have : k.toNat - j.toNat ≠ 0 := by omega
        cases b <;> simp [this, hk]
  rw [Function.update_apply]
  exact key f.empty j k b

/-- `WriteST(i, v)` writes one physical register and makes it not empty. -/
theorem Fpu.setSt_replaced (f : Fpu) (i : BitVec 3) (v : F80) : f.Replaced (f.setSt i v) i v := by
  refine ⟨rfl, rfl, fun k => ⟨?_, ?_⟩⟩
  · show (f.regs.set (f.phys i).toNat v (f.phys i).isLt)[k.toNat]'k.isLt = Function.update f.phReg (f.top + i) v k
    rw [Vector.getElem_set, Function.update_apply]
    by_cases h : k = f.top + i
    · subst h; simp [Fpu.phys]
    · have hn : (f.phys i).toNat ≠ k.toNat := fun e => h (BitVec.eq_of_toNat_eq e).symm
      rw [if_neg hn, if_neg h]; rfl
  · exact congrFun (Fpu.phEmpty_setEmpty { f with regs := f.regs.set (f.phys i).toNat v (f.phys i).isLt } (f.phys i) false) k

/-- `FPop()` moves TOP up and makes one register empty; its bits stay. -/
theorem Fpu.pop_stackIs (f : Fpu) : f.StackIs f.pop (f.top + 1) f.phReg (Function.update f.phEmpty f.top true) :=
  ⟨rfl, rfl, fun k => ⟨rfl, congrFun (Fpu.phEmpty_setEmpty f f.top true) k⟩⟩

/-- A push on a register that is empty. -/
theorem Fpu.pushRaw_pushed (f : Fpu) (v : F80) : f.Pushed (f.pushRaw v) v := by
  obtain ⟨h1, h2, h3⟩ := Fpu.setSt_replaced (f.setTop (f.top - 1)) 0 v
  have e : f.top - 1 + 0 = f.top - 1 := BitVec.eq_of_toNat_eq (by simp)
  simp only [Fpu.setTop_top, e] at h2 h3
  exact ⟨h1, h2, h3⟩

/-! ### Results -/

/-- The exception flags IE to SF are bits 0 to 6 of SW. -/
theorem Fpu.sw_flags (f : Fpu) (v : BitVec 16) (h : ∀ i, i < 7 → f.sw.getLsbD i = v.getLsbD i) :
    f.sw &&& 0x7F = v &&& 0x7F := by
  apply BitVec.eq_of_getLsbD_eq
  intro i hi
  have hm : (0x7F#16).getLsbD i = decide (i < 7) := by
    have : ∀ k : Fin 16, (0x7F#16).getLsbD k.val = decide (k.val < 7) := by decide
    exact this ⟨i, hi⟩
  rw [BitVec.getLsbD_and, BitVec.getLsbD_and]
  show (f.sw.getLsbD i && (0x7F#16).getLsbD i) = (v.getLsbD i && (0x7F#16).getLsbD i)
  rw [hm]
  by_cases h7 : i < 7
  · rw [h i h7]
  · simp [h7]

/-- Exception flags set show in SW, and C1 stands as it is set. -/
theorem Fpu.raiseExc_flagged (f : Fpu) (x : BitVec 16) (c : Bool) (t : BitVec 3) :
    f.Flagged (((f.raiseExc x).setC1 c).setTop t) x c := by
  refine ⟨Fpu.sw_flags _ _ fun i hi => ?_, rfl⟩
  simp only [Fpu.sw, FpuStatus.image, Fpu.raiseExc, Fpu.setC1, Fpu.setTop, BitVec.getLsbD_append, BitVec.getLsbD_ofBool,
    BitVec.getLsbD_or]
  interval_cases i <;> simp

/-- The result of an operation delivered: its flags and C1, and its value written, then perhaps a pop. -/
theorem Fpu.deliver_takes (f : Fpu) (r : FRes F80) (i : BitVec 3) (pops : Bool) (h : r.res ≠ none) :
    f.Takes (f.deliver r i pops) r i pops := by
  obtain ⟨exc, res, c1⟩ := r
  cases res with
  | none => exact absurd rfl h
  | some v =>
    have key := f.raiseExc_flagged exc c1
    have hs := Fpu.setSt_replaced ((f.raiseExc exc).setC1 c1) i v
    cases pops with
    | false => exact ⟨key f.top, v, rfl, hs⟩
    | true =>
      refine ⟨key (f.top + 1), v, rfl, ?_⟩
      obtain ⟨h1, h2, h3⟩ := hs
      refine ⟨h1, rfl, fun k => ⟨(h3 k).1, ?_⟩⟩
      have e : (((f.raiseExc exc).setC1 c1).setSt i v).phEmpty = Function.update f.phEmpty (f.top + i) false :=
        funext fun k => (h3 k).2
      rw [← e]
      exact congrFun (Fpu.phEmpty_setEmpty (((f.raiseExc exc).setC1 c1).setSt i v) f.top true) k

/-! ### The end of an FPU instruction -/

/-- Without an unmasked exception the instruction commits, with the pointers and ES and B brought up to date. -/
theorem State.fpuEnd_masked (s : State) (i : Instr) (fdp : Option Nat) (h : s.fpu.Masked) :
    s.fpuEnd i fdp =
      .ok (s.setFpu (s.fpu.setPointers (s.lin s.ctx.startCs s.ctx.startIp) (fopOf i) fdp).summary).commit := by
  have e : (s.fpu.setPointers (s.lin s.ctx.startCs s.ctx.startIp) (fopOf i) fdp).summary.es = false :=
    Fpu.es_masked _ h
  unfold State.fpuEnd
  simp only [e]
  rfl

/-- An instruction that ends by `fpuEnd` from a state that is `s` but for the FPU, memory and the counter of the free values, with
CW and FDP as before, ends so under any exception masks. -/
theorem State.fpuEnd_ends (s u : State) (i : Instr) (fdp : Option Nat) (P : State → Prop)
    (hu : u = { s with fpu := u.fpu, mem := u.mem, draws := u.draws }) (hcw : u.fpu.cw = s.fpu.cw)
    (hfdp : u.fpu.fdp = s.fpu.fdp) (h : exec i s = finish (u.fpuEnd i fdp))
    (hP : P (u.setFpu (u.fpu.setPointers (s.lin s.ctx.startCs s.ctx.startIp) (fopOf i) fdp).summary)) :
    s.FpuEnds i fdp P := by
  have hlin : u.lin u.ctx.startCs u.ctx.startIp = s.lin s.ctx.startCs s.ctx.startIp := by rw [hu]; rfl
  have hpar : u.par = s.par := by rw [hu]
  have hctx : u.ctx = s.ctx := by rw [hu]
  have hes : (u.fpu.setPointers (s.lin s.ctx.startCs s.ctx.startIp) (fopOf i) fdp).summary.es =
      decide ((u.fpu.setPointers (s.lin s.ctx.startCs s.ctx.startIp) (fopOf i) fdp).summary.sw &&& ~~~s.fpu.cw &&& 0x3F ≠ 0) :=
    by
    rw [Fpu.es_eq, ← hcw]; rfl
  have key : exec i s = .next (if (u.fpu.setPointers (s.lin s.ctx.startCs s.ctx.startIp) (fopOf i) fdp).summary.es then
      (u.setFpu (u.fpu.setPointers (s.lin s.ctx.startCs s.ctx.startIp) (fopOf i) fdp).summary).dispatch s.par.fpuVector
        s.ctx.nextIp
      else { u.setFpu (u.fpu.setPointers (s.lin s.ctx.startCs s.ctx.startIp) (fopOf i) fdp).summary with
        ip := s.ctx.nextIp, shadow := false }) := by
    rw [h, State.fpuEnd, hlin, hpar, hctx]
    dsimp only
    split
    · rfl
    · simp only [finish_ok, State.commit, State.setFpu, hctx]
  refine ⟨u.setFpu (u.fpu.setPointers (s.lin s.ctx.startCs s.ctx.startIp) (fopOf i) fdp).summary, ?_, hcw, ⟨rfl, rfl, ?_⟩, hP,
    hes, hes, ?_, fun hm => ?_⟩
  · rw [hu]; rfl
  · cases fdp with
    | none => exact hfdp
    | some a => rfl
  · rw [hes] at key
    exact key
  · rw [h, State.fpuEnd_masked u i fdp (by rw [Fpu.Masked, hcw]; exact hm), hlin]
    simp [finish, State.commit, State.setFpu, Exec.final, hctx]

end Sys2Proof.Machine
end

