-- ==== Sys2Proof/Laws/Operands.lean ====
section
/-! SUPPORT. What the operand operations answer when their accesses are backed by memory. -/

namespace Sys2Proof.Machine

theorem State.readRM_reaches (s : State) (p : Prefixes) (w : Width) (rm : RM) (h : s.Reaches p w rm) :
    s.readRM p w rm = .ok (s.operand p w rm) := by
  cases rm with
  | reg r => rfl
  | mem m => exact s.linReadW_backed w _ h

/-- A register write changes the general registers alone. -/
theorem State.setReg_eq (s : State) (w : Width) (r : BitVec 3) (v : BitVec w.bits) :
    s.setReg w r v = { s with gpr := (s.setReg w r v).gpr } := by
  cases w
  · show s.setR8 r v = { s with gpr := (s.setR8 r v).gpr }
    unfold State.setR8
    split <;> rfl
  · rfl
  · rfl

/-- A write of an operand changes the general registers or memory alone, as `Writes` says. -/
theorem State.writeRM_reaches (s : State) (p : Prefixes) (w : Width) (rm : RM) (v : BitVec w.bits)
    (h : s.Reaches p w rm) :
    ∃ g m, s.writeRM p w rm v = .ok { s with gpr := g, mem := m } ∧ s.Writes { s with gpr := g, mem := m } p w rm v := by
  cases rm with
  | reg r => exact ⟨(s.setReg w r v).gpr, s.mem, by rw [State.writeRM, ← s.setReg_eq], rfl, rfl⟩
  | mem m =>
    obtain ⟨m', h1, h2⟩ := s.linWrite_stores (s.memAddr p m) w.bytes v.toNat h (by cases w <;> decide)
    exact ⟨s.gpr, m', h1, rfl, h2⟩

theorem State.aluSrc_reaches (s : State) (p : Prefixes) (f : AluForm) (h : s.Reaches p (f.width p) f.rmOf) :
    s.aluSrc p f = .ok (s.source p f) := by
  cases f <;> first | rfl | exact s.readRM_reaches _ _ _ h

theorem State.dst_reaches (s : State) (p : Prefixes) (f : AluForm) (h : s.Reaches p (f.width p) f.rmOf) :
    s.Reaches p (f.width p) f.dst := by
  cases f <;> first | exact h | exact trivial

/-- An ALU instruction whose operand is backed: the result is written, the flags are set, and the instruction commits. -/
theorem State.aluWrite_reaches (s : State) (p : Prefixes) (f : AluForm)
    (op : BitVec (f.width p).bits → BitVec (f.width p).bits → BitVec (f.width p).bits × Flags)
    (h : s.Reaches p (f.width p) f.rmOf) :
    ∃ t, s.aluWrite p f op = .ok t ∧ s.Commits t ∧ t.draws = s.draws ∧
      s.Writes t p (f.width p) f.dst (op (s.operand p (f.width p) f.dst) (s.source p f)).1 ∧
      t.flags = (op (s.operand p (f.width p) f.dst) (s.source p f)).2 := by
  have hd := s.dst_reaches p f h
  obtain ⟨g, m, h1, h2⟩ := s.writeRM_reaches p (f.width p) f.dst
    (op (s.operand p (f.width p) f.dst) (s.source p f)).1 hd
  have e : s.aluWrite p f op = .ok (State.commit { s with
      gpr := g, mem := m, flags := (op (s.operand p (f.width p) f.dst) (s.source p f)).2 }) := by
    rw [State.aluWrite, s.readRM_reaches p _ _ hd, s.aluSrc_reaches p f h, Exec.ok_bind, Exec.ok_bind, h1]
    rfl
  refine ⟨_, e, rfl, rfl, ?_, rfl⟩
  revert h2
  generalize (op (s.operand p (f.width p) f.dst) (s.source p f)).1 = v
  cases f.dst <;> exact id

/-- An instruction of one operand that is read and written. -/
theorem State.unary_reaches (s : State) (p : Prefixes) (w : Width) (rm : RM) (op : BitVec w.bits → BitVec w.bits × Flags)
    (h : s.Reaches p w rm) :
    ∃ t, s.unary p w rm op = .ok t ∧ s.Commits t ∧ t.draws = s.draws ∧
      s.Writes t p w rm (op (s.operand p w rm)).1 ∧ t.flags = (op (s.operand p w rm)).2 := by
  obtain ⟨g, m, h1, h2⟩ := s.writeRM_reaches p w rm (op (s.operand p w rm)).1 h
  have e : s.unary p w rm op = .ok (State.commit { s with gpr := g, mem := m, flags := (op (s.operand p w rm)).2 }) := by
    rw [State.unary, s.readRM_reaches p _ _ h, Exec.ok_bind, h1]
    rfl
  refine ⟨_, e, rfl, rfl, ?_, rfl⟩
  revert h2
  generalize (op (s.operand p w rm)).1 = v
  cases rm <;> exact id

/-- A load into a register. -/
theorem State.loadReg_reaches (s : State) (p : Prefixes) (w : Width) (r : BitVec 3) (rm : RM) (h : s.Reaches p w rm) :
    s.loadReg p w r rm = .ok (s.setReg w r (s.operand p w rm)).commit := by
  rw [State.loadReg, s.readRM_reaches p w rm h]; rfl

/-- A store to an operand. -/
theorem State.storeRM_reaches (s : State) (p : Prefixes) (w : Width) (rm : RM) (v : BitVec w.bits)
    (h : s.Reaches p w rm) :
    ∃ t, s.storeRM p w rm v = .ok t ∧ s.Commits t ∧ t.draws = s.draws ∧ t.flags = s.flags ∧ s.Writes t p w rm v := by
  obtain ⟨g, m, h1, h2⟩ := s.writeRM_reaches p w rm v h
  have e : s.storeRM p w rm v = .ok (State.commit { s with gpr := g, mem := m }) := by
    rw [State.storeRM, h1]
    rfl
  refine ⟨_, e, rfl, rfl, rfl, ?_⟩
  revert h2
  cases rm <;> exact id

end Sys2Proof.Machine
end

