-- ==== Sys2Proof/Laws/PerInstr.lean ====
section
/-! SUPPORT. Laws stated for each instruction: EncodeLength says that its encoding is between 1 and 15 bytes long
(30_encoding.md R146). -/

namespace Sys2Proof.Laws.EncodeLength

/-- The encoding has an opcode, and no more than 15 bytes. -/
def Statement (i : Instr) : Prop := 1 ≤ (bodyBytes i).length ∧ (encode i).length ≤ 15

/-- Between 1 and 11 bytes. -/
abbrev Fits (l : List Byte) : Prop := 1 ≤ l.length ∧ l.length ≤ 11

theorem prefixBytes_length (p : Prefixes) : (prefixBytes p).length ≤ 4 := by
  obtain ⟨seg, os32, lock, rep⟩ := p
  cases seg with
  | none => cases os32 <;> cases lock <;> cases rep with
    | none => decide
    | some r => cases r <;> decide
  | some q => cases q <;> cases os32 <;> cases lock <;> cases rep with
    | none => decide
    | some r => cases r <;> decide

theorem of_body {i : Instr} (h : Fits (bodyBytes i)) : Statement i := by
  refine ⟨h.1, ?_⟩
  have := prefixBytes_length i.prefixes
  simp only [encode, List.length_append]
  omega

theorem wordBytes_length (w : Word) : (wordBytes w).length = 2 := rfl

theorem memBytes_length (r : BitVec 3) (m : Mem) : (memBytes r m).length ≤ 3 := by cases m <;> simp [memBytes, wordBytes_length]

theorem rmBytes_length (r : BitVec 3) (rm : RM) : (rmBytes r rm).length ≤ 3 := by
  cases rm with
  | reg _ => simp [rmBytes]
  | mem m => exact memBytes_length r m

theorem izBytes_length (p : Prefixes) (i : DWord) : (izBytes p i).length ≤ 4 := by
  unfold izBytes; split <;> simp [dwordBytes, wordBytes_length]

theorem fits_one (a : Byte) : Fits [a] := ⟨by simp, by simp⟩

theorem fits_pair (a b : Byte) : Fits [a, b] := ⟨by simp, by simp⟩

theorem fits_word1 (a : Byte) (w : Word) (b : Byte) : Fits (a :: wordBytes w ++ [b]) :=
  ⟨by simp, by simp [wordBytes_length]⟩

theorem fits_word (a : Byte) (w : Word) : Fits (a :: wordBytes w) := ⟨by simp, by simp [wordBytes_length]⟩

/-- One byte before a ModRM operand, and an immediate after it. -/
theorem fits_rm (b : Byte) (r : BitVec 3) (rm : RM) (l : List Byte) (h : l.length ≤ 4) : Fits (b :: rmBytes r rm ++ l) := by
  have := rmBytes_length r rm
  constructor <;> simp only [List.length_append, List.length_cons] <;> omega

theorem fits_rm0 (b : Byte) (r : BitVec 3) (rm : RM) : Fits (b :: rmBytes r rm) := by
  have := rmBytes_length r rm
  constructor <;> simp only [List.length_cons] <;> omega

theorem fits_mem (b : Byte) (r : BitVec 3) (m : Mem) : Fits (b :: memBytes r m) := by
  have := memBytes_length r m
  constructor <;> simp only [List.length_cons] <;> omega

theorem fits_iz (b : Byte) (p : Prefixes) (i : DWord) (l : List Byte) (h : l.length ≤ 4) : Fits (b :: izBytes p i ++ l) := by
  have := izBytes_length p i
  constructor <;> simp only [List.length_append, List.length_cons] <;> omega

theorem fits_iz0 (b : Byte) (p : Prefixes) (i : DWord) : Fits (b :: izBytes p i) := by
  have := izBytes_length p i
  constructor <;> simp only [List.length_cons] <;> omega

theorem fits_two (a b : Byte) (r : BitVec 3) (rm : RM) (l : List Byte) (h : l.length ≤ 4) :
    Fits ([a, b] ++ rmBytes r rm ++ l) := by
  have := rmBytes_length r rm
  constructor <;> simp only [List.length_append, List.length_cons, List.length_nil] <;> omega

theorem fits_two0 (a b : Byte) (r : BitVec 3) (rm : RM) : Fits ([a, b] ++ rmBytes r rm) := by
  have := rmBytes_length r rm
  constructor <;> simp only [List.length_append, List.length_cons, List.length_nil] <;> omega

theorem fits_twoMem (a b : Byte) (r : BitVec 3) (m : Mem) : Fits ([a, b] ++ memBytes r m) := by
  have := memBytes_length r m
  constructor <;> simp only [List.length_append, List.length_cons, List.length_nil] <;> omega

theorem fits_twoIz (a b : Byte) (p : Prefixes) (i : DWord) : Fits ([a, b] ++ izBytes p i) := by
  have := izBytes_length p i
  constructor <;> simp only [List.length_append, List.length_cons, List.length_nil] <;> omega

theorem aluFormBytes_fits (k : BitVec 3) (p : Prefixes) (f : AluForm) : Fits (aluFormBytes k p f) :=
  match f with
  | .ebGb _ _ => fits_rm0 _ _ _
  | .evGv _ _ => fits_rm0 _ _ _
  | .gbEb _ _ => fits_rm0 _ _ _
  | .gvEv _ _ => fits_rm0 _ _ _
  | .alIb _ => fits_pair _ _
  | .eaxIz _ => fits_iz0 _ _ _
  | .ebIb _ _ => fits_rm _ _ _ _ (Nat.le_of_ble_eq_true rfl)
  | .evIz _ _ => fits_rm _ _ _ _ (izBytes_length _ _)
  | .ebIb82 _ _ => fits_rm _ _ _ _ (Nat.le_of_ble_eq_true rfl)
  | .evIbs _ _ => fits_rm _ _ _ _ (Nat.le_of_ble_eq_true rfl)

theorem movFormBytes_fits (p : Prefixes) (f : MovForm) : Fits (movFormBytes p f) :=
  match f with
  | .ebGb _ _ => fits_rm0 _ _ _
  | .evGv _ _ => fits_rm0 _ _ _
  | .gbEb _ _ => fits_rm0 _ _ _
  | .gvEv _ _ => fits_rm0 _ _ _
  | .gbIb _ _ => fits_pair _ _
  | .gvIz _ _ => fits_iz0 _ _ _
  | .ebIb _ _ => fits_rm _ _ _ _ (Nat.le_of_ble_eq_true rfl)
  | .evIz _ _ => fits_rm _ _ _ _ (izBytes_length _ _)

theorem moffsFormBytes_fits (f : MoffsForm) : Fits (moffsFormBytes f) :=
  match f with
  | .alOb _ => fits_word _ _
  | .eaxOv _ => fits_word _ _
  | .obAl _ => fits_word _ _
  | .ovEax _ => fits_word _ _

theorem xchgFormBytes_fits (f : XchgForm) : Fits (xchgFormBytes f) :=
  match f with
  | .ebGb _ _ => fits_rm0 _ _ _
  | .evGv _ _ => fits_rm0 _ _ _
  | .eaxGv _ => fits_one _

theorem pushFormBytes_fits (f : StackForm) : Fits (pushFormBytes f) :=
  match f with
  | .reg _ => fits_one _
  | .rm _ => fits_rm0 _ _ _

theorem popFormBytes_fits (f : StackForm) : Fits (popFormBytes f) :=
  match f with
  | .reg _ => fits_one _
  | .rm _ => fits_rm0 _ _ _

theorem incFormBytes_fits (k : BitVec 3) (b : BitVec 5) (f : IncForm) : Fits (incFormBytes k b f) :=
  match f with
  | .eb _ => fits_rm0 _ _ _
  | .ev _ => fits_rm0 _ _ _
  | .reg _ => fits_one _

theorem group3Bytes_fits (k : BitVec 3) (f : EForm) : Fits (group3Bytes k f) :=
  match f with
  | .eb _ => fits_rm0 _ _ _
  | .ev _ => fits_rm0 _ _ _

theorem testFormBytes_fits (p : Prefixes) (f : TestForm) : Fits (testFormBytes p f) :=
  match f with
  | .ebGb _ _ => fits_rm0 _ _ _
  | .evGv _ _ => fits_rm0 _ _ _
  | .alIb _ => fits_pair _ _
  | .eaxIz _ => fits_iz0 _ _ _
  | .ebIb _ _ => fits_rm _ _ _ _ (Nat.le_of_ble_eq_true rfl)
  | .evIz _ _ => fits_rm _ _ _ _ (izBytes_length _ _)

theorem shiftBytes_fits (k : BitVec 3) (f : EForm) (n : ShiftCount) : Fits (shiftBytes k f n) :=
  match f, n with
  | .eb _, .imm _ => fits_rm _ _ _ _ (Nat.le_of_ble_eq_true rfl)
  | .ev _, .imm _ => fits_rm _ _ _ _ (Nat.le_of_ble_eq_true rfl)
  | .eb _, .one => fits_rm0 _ _ _
  | .ev _, .one => fits_rm0 _ _ _
  | .eb _, .cl => fits_rm0 _ _ _
  | .ev _, .cl => fits_rm0 _ _ _

theorem dblBytes_fits (a b : Byte) (rm : RM) (r : BitVec 3) (f : DblCount) : Fits (dblBytes a b rm r f) :=
  match f with
  | .imm _ => fits_two _ _ _ _ _ (Nat.le_of_ble_eq_true rfl)
  | .cl => fits_two0 _ _ _ _

theorem bitBytes_fits (a : Byte) (k : BitVec 3) (rm : RM) (f : BitIndex) : Fits (bitBytes a k rm f) :=
  match f with
  | .reg _ => fits_two0 _ _ _ _
  | .imm _ => fits_two _ _ _ _ _ (Nat.le_of_ble_eq_true rfl)

theorem portBytes_fits (a b : Byte) (f : Port) : Fits (portBytes a b f) :=
  match f with
  | .imm _ => fits_pair _ _
  | .dx => fits_one _

theorem fArithBytes_fits (k j : BitVec 3) (f : FArith) : Fits (fArithBytes k j f) :=
  match f with
  | .m32 _ => fits_mem _ _ _
  | .m64 _ => fits_mem _ _ _
  | .st0 _ => fits_pair _ _
  | .sti _ => fits_pair _ _

theorem fIntBytes_fits (a b : Byte) (k : BitVec 3) (f : FInt) : Fits (fIntBytes a b k f) :=
  match f with
  | .m16 _ => fits_mem _ _ _
  | .m32 _ => fits_mem _ _ _

theorem fCmpBytes_fits (k : BitVec 3) (f : FCmp) : Fits (fCmpBytes k f) :=
  match f with
  | .m32 _ => fits_mem _ _ _
  | .m64 _ => fits_mem _ _ _
  | .st _ => fits_pair _ _

theorem fLoadBytes_fits (f : FLoad) : Fits (fLoadBytes f) :=
  match f with
  | .m32 _ => fits_mem _ _ _
  | .m64 _ => fits_mem _ _ _
  | .m80 _ => fits_mem _ _ _
  | .st _ => fits_pair _ _

theorem fStoreBytes_fits (f : FStore) : Fits (fStoreBytes f) :=
  match f with
  | .m32 _ => fits_mem _ _ _
  | .m64 _ => fits_mem _ _ _
  | .st _ => fits_pair _ _

theorem fStorePBytes_fits (f : FStoreP) : Fits (fStorePBytes f) :=
  match f with
  | .m32 _ => fits_mem _ _ _
  | .m64 _ => fits_mem _ _ _
  | .m80 _ => fits_mem _ _ _
  | .st _ => fits_pair _ _

theorem fInt3Bytes_fits (a b c : BitVec 3) (f : FInt3) : Fits (fInt3Bytes a b c f) :=
  match f with
  | .m16 _ => fits_mem _ _ _
  | .m32 _ => fits_mem _ _ _
  | .m64 _ => fits_mem _ _ _

theorem immFormBytes_fits (a b : Byte) (p : Prefixes) (f : ImmForm) : Fits (immFormBytes a b [] p f) := by
  cases f with
  | iz i => exact fits_iz0 _ _ _
  | ibs i => exact fits_pair _ _

theorem immFormBytes_rm_fits (a b : Byte) (r : BitVec 3) (rm : RM) (p : Prefixes) (f : ImmForm) :
    Fits (immFormBytes a b (rmBytes r rm) p f) := by
  cases f with
  | iz i => exact fits_rm _ _ _ _ (izBytes_length p i)
  | ibs i => exact fits_rm _ _ _ _ (by simp)

theorem mov (p : Prefixes) (f : MovForm) : Statement (.mov p f) :=
  of_body (movFormBytes_fits _ _)

theorem movMoffs (p : Prefixes) (f : MoffsForm) : Statement (.movMoffs p f) :=
  of_body (moffsFormBytes_fits _)

theorem movFromSeg (p : Prefixes) (rm : RM) (sr : SegReg) : Statement (.movFromSeg p rm sr) :=
  of_body (fits_rm0 _ _ _)

theorem movToSeg (p : Prefixes) (sr : SegReg) (rm : RM) : Statement (.movToSeg p sr rm) :=
  of_body (fits_rm0 _ _ _)

theorem xchg (p : Prefixes) (f : XchgForm) : Statement (.xchg p f) :=
  of_body (xchgFormBytes_fits _)

theorem push (p : Prefixes) (f : StackForm) : Statement (.push p f) :=
  of_body (pushFormBytes_fits _)

theorem pushImm (p : Prefixes) (f : ImmForm) : Statement (.pushImm p f) :=
  of_body (immFormBytes_fits _ _ _ _)

theorem pushSeg (p : Prefixes) (sr : SegReg) : Statement (.pushSeg p sr) :=
  of_body (fits_one _)

theorem pushFs (p : Prefixes) : Statement (.pushFs p) :=
  of_body (fits_pair _ _)

theorem pushGs (p : Prefixes) : Statement (.pushGs p) :=
  of_body (fits_pair _ _)

theorem pop (p : Prefixes) (f : StackForm) : Statement (.pop p f) :=
  of_body (popFormBytes_fits _)

theorem popSeg (p : Prefixes) (sr : SegReg) : Statement (.popSeg p sr) :=
  of_body (fits_one _)

theorem popFs (p : Prefixes) : Statement (.popFs p) :=
  of_body (fits_pair _ _)

theorem popGs (p : Prefixes) : Statement (.popGs p) :=
  of_body (fits_pair _ _)

theorem pusha (p : Prefixes) : Statement (.pusha p) :=
  of_body (fits_one _)

theorem popa (p : Prefixes) : Statement (.popa p) :=
  of_body (fits_one _)

theorem pushf (p : Prefixes) : Statement (.pushf p) :=
  of_body (fits_one _)

theorem popf (p : Prefixes) : Statement (.popf p) :=
  of_body (fits_one _)

theorem lds (p : Prefixes) (r : BitVec 3) (m : Mem) : Statement (.lds p r m) :=
  of_body (fits_mem _ _ _)

theorem les (p : Prefixes) (r : BitVec 3) (m : Mem) : Statement (.les p r m) :=
  of_body (fits_mem _ _ _)

theorem lss (p : Prefixes) (r : BitVec 3) (m : Mem) : Statement (.lss p r m) :=
  of_body (fits_twoMem _ _ _ _)

theorem lfs (p : Prefixes) : Statement (.lfs p) :=
  of_body (fits_pair _ _)

theorem lgs (p : Prefixes) : Statement (.lgs p) :=
  of_body (fits_pair _ _)

theorem lea (p : Prefixes) (r : BitVec 3) (m : Mem) : Statement (.lea p r m) :=
  of_body (fits_mem _ _ _)

theorem xlat (p : Prefixes) : Statement (.xlat p) :=
  of_body (fits_one _)

theorem lahf (p : Prefixes) : Statement (.lahf p) :=
  of_body (fits_one _)

theorem sahf (p : Prefixes) : Statement (.sahf p) :=
  of_body (fits_one _)

theorem cbw (p : Prefixes) : Statement (.cbw p) :=
  of_body (fits_one _)

theorem cwd (p : Prefixes) : Statement (.cwd p) :=
  of_body (fits_one _)

theorem movzx (p : Prefixes) (r : BitVec 3) (wide : Bool) (rm : RM) : Statement (.movzx p r wide rm) :=
  of_body (fits_two0 _ _ _ _)

theorem movsx (p : Prefixes) (r : BitVec 3) (wide : Bool) (rm : RM) : Statement (.movsx p r wide rm) :=
  of_body (fits_two0 _ _ _ _)

theorem inPort (p : Prefixes) (wide : Bool) (src : Port) : Statement (.inPort p wide src) :=
  by
  cases wide <;> exact of_body (portBytes_fits _ _ _)

theorem outPort (p : Prefixes) (wide : Bool) (dst : Port) : Statement (.outPort p wide dst) :=
  by
  cases wide <;> exact of_body (portBytes_fits _ _ _)

theorem add (p : Prefixes) (f : AluForm) : Statement (.add p f) :=
  of_body (aluFormBytes_fits _ _ _)

theorem adc (p : Prefixes) (f : AluForm) : Statement (.adc p f) :=
  of_body (aluFormBytes_fits _ _ _)

theorem sub (p : Prefixes) (f : AluForm) : Statement (.sub p f) :=
  of_body (aluFormBytes_fits _ _ _)

theorem sbb (p : Prefixes) (f : AluForm) : Statement (.sbb p f) :=
  of_body (aluFormBytes_fits _ _ _)

theorem cmp (p : Prefixes) (f : AluForm) : Statement (.cmp p f) :=
  of_body (aluFormBytes_fits _ _ _)

theorem inc (p : Prefixes) (f : IncForm) : Statement (.inc p f) :=
  of_body (incFormBytes_fits _ _ _)

theorem dec (p : Prefixes) (f : IncForm) : Statement (.dec p f) :=
  of_body (incFormBytes_fits _ _ _)

theorem neg (p : Prefixes) (f : EForm) : Statement (.neg p f) :=
  of_body (group3Bytes_fits _ _)

theorem mul (p : Prefixes) (f : EForm) : Statement (.mul p f) :=
  of_body (group3Bytes_fits _ _)

theorem imul1 (p : Prefixes) (f : EForm) : Statement (.imul1 p f) :=
  of_body (group3Bytes_fits _ _)

theorem imul2 (p : Prefixes) (r : BitVec 3) (rm : RM) : Statement (.imul2 p r rm) :=
  of_body (fits_two0 _ _ _ _)

theorem imul3 (p : Prefixes) (r : BitVec 3) (rm : RM) (i : ImmForm) : Statement (.imul3 p r rm i) :=
  of_body (immFormBytes_rm_fits _ _ _ _ _ _)

theorem div (p : Prefixes) (f : EForm) : Statement (.div p f) :=
  of_body (group3Bytes_fits _ _)

theorem idiv (p : Prefixes) (f : EForm) : Statement (.idiv p f) :=
  of_body (group3Bytes_fits _ _)

theorem daa (p : Prefixes) : Statement (.daa p) :=
  of_body (fits_one _)

theorem das (p : Prefixes) : Statement (.das p) :=
  of_body (fits_one _)

theorem aaa (p : Prefixes) : Statement (.aaa p) :=
  of_body (fits_one _)

theorem aas (p : Prefixes) : Statement (.aas p) :=
  of_body (fits_one _)

theorem aam (p : Prefixes) (i : Byte) : Statement (.aam p i) :=
  of_body (fits_pair _ _)

theorem aad (p : Prefixes) (i : Byte) : Statement (.aad p i) :=
  of_body (fits_pair _ _)

theorem and (p : Prefixes) (f : AluForm) : Statement (.and p f) :=
  of_body (aluFormBytes_fits _ _ _)

theorem or (p : Prefixes) (f : AluForm) : Statement (.or p f) :=
  of_body (aluFormBytes_fits _ _ _)

theorem xor (p : Prefixes) (f : AluForm) : Statement (.xor p f) :=
  of_body (aluFormBytes_fits _ _ _)

theorem not (p : Prefixes) (f : EForm) : Statement (.not p f) :=
  of_body (group3Bytes_fits _ _)

theorem test (p : Prefixes) (f : TestForm) : Statement (.test p f) :=
  of_body (testFormBytes_fits _ _)

theorem rol (p : Prefixes) (f : EForm) (n : ShiftCount) : Statement (.rol p f n) :=
  of_body (shiftBytes_fits _ _ _)

theorem ror (p : Prefixes) (f : EForm) (n : ShiftCount) : Statement (.ror p f n) :=
  of_body (shiftBytes_fits _ _ _)

theorem rcl (p : Prefixes) (f : EForm) (n : ShiftCount) : Statement (.rcl p f n) :=
  of_body (shiftBytes_fits _ _ _)

theorem rcr (p : Prefixes) (f : EForm) (n : ShiftCount) : Statement (.rcr p f n) :=
  of_body (shiftBytes_fits _ _ _)

theorem shl (p : Prefixes) (f : EForm) (n : ShiftCount) : Statement (.shl p f n) :=
  of_body (shiftBytes_fits _ _ _)

theorem shr (p : Prefixes) (f : EForm) (n : ShiftCount) : Statement (.shr p f n) :=
  of_body (shiftBytes_fits _ _ _)

theorem sar (p : Prefixes) (f : EForm) (n : ShiftCount) : Statement (.sar p f n) :=
  of_body (shiftBytes_fits _ _ _)

theorem shld (p : Prefixes) (rm : RM) (r : BitVec 3) (n : DblCount) : Statement (.shld p rm r n) :=
  of_body (dblBytes_fits _ _ _ _ _)

theorem shrd (p : Prefixes) (rm : RM) (r : BitVec 3) (n : DblCount) : Statement (.shrd p rm r n) :=
  of_body (dblBytes_fits _ _ _ _ _)

theorem bt (p : Prefixes) (rm : RM) (i : BitIndex) : Statement (.bt p rm i) :=
  of_body (bitBytes_fits _ _ _ _)

theorem bts (p : Prefixes) (rm : RM) (i : BitIndex) : Statement (.bts p rm i) :=
  of_body (bitBytes_fits _ _ _ _)

theorem btr (p : Prefixes) (rm : RM) (i : BitIndex) : Statement (.btr p rm i) :=
  of_body (bitBytes_fits _ _ _ _)

theorem btc (p : Prefixes) (rm : RM) (i : BitIndex) : Statement (.btc p rm i) :=
  of_body (bitBytes_fits _ _ _ _)

theorem bsf (p : Prefixes) (r : BitVec 3) (rm : RM) : Statement (.bsf p r rm) :=
  of_body (fits_two0 _ _ _ _)

theorem bsr (p : Prefixes) (r : BitVec 3) (rm : RM) : Statement (.bsr p r rm) :=
  of_body (fits_two0 _ _ _ _)

theorem setcc (p : Prefixes) (cc : BitVec 4) (rm : RM) : Statement (.setcc p cc rm) :=
  of_body (fits_two0 _ _ _ _)

theorem movsb (p : Prefixes) : Statement (.movsb p) :=
  of_body (fits_one _)

theorem movsw (p : Prefixes) : Statement (.movsw p) :=
  of_body (fits_one _)

theorem cmpsb (p : Prefixes) : Statement (.cmpsb p) :=
  of_body (fits_one _)

theorem cmpsw (p : Prefixes) : Statement (.cmpsw p) :=
  of_body (fits_one _)

theorem scasb (p : Prefixes) : Statement (.scasb p) :=
  of_body (fits_one _)

theorem scasw (p : Prefixes) : Statement (.scasw p) :=
  of_body (fits_one _)

theorem lodsb (p : Prefixes) : Statement (.lodsb p) :=
  of_body (fits_one _)

theorem lodsw (p : Prefixes) : Statement (.lodsw p) :=
  of_body (fits_one _)

theorem stosb (p : Prefixes) : Statement (.stosb p) :=
  of_body (fits_one _)

theorem stosw (p : Prefixes) : Statement (.stosw p) :=
  of_body (fits_one _)

theorem insb (p : Prefixes) : Statement (.insb p) :=
  of_body (fits_one _)

theorem insw (p : Prefixes) : Statement (.insw p) :=
  of_body (fits_one _)

theorem outsb (p : Prefixes) : Statement (.outsb p) :=
  of_body (fits_one _)

theorem outsw (p : Prefixes) : Statement (.outsw p) :=
  of_body (fits_one _)

theorem jmpRel (p : Prefixes) (t : Rel) : Statement (.jmpRel p t) :=
  by
  cases t with
  | jb d => exact of_body (fits_pair _ _)
  | jz d => exact of_body (fits_iz0 _ _ _)

theorem jmpInd (p : Prefixes) (rm : RM) : Statement (.jmpInd p rm) :=
  of_body (fits_rm0 _ _ _)

theorem jmpFar (p : Prefixes) (off : DWord) (seg : Word) : Statement (.jmpFar p off seg) :=
  of_body (fits_iz _ _ _ _ (show (wordBytes _).length ≤ 4 from by rw [wordBytes_length]; omega))

theorem jmpFarInd (p : Prefixes) (m : Mem) : Statement (.jmpFarInd p m) :=
  of_body (fits_mem _ _ _)

theorem jccShort (p : Prefixes) (cc : BitVec 4) (d : Byte) : Statement (.jccShort p cc d) :=
  of_body (fits_pair _ _)

theorem jccNear (p : Prefixes) (cc : BitVec 4) (d : DWord) : Statement (.jccNear p cc d) :=
  of_body (fits_twoIz _ _ _ _)

theorem jcxz (p : Prefixes) (d : Byte) : Statement (.jcxz p d) :=
  of_body (fits_pair _ _)

theorem loop (p : Prefixes) (d : Byte) : Statement (.loop p d) :=
  of_body (fits_pair _ _)

theorem loope (p : Prefixes) (d : Byte) : Statement (.loope p d) :=
  of_body (fits_pair _ _)

theorem loopne (p : Prefixes) (d : Byte) : Statement (.loopne p d) :=
  of_body (fits_pair _ _)

theorem callRel (p : Prefixes) (d : DWord) : Statement (.callRel p d) :=
  of_body (fits_iz0 _ _ _)

theorem callInd (p : Prefixes) (rm : RM) : Statement (.callInd p rm) :=
  of_body (fits_rm0 _ _ _)

theorem callFar (p : Prefixes) (off : DWord) (seg : Word) : Statement (.callFar p off seg) :=
  of_body (fits_iz _ _ _ _ (show (wordBytes _).length ≤ 4 from by rw [wordBytes_length]; omega))

theorem callFarInd (p : Prefixes) (m : Mem) : Statement (.callFarInd p m) :=
  of_body (fits_mem _ _ _)

theorem ret (p : Prefixes) (n : Option Word) : Statement (.ret p n) :=
  by
  cases n with
  | none => exact of_body (fits_one _)
  | some w => exact of_body (fits_word _ _)

theorem retf (p : Prefixes) (n : Option Word) : Statement (.retf p n) :=
  by
  cases n with
  | none => exact of_body (fits_one _)
  | some w => exact of_body (fits_word _ _)

theorem int (p : Prefixes) (v : Byte) : Statement (.int p v) :=
  of_body (fits_pair _ _)

theorem int3 (p : Prefixes) : Statement (.int3 p) :=
  of_body (fits_one _)

theorem into (p : Prefixes) : Statement (.into p) :=
  of_body (fits_one _)

theorem iret (p : Prefixes) : Statement (.iret p) :=
  of_body (fits_one _)

theorem enter (p : Prefixes) (size : Word) (level : Byte) : Statement (.enter p size level) :=
  of_body (fits_word1 _ _ _)

theorem leave (p : Prefixes) : Statement (.leave p) :=
  of_body (fits_one _)

theorem bound (p : Prefixes) (r : BitVec 3) (m : Mem) : Statement (.bound p r m) :=
  of_body (fits_mem _ _ _)

theorem clc (p : Prefixes) : Statement (.clc p) :=
  of_body (fits_one _)

theorem stc (p : Prefixes) : Statement (.stc p) :=
  of_body (fits_one _)

theorem cmc (p : Prefixes) : Statement (.cmc p) :=
  of_body (fits_one _)

theorem cld (p : Prefixes) : Statement (.cld p) :=
  of_body (fits_one _)

theorem std (p : Prefixes) : Statement (.std p) :=
  of_body (fits_one _)

theorem cli (p : Prefixes) : Statement (.cli p) :=
  of_body (fits_one _)

theorem sti (p : Prefixes) : Statement (.sti p) :=
  of_body (fits_one _)

theorem nop (p : Prefixes) : Statement (.nop p) :=
  of_body (fits_one _)

theorem hlt (p : Prefixes) : Statement (.hlt p) :=
  of_body (fits_one _)

theorem wait (p : Prefixes) : Statement (.wait p) :=
  of_body (fits_one _)

theorem arpl (p : Prefixes) : Statement (.arpl p) :=
  of_body (fits_one _)

theorem system (p : Prefixes) (op2 : Byte) : Statement (.system p op2) :=
  of_body (fits_pair _ _)

theorem fld (p : Prefixes) (f : FLoad) : Statement (.fld p f) :=
  of_body (fLoadBytes_fits _)

theorem fild (p : Prefixes) (f : FInt3) : Statement (.fild p f) :=
  of_body (fInt3Bytes_fits _ _ _ _)

theorem fbld (p : Prefixes) (m : Mem) : Statement (.fbld p m) :=
  of_body (fits_mem _ _ _)

theorem fst (p : Prefixes) (f : FStore) : Statement (.fst p f) :=
  of_body (fStoreBytes_fits _)

theorem fstp (p : Prefixes) (f : FStoreP) : Statement (.fstp p f) :=
  of_body (fStorePBytes_fits _)

theorem fist (p : Prefixes) (f : FInt) : Statement (.fist p f) :=
  of_body (fIntBytes_fits _ _ _ _)

theorem fistp (p : Prefixes) (f : FInt3) : Statement (.fistp p f) :=
  of_body (fInt3Bytes_fits _ _ _ _)

theorem fbstp (p : Prefixes) (m : Mem) : Statement (.fbstp p m) :=
  of_body (fits_mem _ _ _)

theorem fxch (p : Prefixes) (i : BitVec 3) : Statement (.fxch p i) :=
  of_body (fits_pair _ _)

theorem fadd (p : Prefixes) (f : FArith) : Statement (.fadd p f) :=
  of_body (fArithBytes_fits _ _ _)

theorem faddp (p : Prefixes) (i : BitVec 3) : Statement (.faddp p i) :=
  of_body (fits_pair _ _)

theorem fiadd (p : Prefixes) (f : FInt) : Statement (.fiadd p f) :=
  of_body (fIntBytes_fits _ _ _ _)

theorem fsub (p : Prefixes) (f : FArith) : Statement (.fsub p f) :=
  of_body (fArithBytes_fits _ _ _)

theorem fsubp (p : Prefixes) (i : BitVec 3) : Statement (.fsubp p i) :=
  of_body (fits_pair _ _)

theorem fisub (p : Prefixes) (f : FInt) : Statement (.fisub p f) :=
  of_body (fIntBytes_fits _ _ _ _)

theorem fsubr (p : Prefixes) (f : FArith) : Statement (.fsubr p f) :=
  of_body (fArithBytes_fits _ _ _)

theorem fsubrp (p : Prefixes) (i : BitVec 3) : Statement (.fsubrp p i) :=
  of_body (fits_pair _ _)

theorem fisubr (p : Prefixes) (f : FInt) : Statement (.fisubr p f) :=
  of_body (fIntBytes_fits _ _ _ _)

theorem fmul (p : Prefixes) (f : FArith) : Statement (.fmul p f) :=
  of_body (fArithBytes_fits _ _ _)

theorem fmulp (p : Prefixes) (i : BitVec 3) : Statement (.fmulp p i) :=
  of_body (fits_pair _ _)

theorem fimul (p : Prefixes) (f : FInt) : Statement (.fimul p f) :=
  of_body (fIntBytes_fits _ _ _ _)

theorem fdiv (p : Prefixes) (f : FArith) : Statement (.fdiv p f) :=
  of_body (fArithBytes_fits _ _ _)

theorem fdivp (p : Prefixes) (i : BitVec 3) : Statement (.fdivp p i) :=
  of_body (fits_pair _ _)

theorem fidiv (p : Prefixes) (f : FInt) : Statement (.fidiv p f) :=
  of_body (fIntBytes_fits _ _ _ _)

theorem fdivr (p : Prefixes) (f : FArith) : Statement (.fdivr p f) :=
  of_body (fArithBytes_fits _ _ _)

theorem fdivrp (p : Prefixes) (i : BitVec 3) : Statement (.fdivrp p i) :=
  of_body (fits_pair _ _)

theorem fidivr (p : Prefixes) (f : FInt) : Statement (.fidivr p f) :=
  of_body (fIntBytes_fits _ _ _ _)

theorem fsqrt (p : Prefixes) : Statement (.fsqrt p) :=
  of_body (fits_pair _ _)

theorem fabs (p : Prefixes) : Statement (.fabs p) :=
  of_body (fits_pair _ _)

theorem fchs (p : Prefixes) : Statement (.fchs p) :=
  of_body (fits_pair _ _)

theorem frndint (p : Prefixes) : Statement (.frndint p) :=
  of_body (fits_pair _ _)

theorem fscale (p : Prefixes) : Statement (.fscale p) :=
  of_body (fits_pair _ _)

theorem fxtract (p : Prefixes) : Statement (.fxtract p) :=
  of_body (fits_pair _ _)

theorem fprem (p : Prefixes) : Statement (.fprem p) :=
  of_body (fits_pair _ _)

theorem fprem1 (p : Prefixes) : Statement (.fprem1 p) :=
  of_body (fits_pair _ _)

theorem fcom (p : Prefixes) (f : FCmp) : Statement (.fcom p f) :=
  of_body (fCmpBytes_fits _ _)

theorem fcomp (p : Prefixes) (f : FCmp) : Statement (.fcomp p f) :=
  of_body (fCmpBytes_fits _ _)

theorem fcompp (p : Prefixes) : Statement (.fcompp p) :=
  of_body (fits_pair _ _)

theorem fucom (p : Prefixes) (i : BitVec 3) : Statement (.fucom p i) :=
  of_body (fits_pair _ _)

theorem fucomp (p : Prefixes) (i : BitVec 3) : Statement (.fucomp p i) :=
  of_body (fits_pair _ _)

theorem fucompp (p : Prefixes) : Statement (.fucompp p) :=
  of_body (fits_pair _ _)

theorem ficom (p : Prefixes) (f : FInt) : Statement (.ficom p f) :=
  of_body (fIntBytes_fits _ _ _ _)

theorem ficomp (p : Prefixes) (f : FInt) : Statement (.ficomp p f) :=
  of_body (fIntBytes_fits _ _ _ _)

theorem ftst (p : Prefixes) : Statement (.ftst p) :=
  of_body (fits_pair _ _)

theorem fxam (p : Prefixes) : Statement (.fxam p) :=
  of_body (fits_pair _ _)

theorem f2xm1 (p : Prefixes) : Statement (.f2xm1 p) :=
  of_body (fits_pair _ _)

theorem fyl2x (p : Prefixes) : Statement (.fyl2x p) :=
  of_body (fits_pair _ _)

theorem fyl2xp1 (p : Prefixes) : Statement (.fyl2xp1 p) :=
  of_body (fits_pair _ _)

theorem fptan (p : Prefixes) : Statement (.fptan p) :=
  of_body (fits_pair _ _)

theorem fpatan (p : Prefixes) : Statement (.fpatan p) :=
  of_body (fits_pair _ _)

theorem fsin (p : Prefixes) : Statement (.fsin p) :=
  of_body (fits_pair _ _)

theorem fcos (p : Prefixes) : Statement (.fcos p) :=
  of_body (fits_pair _ _)

theorem fsincos (p : Prefixes) : Statement (.fsincos p) :=
  of_body (fits_pair _ _)

theorem fld1 (p : Prefixes) : Statement (.fld1 p) :=
  of_body (fits_pair _ _)

theorem fldl2t (p : Prefixes) : Statement (.fldl2t p) :=
  of_body (fits_pair _ _)

theorem fldl2e (p : Prefixes) : Statement (.fldl2e p) :=
  of_body (fits_pair _ _)

theorem fldpi (p : Prefixes) : Statement (.fldpi p) :=
  of_body (fits_pair _ _)

theorem fldlg2 (p : Prefixes) : Statement (.fldlg2 p) :=
  of_body (fits_pair _ _)

theorem fldln2 (p : Prefixes) : Statement (.fldln2 p) :=
  of_body (fits_pair _ _)

theorem fldz (p : Prefixes) : Statement (.fldz p) :=
  of_body (fits_pair _ _)

theorem fldcw (p : Prefixes) (m : Mem) : Statement (.fldcw p m) :=
  of_body (fits_mem _ _ _)

theorem fnstcw (p : Prefixes) (m : Mem) : Statement (.fnstcw p m) :=
  of_body (fits_mem _ _ _)

theorem fnstsw (p : Prefixes) (d : FSwDst) : Statement (.fnstsw p d) :=
  by
  cases d with
  | m16 m => exact of_body (fits_mem _ _ _)
  | ax => exact of_body (fits_pair _ _)

theorem fnclex (p : Prefixes) : Statement (.fnclex p) :=
  of_body (fits_pair _ _)

theorem fninit (p : Prefixes) : Statement (.fninit p) :=
  of_body (fits_pair _ _)

theorem fldenv (p : Prefixes) (m : Mem) : Statement (.fldenv p m) :=
  of_body (fits_mem _ _ _)

theorem fnstenv (p : Prefixes) (m : Mem) : Statement (.fnstenv p m) :=
  of_body (fits_mem _ _ _)

theorem frstor (p : Prefixes) (m : Mem) : Statement (.frstor p m) :=
  of_body (fits_mem _ _ _)

theorem fnsave (p : Prefixes) (m : Mem) : Statement (.fnsave p m) :=
  of_body (fits_mem _ _ _)

theorem fincstp (p : Prefixes) : Statement (.fincstp p) :=
  of_body (fits_pair _ _)

theorem fdecstp (p : Prefixes) : Statement (.fdecstp p) :=
  of_body (fits_pair _ _)

theorem ffree (p : Prefixes) (i : BitVec 3) : Statement (.ffree p i) :=
  of_body (fits_pair _ _)

theorem fnop (p : Prefixes) : Statement (.fnop p) :=
  of_body (fits_pair _ _)

theorem feni (p : Prefixes) : Statement (.feni p) :=
  of_body (fits_pair _ _)

theorem fdisi (p : Prefixes) : Statement (.fdisi p) :=
  of_body (fits_pair _ _)

theorem fsetpm (p : Prefixes) : Statement (.fsetpm p) :=
  of_body (fits_pair _ _)

end Sys2Proof.Laws.EncodeLength
end

