-- ==== Sys2Proof/Laws/Registers.lean ====
section
/-! SUPPORT. The laws of the general registers and of FLAGS: a read after a write, at each width. -/

namespace Sys2Proof.Machine

theorem State.r32_setR32 (s : State) (i j : BitVec 3) (v : DWord) :
    (s.setR32 i v).r32 j = if j = i then v else s.r32 j := by
  unfold State.setR32 State.r32
  rw [Vector.getElem_set]
  by_cases h : j = i
  · simp [h]
  · have : i.toNat ≠ j.toNat := fun e => h (BitVec.eq_of_toNat_eq e.symm)
    simp [h, this]

@[simp] theorem State.r32_setR32_self (s : State) (i : BitVec 3) (v : DWord) : (s.setR32 i v).r32 i = v := by
  simp [State.r32_setR32]

/-- A 16-bit write keeps the upper half and changes no other register. -/
theorem State.r32_setR16 (s : State) (i j : BitVec 3) (v : Word) :
    (s.setR16 i v).r32 j = if j = i then (s.r32 i).extractLsb' 16 16 ++ v else s.r32 j :=
  s.r32_setR32 i j _

/-! Parts of a concatenation. -/

theorem low_of_append {m n : Nat} (a : BitVec m) (b : BitVec n) : (a ++ b).extractLsb' 0 n = b := by
  apply BitVec.eq_of_getLsbD_eq
  intro k hk
  simp [BitVec.getLsbD_append, hk]

theorem high_of_append {m n : Nat} (a : BitVec m) (b : BitVec n) : (a ++ b).extractLsb' n m = a := by
  apply BitVec.eq_of_getLsbD_eq
  intro k hk
  simp [BitVec.getLsbD_append, hk]

theorem within_append {m n : Nat} (a : BitVec m) (b : BitVec n) (i l : Nat) : (a ++ b).extractLsb' (n + i) l = a.extractLsb' i l := by
  apply BitVec.eq_of_getLsbD_eq
  intro k hk
  have h2 : n + i + k - n = i + k := by omega
  have h3 : ¬ n + i + k < n := by omega
  simp [BitVec.getLsbD_append, hk, h2, h3]

theorem below_append {m n : Nat} (a : BitVec m) (b : BitVec n) (i l : Nat) (h : i + l ≤ n) : (a ++ b).extractLsb' i l = b.extractLsb' i l := by
  apply BitVec.eq_of_getLsbD_eq
  intro k hk
  have h3 : i + k < n := by omega
  simp [BitVec.getLsbD_append, hk, h3]

theorem State.r16_setR16 (s : State) (i j : BitVec 3) (v : Word) :
    (s.setR16 i v).r16 j = if j = i then v else s.r16 j := by
  unfold State.r16
  rw [State.r32_setR16]
  split
  · exact low_of_append _ _
  · rfl

@[simp] theorem State.r16_setR16_self (s : State) (i : BitVec 3) (v : Word) : (s.setR16 i v).r16 i = v := by
  simp [State.r16_setR16]

/-- A 16-bit write changes no upper half. -/
theorem State.high_setR16 (s : State) (i j : BitVec 3) (v : Word) :
    ((s.setR16 i v).r32 j).extractLsb' 16 16 = (s.r32 j).extractLsb' 16 16 := by
  rw [State.r32_setR16]
  split
  · rename_i h
    rw [high_of_append, h]
  · rfl

/-- An 8-bit write changes one byte of one register. -/
theorem State.r32_setR8 (s : State) (i j : BitVec 3) (v : Byte) :
    (s.setR8 i v).r32 j =
      if i.toNat < 4 then (if j = i then (s.r32 i).extractLsb' 8 24 ++ v else s.r32 j)
      else (if j = i - 4 then (s.r32 (i - 4)).extractLsb' 16 16 ++ v ++ (s.r32 (i - 4)).extractLsb' 0 8
        else s.r32 j) := by
  unfold State.setR8
  split <;> exact s.r32_setR32 _ _ _

theorem byte_parts (x : BitVec 32) (b : BitVec 8) : (x.extractLsb' 8 24 ++ b).extractLsb' 0 8 = b ∧
      (x.extractLsb' 8 24 ++ b).extractLsb' 8 8 = x.extractLsb' 8 8 ∧
      (x.extractLsb' 16 16 ++ b ++ x.extractLsb' 0 8).extractLsb' 0 8 = x.extractLsb' 0 8 ∧
      (x.extractLsb' 16 16 ++ b ++ x.extractLsb' 0 8).extractLsb' 8 8 = b := by
  refine ⟨low_of_append _ _, ?_, low_of_append _ _, ?_⟩
  · refine (within_append (x.extractLsb' 8 24) b 0 8).trans ?_
    apply BitVec.eq_of_getLsbD_eq
    intro k hk
    have : k < 24 := by omega
    simp [hk, this]
  · exact (within_append (x.extractLsb' 16 16 ++ b) (x.extractLsb' 0 8) 0 8).trans (low_of_append _ _)

/-- The byte written is read back, and no other 8-bit register changes. -/
theorem State.r8_setR8 (s : State) (i j : BitVec 3) (v : Byte) :
    (s.setR8 i v).r8 j = if j = i then v else s.r8 j := by
  unfold State.r8
  simp only [State.r32_setR8]
  rcases (by decide : ∀ i : BitVec 3, i = 0 ∨ i = 1 ∨ i = 2 ∨ i = 3 ∨ i = 4 ∨ i = 5 ∨ i = 6 ∨ i = 7) i with
      rfl | rfl | rfl | rfl | rfl | rfl | rfl | rfl <;>
    rcases (by decide : ∀ i : BitVec 3, i = 0 ∨ i = 1 ∨ i = 2 ∨ i = 3 ∨ i = 4 ∨ i = 5 ∨ i = 6 ∨ i = 7) j with
      rfl | rfl | rfl | rfl | rfl | rfl | rfl | rfl <;>
    simp [byte_parts]

/-- A register written at a width reads back at it. -/
@[simp] theorem State.reg_setReg_self (s : State) (w : Width) (r : BitVec 3) (v : BitVec w.bits) :
    (s.setReg w r v).reg w r = v := by
  cases w
  · show (s.setR8 r v).r8 r = v
    simp [State.r8_setR8]
  · exact s.r16_setR16_self r v
  · exact s.r32_setR32_self r v

/-- The registers of two states with the same general registers are the same. -/
theorem State.r32_congr {s t : State} (h : s.gpr = t.gpr) (r : BitVec 3) : s.r32 r = t.r32 r := by
  unfold State.r32; simp only [h]

theorem State.r16_congr {s t : State} (h : s.gpr = t.gpr) (r : BitVec 3) : s.r16 r = t.r16 r := by
  unfold State.r16; rw [State.r32_congr h]

theorem State.r8_congr {s t : State} (h : s.gpr = t.gpr) (r : BitVec 3) : s.r8 r = t.r8 r := by
  unfold State.r8; simp only [State.r32_congr h]

theorem State.reg_congr {s t : State} (h : s.gpr = t.gpr) (w : Width) (r : BitVec 3) : s.reg w r = t.reg w r := by
  cases w
  · exact State.r8_congr h r
  · exact State.r16_congr h r
  · exact State.r32_congr h r

/-- A write of FLAGS keeps the nine flags of the value written, and the image gives the fixed bits (10_state.md R49, R50). -/
theorem Flags.ofImage_image (f : Flags) : Flags.ofImage f.image = f := by
  rcases f with ⟨cf, pf, af, zf, sf, tf, ifl, df, ofl⟩
  cases cf <;> cases pf <;> cases af <;> cases zf <;> cases sf <;> cases tf <;> cases ifl <;> cases df <;> cases ofl <;>
    rfl

end Sys2Proof.Machine
end

