-- ==== Sys2Proof/Laws/Stack.lean ====
section
/-! SUPPORT. What a push, a pop, an entry into a handler and a dispatch do where memory backs them. -/

namespace Sys2Proof.Machine

/-- A push on a backed slot: SP goes down, and the slot holds the number. -/
theorem State.push_backed (s : State) (n v : Nat) (hn : n ≤ 2 ^ 20) (h : s.Backed (s.slot n) n) :
    ∃ m, s.push n v = .ok { s.setR16 rSP (s.r16 rSP - BitVec.ofNat 16 n) with mem := m } ∧
      s.Stores { s.setR16 rSP (s.r16 rSP - BitVec.ofNat 16 n) with mem := m } (s.slot n) n v :=
  (s.setR16 rSP (s.r16 rSP - BitVec.ofNat 16 n)).linWrite_stores (s.slot n) n v h hn

/-- A pop of a backed slot: the number it holds, and SP goes up. -/
theorem State.pop_backed (s : State) (n : Nat) (h : s.Backed (s.lin s.ss (s.r16 rSP)) n) :
    s.pop n = .ok (s.bytesAt (s.lin s.ss (s.r16 rSP)) n, s.setR16 rSP (s.r16 rSP + BitVec.ofNat 16 n)) := by
  rw [State.pop, State.memRead, s.linRead_backed _ _ h]; rfl

/-- Where memory has no hole, every access is backed. -/
theorem State.backed_of_noHole (s : State) (a n : Nat) (h : s.par.NoHole) : s.Backed a n := fun _ _ =>
  Nat.lt_of_lt_of_le (Nat.mod_lt _ (Nat.two_pow_pos _)) h

/-- The vector table is read where memory has no hole. -/
theorem State.ivtRead_noHole (s : State) (v : Byte) (h : s.par.NoHole) :
    s.ivtRead v = .ok (BitVec.ofNat 16 (s.bytesAt (4 * v.toNat + 2) 2) ++ BitVec.ofNat 16 (s.bytesAt (4 * v.toNat) 2)) := by
  rw [State.ivtRead, s.linRead_backed _ _ (s.backed_of_noHole _ _ h), Exec.ok_bind,
    s.linRead_backed _ _ (s.backed_of_noHole _ _ h)]
  rfl

end Sys2Proof.Machine
end

