-- ==== Sys2Proof/Tests/Slice0.lean ====
section
/-! SUPPORT. Tests: what well-formedness refuses, words written out from the encodings of the spec, one step of each
instruction on values from spec/95_test_vectors.md or worked by hand from its rule, and states that meet the hypotheses of
each statement. -/

namespace Sys2Proof.Tests

open Sys2Proof Sys2Proof.Machine

set_option Elab.async false

/-! ### Well-formedness: an ill-formed term for each check -/

/-- No check passes any of these. -/
def refused (l : List Instr) : Bool := l.all fun i => !i.check

abbrev p0 : Prefixes := .none
abbrev p66 : Prefixes := ⟨none, true, false, none⟩
abbrev pLock : Prefixes := ⟨none, false, true, none⟩
abbrev pRep : Prefixes := ⟨none, false, false, some .rep⟩
abbrev pRepne : Prefixes := ⟨none, false, false, some .repne⟩

/-- mod 00 with rm 110 is not an indexed operand (R150). -/
abbrev bad : Mem := .indexed 6

theorem test_wf_memory_operand : refused [.add p0 (.ebGb (.mem bad) 0), .sub p0 (.evGv (.mem bad) 0),
    .xor p0 (.gbEb 0 (.mem bad)), .cmp p0 (.gvEv 0 (.mem bad)), .and p0 (.ebIb (.mem bad) 0),
    .or p0 (.evIz (.mem bad) 0), .adc p0 (.ebIb82 (.mem bad) 0), .sbb p0 (.evIbs (.mem bad) 0),
    .mov p0 (.ebGb (.mem bad) 0), .mov p0 (.evGv (.mem bad) 0), .mov p0 (.gbEb 0 (.mem bad)),
    .mov p0 (.gvEv 0 (.mem bad)), .mov p0 (.ebIb (.mem bad) 0), .mov p0 (.evIz (.mem bad) 0),
    .xchg p0 (.ebGb (.mem bad) 0), .xchg p0 (.evGv (.mem bad) 0), .push p0 (.rm (.mem bad)), .pop p0 (.rm (.mem bad)),
    .movFromSeg p0 (.mem bad) .ds, .movToSeg p0 .ds (.mem bad), .lds p0 0 bad, .les p0 0 bad, .lss p0 0 bad,
    .lea p0 0 bad, .bound p0 0 bad, .movzx p0 0 false (.mem bad), .movsx p0 0 true (.mem bad)] = true := by decide

theorem test_wf_memory_operand_other : refused [.inc p0 (.eb (.mem bad)), .dec p0 (.ev (.mem bad)),
    .neg p0 (.eb (.mem bad)), .mul p0 (.ev (.mem bad)), .imul1 p0 (.eb (.mem bad)), .div p0 (.eb (.mem bad)),
    .idiv p0 (.eb (.mem bad)), .not p0 (.eb (.mem bad)), .imul2 p0 0 (.mem bad), .imul3 p0 0 (.mem bad) (.ibs 0),
    .test p0 (.ebGb (.mem bad) 0), .test p0 (.evGv (.mem bad) 0), .test p0 (.ebIb (.mem bad) 0),
    .test p0 (.evIz (.mem bad) 0), .rol p0 (.eb (.mem bad)) .one, .ror p0 (.eb (.mem bad)) .one,
    .rcl p0 (.eb (.mem bad)) .one, .rcr p0 (.eb (.mem bad)) .one, .shl p0 (.eb (.mem bad)) .one,
    .shr p0 (.eb (.mem bad)) .one, .sar p0 (.ev (.mem bad)) .cl, .shld p0 (.mem bad) 0 .cl, .shrd p0 (.mem bad) 0 .cl,
    .bt p0 (.mem bad) (.imm 0), .bts p0 (.mem bad) (.imm 0), .btr p0 (.mem bad) (.imm 0), .btc p0 (.mem bad) (.imm 0),
    .bsf p0 0 (.mem bad), .bsr p0 0 (.mem bad), .setcc p0 0 (.mem bad), .jmpInd p0 (.mem bad), .callInd p0 (.mem bad),
    .jmpFarInd p0 bad, .callFarInd p0 bad] = true := by decide

theorem test_wf_memory_operand_fpu : refused [.fld p0 (.m32 bad), .fld p0 (.m64 bad), .fld p0 (.m80 bad),
    .fild p0 (.m16 bad), .fild p0 (.m32 bad), .fistp p0 (.m64 bad), .fst p0 (.m32 bad), .fst p0 (.m64 bad),
    .fstp p0 (.m32 bad), .fstp p0 (.m64 bad), .fstp p0 (.m80 bad), .fist p0 (.m16 bad), .fiadd p0 (.m32 bad),
    .fisub p0 (.m16 bad), .fisubr p0 (.m16 bad), .fimul p0 (.m16 bad), .fidiv p0 (.m16 bad), .fidivr p0 (.m16 bad),
    .ficom p0 (.m16 bad), .ficomp p0 (.m16 bad), .fadd p0 (.m32 bad), .fsub p0 (.m64 bad), .fsubr p0 (.m32 bad),
    .fmul p0 (.m32 bad), .fdiv p0 (.m32 bad), .fdivr p0 (.m32 bad), .fcom p0 (.m32 bad), .fcomp p0 (.m64 bad),
    .fnstsw p0 (.m16 bad), .fbld p0 bad, .fbstp p0 bad, .fldcw p0 bad, .fnstcw p0 bad, .fldenv p0 bad, .fnstenv p0 bad,
    .frstor p0 bad, .fnsave p0 bad] = true := by decide

/-- At operand size 16 an immediate of operand size has 16 bits (R156). -/
theorem test_wf_immediate : refused [.add p0 (.eaxIz 0x10000), .add p0 (.evIz (.reg 0) 0x10000),
    .mov p0 (.gvIz 0 0x10000), .mov p0 (.evIz (.reg 0) 0x10000), .test p0 (.eaxIz 0x10000),
    .test p0 (.evIz (.reg 0) 0x10000), .pushImm p0 (.iz 0x10000), .imul3 p0 0 (.reg 0) (.iz 0x10000),
    .jmpRel p0 (.jz 0x10000), .callRel p0 0x10000, .jccNear p0 0 0x10000, .jmpFar p0 0x10000 0,
    .callFar p0 0x10000 0] = true := by decide

/-- CS is no destination (R171); 90h is NOP (R467); R169 lists the system rows. -/
theorem test_wf_register_and_row : refused [.popSeg p0 .cs, .movToSeg p0 .cs (.reg 0), .xchg p0 (.eaxGv 0),
    .system p0 0x04, .system p0 0x25] = true := by decide

/-- LOCK needs a listed instruction with a destination in memory (R470). -/
theorem test_wf_lock : refused [.add pLock (.evGv (.reg 0) 0), .add pLock (.gvEv 0 (.mem (.direct 0))),
    .sub pLock (.eaxIz 0), .cmp pLock (.evGv (.mem (.direct 0)) 0), .inc pLock (.reg 0), .dec pLock (.ev (.reg 1)),
    .neg pLock (.eb (.reg 0)), .not pLock (.ev (.reg 0)), .xchg pLock (.eaxGv 1), .xchg pLock (.evGv (.reg 0) 1),
    .bt pLock (.mem (.direct 0)) (.imm 0), .bts pLock (.reg 0) (.imm 0), .mov pLock (.evGv (.mem (.direct 0)) 0),
    .nop pLock, .movsb pLock, .fadd pLock (.m32 (.direct 0))] = true := by decide

theorem test_wf_accepts : [.add pLock (.evGv (.mem (.indexed 7)) 0), .add p66 (.eaxIz 0x10000), .popSeg p0 .ss,
    .xchg p0 (.eaxGv 7), .system p0 0x26, .system pLock 0x06].all Instr.check = true := by decide

/-! ### Decoding: words written out from the encodings of the spec -/

/-- The bytes decode to the instruction, none being left. -/
def reads (bytes : List Byte) (i : Instr) : Bool :=
  match decode bytes with
  | .ok (j, []) => j == i
  | _ => false

/-- The bytes are no instruction (R148), or one the core lacks. -/
def rejects (bytes : List Byte) : Bool :=
  match decode bytes with
  | .ok _ => false
  | .error r => match r with
    | .invalid _ => true
    | _ => false

theorem test_decode_transfer : [
    reads [0x88, 0xCB] (.mov p0 (.ebGb (.reg 3) 1)), reads [0x8B, 0x46, 0x02] (.mov p0 (.gvEv 0 (.mem (.indexed8 6 2)))),
    reads [0xC6, 0x06, 0x05, 0x01, 0x40] (.mov p0 (.ebIb (.mem (.direct 0x0105)) 0x40)),
    reads [0xB4, 0x00] (.mov p0 (.gbIb 4 0)), reads [0xA0, 0x10, 0x00] (.movMoffs p0 (.alOb 0x0010)),
    reads [0x26, 0xA3, 0x00, 0x02] (.movMoffs ⟨some .es, false, false, none⟩ (.ovEax 0x0200)),
    reads [0x8C, 0xD8] (.movFromSeg p0 (.reg 0) .ds), reads [0x8E, 0xD0] (.movToSeg p0 .ss (.reg 0)),
    reads [0x87, 0x07] (.xchg p0 (.evGv (.mem (.indexed 7)) 0)), reads [0x93] (.xchg p0 (.eaxGv 3)),
    reads [0x54] (.push p0 (.reg 4)), reads [0xFF, 0x36, 0x00, 0x02] (.push p0 (.rm (.mem (.direct 0x0200)))),
    reads [0x68, 0x34, 0x12] (.pushImm p0 (.iz 0x1234)), reads [0x6A, 0xFF] (.pushImm p0 (.ibs 0xFF)),
    reads [0x0E] (.pushSeg p0 .cs), reads [0x0F, 0xA0] (.pushFs p0), reads [0x0F, 0xA8] (.pushGs p0),
    reads [0x5C] (.pop p0 (.reg 4)), reads [0x8F, 0x07] (.pop p0 (.rm (.mem (.indexed 7)))),
    reads [0x1F] (.popSeg p0 .ds), reads [0x0F, 0xA1] (.popFs p0), reads [0x0F, 0xA9] (.popGs p0),
    reads [0x60] (.pusha p0), reads [0x61] (.popa p0), reads [0x9C] (.pushf p0), reads [0x9D] (.popf p0)].all id = true := by
  decide +kernel

theorem test_decode_transfer_other : [
    reads [0xC5, 0x36, 0x00, 0x02] (.lds p0 6 (.direct 0x0200)), reads [0xC4, 0x3F] (.les p0 7 (.indexed 7)),
    reads [0x0F, 0xB2, 0x26, 0x00, 0x02] (.lss p0 4 (.direct 0x0200)), reads [0x0F, 0xB4] (.lfs p0),
    reads [0x0F, 0xB5] (.lgs p0), reads [0x8D, 0x00] (.lea p0 0 (.indexed 0)), reads [0xD7] (.xlat p0),
    reads [0x9F] (.lahf p0), reads [0x9E] (.sahf p0), reads [0x98] (.cbw p0), reads [0x66, 0x99] (.cwd p66),
    reads [0x0F, 0xB6, 0xC3] (.movzx p0 0 false (.reg 3)), reads [0x0F, 0xBF, 0xC3] (.movsx p0 0 true (.reg 3)),
    reads [0xE4, 0x60] (.inPort p0 false (.imm 0x60)), reads [0xED] (.inPort p0 true .dx),
    reads [0xE7, 0x20] (.outPort p0 true (.imm 0x20)), reads [0xEE] (.outPort p0 false .dx)].all id = true := by
  decide +kernel

theorem test_decode_arithmetic : [
    reads [0x01, 0xD8] (.add p0 (.evGv (.reg 0) 3)), reads [0x82, 0xC1, 0x05] (.add p0 (.ebIb82 (.reg 1) 5)),
    reads [0x66, 0x15, 0x00, 0x00, 0x00, 0x00] (.adc p66 (.eaxIz 0)), reads [0x2A, 0xC3] (.sub p0 (.gbEb 0 (.reg 3))),
    reads [0x1C, 0xFF] (.sbb p0 (.alIb 0xFF)), reads [0x81, 0xFB, 0x34, 0x12] (.cmp p0 (.evIz (.reg 3) 0x1234)),
    reads [0x47] (.inc p0 (.reg 7)), reads [0xFE, 0xC8] (.dec p0 (.eb (.reg 0))), reads [0xF6, 0xD8] (.neg p0 (.eb (.reg 0))),
    reads [0xF7, 0xE3] (.mul p0 (.ev (.reg 3))), reads [0xF6, 0xEB] (.imul1 p0 (.eb (.reg 3))),
    reads [0x0F, 0xAF, 0xC3] (.imul2 p0 0 (.reg 3)), reads [0x69, 0xC3, 0x34, 0x12] (.imul3 p0 0 (.reg 3) (.iz 0x1234)),
    reads [0x6B, 0xC3, 0xFE] (.imul3 p0 0 (.reg 3) (.ibs 0xFE)), reads [0xF6, 0xF3] (.div p0 (.eb (.reg 3))),
    reads [0xF7, 0xFB] (.idiv p0 (.ev (.reg 3))), reads [0x27] (.daa p0), reads [0x2F] (.das p0), reads [0x37] (.aaa p0),
    reads [0x3F] (.aas p0), reads [0xD4, 0x0A] (.aam p0 10), reads [0xD5, 0x0A] (.aad p0 10)].all id = true := by
  decide +kernel

theorem test_decode_logic : [
    reads [0x24, 0x0F] (.and p0 (.alIb 0x0F)), reads [0x0A, 0xC3] (.or p0 (.gbEb 0 (.reg 3))),
    reads [0x31, 0xC0] (.xor p0 (.evGv (.reg 0) 0)), reads [0xF6, 0xD0] (.not p0 (.eb (.reg 0))),
    reads [0xA8, 0x80] (.test p0 (.alIb 0x80)), reads [0xF7, 0xC3, 0x01, 0x00] (.test p0 (.evIz (.reg 3) 1)),
    reads [0xD0, 0xC0] (.rol p0 (.eb (.reg 0)) .one), reads [0xD3, 0xC8] (.ror p0 (.ev (.reg 0)) .cl),
    reads [0xD2, 0xD0] (.rcl p0 (.eb (.reg 0)) .cl), reads [0xC0, 0xD8, 0x03] (.rcr p0 (.eb (.reg 0)) (.imm 3)),
    reads [0xC1, 0xE0, 0x04] (.shl p0 (.ev (.reg 0)) (.imm 4)), reads [0xD0, 0xE8] (.shr p0 (.eb (.reg 0)) .one),
    reads [0xD1, 0xF8] (.sar p0 (.ev (.reg 0)) .one), reads [0x0F, 0xA4, 0xD8, 0x04] (.shld p0 (.reg 0) 3 (.imm 4)),
    reads [0x0F, 0xAD, 0xD8] (.shrd p0 (.reg 0) 3 .cl), reads [0x0F, 0xA3, 0x07] (.bt p0 (.mem (.indexed 7)) (.reg 0)),
    reads [0x0F, 0xBA, 0xE8, 0x03] (.bts p0 (.reg 0) (.imm 3)), reads [0x0F, 0xB3, 0xC8] (.btr p0 (.reg 0) (.reg 1)),
    reads [0x0F, 0xBB, 0xC8] (.btc p0 (.reg 0) (.reg 1)), reads [0x0F, 0xBC, 0xC3] (.bsf p0 0 (.reg 3)),
    reads [0x0F, 0xBD, 0xC3] (.bsr p0 0 (.reg 3)), reads [0x0F, 0x9C, 0xC0] (.setcc p0 0xC (.reg 0))].all id = true := by
  decide +kernel

theorem test_decode_string_and_control : [
    reads [0xF3, 0xA4] (.movsb pRep), reads [0xA5] (.movsw p0), reads [0xF2, 0xA6] (.cmpsb pRepne), reads [0xA7] (.cmpsw p0),
    reads [0xAE] (.scasb p0), reads [0xAF] (.scasw p0), reads [0xAC] (.lodsb p0), reads [0xAD] (.lodsw p0),
    reads [0xAA] (.stosb p0), reads [0x66, 0xAB] (.stosw p66), reads [0x6C] (.insb p0), reads [0x6D] (.insw p0),
    reads [0x6E] (.outsb p0), reads [0x6F] (.outsw p0), reads [0xEB, 0x20] (.jmpRel p0 (.jb 0x20)),
    reads [0xE9, 0x20, 0x00] (.jmpRel p0 (.jz 0x20)), reads [0xFF, 0xE0] (.jmpInd p0 (.reg 0)),
    reads [0xEA, 0x00, 0x01, 0x00, 0x30] (.jmpFar p0 0x0100 0x3000), reads [0xFF, 0x2F] (.jmpFarInd p0 (.indexed 7)),
    reads [0x7C, 0x10] (.jccShort p0 0xC 0x10), reads [0x0F, 0x85, 0x00, 0x01] (.jccNear p0 5 0x0100),
    reads [0xE3, 0x10] (.jcxz p0 0x10), reads [0xE2, 0xFE] (.loop p0 0xFE), reads [0xE1, 0xFE] (.loope p0 0xFE),
    reads [0xE0, 0xFE] (.loopne p0 0xFE), reads [0xE8, 0x10, 0x00] (.callRel p0 0x10), reads [0xFF, 0xD0] (.callInd p0 (.reg 0)),
    reads [0x9A, 0x00, 0x00, 0x00, 0x30] (.callFar p0 0 0x3000), reads [0xFF, 0x1F] (.callFarInd p0 (.indexed 7)),
    reads [0xC3] (.ret p0 none), reads [0xC2, 0x04, 0x00] (.ret p0 (some 4)), reads [0xCB] (.retf p0 none),
    reads [0xCD, 0x21] (.int p0 0x21), reads [0xCC] (.int3 p0), reads [0xCE] (.into p0), reads [0xCF] (.iret p0),
    reads [0xC8, 0x04, 0x00, 0x01] (.enter p0 4 1), reads [0xC9] (.leave p0),
    reads [0x62, 0x06, 0x00, 0x02] (.bound p0 0 (.direct 0x0200))].all id = true := by decide +kernel

theorem test_decode_processor : [
    reads [0xF8] (.clc p0), reads [0xF9] (.stc p0), reads [0xF5] (.cmc p0), reads [0xFC] (.cld p0), reads [0xFD] (.std p0),
    reads [0xFA] (.cli p0), reads [0xFB] (.sti p0), reads [0xF3, 0x90] (.nop pRep), reads [0xF4] (.hlt p0),
    reads [0x9B] (.wait p0), reads [0x63] (.arpl p0), reads [0x0F, 0x06] (.system p0 0x06)].all id = true := by
  decide +kernel

theorem test_decode_fpu_transfer : [
    reads [0xD9, 0x06, 0x00, 0x02] (.fld p0 (.m32 (.direct 0x0200))), reads [0xDB, 0x2E, 0x00, 0x02] (.fld p0 (.m80 (.direct 0x0200))),
    reads [0xD9, 0xC1] (.fld p0 (.st 1)), reads [0xDF, 0x2F] (.fild p0 (.m64 (.indexed 7))), reads [0xDF, 0x27] (.fbld p0 (.indexed 7)),
    reads [0xDD, 0x17] (.fst p0 (.m64 (.indexed 7))), reads [0xDB, 0x3E, 0x00, 0x03] (.fstp p0 (.m80 (.direct 0x0300))),
    reads [0xDB, 0x17] (.fist p0 (.m32 (.indexed 7))), reads [0xDF, 0x1E, 0x00, 0x02] (.fistp p0 (.m16 (.direct 0x0200))),
    reads [0xDF, 0x37] (.fbstp p0 (.indexed 7)), reads [0xD9, 0xC9] (.fxch p0 1), reads [0xD9, 0xE8] (.fld1 p0),
    reads [0xD9, 0xE9] (.fldl2t p0), reads [0xD9, 0xEA] (.fldl2e p0), reads [0xD9, 0xEB] (.fldpi p0),
    reads [0xD9, 0xEC] (.fldlg2 p0), reads [0xD9, 0xED] (.fldln2 p0), reads [0xD9, 0xEE] (.fldz p0)].all id = true := by
  decide +kernel

theorem test_decode_fpu_arithmetic : [
    reads [0xD8, 0xC1] (.fadd p0 (.st0 1)), reads [0xDE, 0xC1] (.faddp p0 1), reads [0xDA, 0x07] (.fiadd p0 (.m32 (.indexed 7))),
    reads [0xDC, 0xE9] (.fsub p0 (.sti 1)), reads [0xDE, 0xE9] (.fsubp p0 1), reads [0xDE, 0x27] (.fisub p0 (.m16 (.indexed 7))),
    reads [0xDC, 0xE1] (.fsubr p0 (.sti 1)), reads [0xDE, 0xE1] (.fsubrp p0 1), reads [0xDE, 0x2F] (.fisubr p0 (.m16 (.indexed 7))),
    reads [0xD8, 0xC8] (.fmul p0 (.st0 0)), reads [0xDE, 0xC9] (.fmulp p0 1), reads [0xDA, 0x0F] (.fimul p0 (.m32 (.indexed 7))),
    reads [0xDC, 0x37] (.fdiv p0 (.m64 (.indexed 7))), reads [0xDE, 0xF9] (.fdivp p0 1), reads [0xDA, 0x37] (.fidiv p0 (.m32 (.indexed 7))),
    reads [0xDC, 0xF1] (.fdivr p0 (.sti 1)), reads [0xDE, 0xF1] (.fdivrp p0 1), reads [0xDE, 0x3F] (.fidivr p0 (.m16 (.indexed 7))),
    reads [0xD9, 0xFA] (.fsqrt p0), reads [0xD9, 0xE1] (.fabs p0), reads [0xD9, 0xE0] (.fchs p0), reads [0xD9, 0xFC] (.frndint p0),
    reads [0xD9, 0xFD] (.fscale p0), reads [0xD9, 0xF4] (.fxtract p0), reads [0xD9, 0xF8] (.fprem p0),
    reads [0xD9, 0xF5] (.fprem1 p0)].all id = true := by decide +kernel

theorem test_decode_fpu_other : [
    reads [0xD8, 0xD1] (.fcom p0 (.st 1)), reads [0xDC, 0x1F] (.fcomp p0 (.m64 (.indexed 7))), reads [0xDE, 0xD9] (.fcompp p0),
    reads [0xDD, 0xE1] (.fucom p0 1), reads [0xDD, 0xE9] (.fucomp p0 1), reads [0xDA, 0xE9] (.fucompp p0),
    reads [0xDE, 0x17] (.ficom p0 (.m16 (.indexed 7))), reads [0xDA, 0x1F] (.ficomp p0 (.m32 (.indexed 7))),
    reads [0xD9, 0xE4] (.ftst p0), reads [0xD9, 0xE5] (.fxam p0), reads [0xD9, 0xF0] (.f2xm1 p0), reads [0xD9, 0xF1] (.fyl2x p0),
    reads [0xD9, 0xF9] (.fyl2xp1 p0), reads [0xD9, 0xF2] (.fptan p0), reads [0xD9, 0xF3] (.fpatan p0), reads [0xD9, 0xFE] (.fsin p0),
    reads [0xD9, 0xFF] (.fcos p0), reads [0xD9, 0xFB] (.fsincos p0), reads [0xD9, 0x2E, 0x00, 0x03] (.fldcw p0 (.direct 0x0300)),
    reads [0xD9, 0x3F] (.fnstcw p0 (.indexed 7)), reads [0xDD, 0x3F] (.fnstsw p0 (.m16 (.indexed 7))), reads [0xDF, 0xE0] (.fnstsw p0 .ax),
    reads [0xDB, 0xE2] (.fnclex p0), reads [0xDB, 0xE3] (.fninit p0), reads [0xD9, 0x27] (.fldenv p0 (.indexed 7)),
    reads [0xD9, 0x36, 0x00, 0x02] (.fnstenv p0 (.direct 0x0200)), reads [0xDD, 0x27] (.frstor p0 (.indexed 7)),
    reads [0xDD, 0x37] (.fnsave p0 (.indexed 7)), reads [0xD9, 0xF7] (.fincstp p0), reads [0xD9, 0xF6] (.fdecstp p0),
    reads [0xDD, 0xC1] (.ffree p0 1), reads [0xD9, 0xD0] (.fnop p0), reads [0xDB, 0xE0] (.feni p0), reads [0xDB, 0xE1] (.fdisi p0),
    reads [0xDB, 0xE4] (.fsetpm p0)].all id = true := by decide +kernel

/-- Vectors D1, D10, D11, D12, D15, D17. -/
theorem test_decode_invalid : [[0x0F, 0xFF], [0xD0, 0xF0], [0x8D, 0xC0], [0xF0, 0x01, 0xC0], [0xD6], [0xF1], [0xD9, 0xD8],
    [0x8E, 0xC8], [0xF0, 0x90]].all rejects = true := by decide +kernel

/-- The opcode table's numbering: bit 0 is the least significant bit of the first byte. -/
theorem test_decode_table_word : decodeTableWord 16 0xD889 = some (.mov p0 (.evGv (.reg 0) 3)) ∧
    decodeTableWord 8 0x05 = some (.add p0 (.eaxIz 0)) ∧ decodeTableWord 16 0xFF0F = none := by decide +kernel

theorem test_encode_round_trip : decode (encode (.add p66 (.evIz (.mem (.indexed16 2 0x1234)) 0x89ABCDEF))) =
    .ok (.add p66 (.evIz (.mem (.indexed16 2 0x1234)) 0x89ABCDEF), []) := by rfl

/-! ### One step of each instruction -/

/-- Bytes from an address on. -/
def put (s : State) (a : Nat) : List Byte → State
  | [] => s
  | b :: rest => put (s.poke a b) (a + 1) rest

/-- One step with the bytes at CS:IP. -/
def on (s : State) (bytes : List Byte) : State :=
  match step (s.place 0 bytes) with
  | .next t => t
  | _ => s

/-- Bytes of memory. -/
def rd (s : State) (a n : Nat) : List Byte := (List.range n).map fun k => s.peek (a + k)

/-- A 16-bit register set. -/
def st (r : BitVec 3) (v : Word) (s : State) : State := s.setR16 r v

abbrev m0 : State := State.reset

/-- AX and the registers the tests read. -/
def ax (s : State) : Word := s.r16 rAX
def dx (s : State) : Word := s.r16 rDX
def sp (s : State) : Word := s.r16 rSP

/-- CF, OF, SF, ZF, AF, PF. -/
def arith (s : State) : List Bool := [s.flags.cf, s.flags.ofl, s.flags.sf, s.flags.zf, s.flags.af, s.flags.pf]

/-- CF, OF, SF, ZF, PF: AF is left open by the logical instructions. -/
def logical (s : State) : List Bool := [s.flags.cf, s.flags.ofl, s.flags.sf, s.flags.zf, s.flags.pf]

def withCf (s : State) : State := s.setFlags { s.flags with cf := true }
def withDf (s : State) : State := s.setFlags { s.flags with df := true }
def par (s : State) (f : Params → Params) : State := { s with par := f s.par }

/-- The reset state with a handler for a vector at 2000h:0000h. -/
def handler (v : Nat) (s : State) : State := put s (4 * v) [0x00, 0x00, 0x00, 0x20]

-- 40_data_transfer.md
/-- W1. -/
theorem test_mov : ax (on (st rBX 0x1234 m0) [0x89, 0xD8]) = 0x1234 := by decide +kernel
/-- W5. -/
theorem test_mov_keeps_upper : (on (m0.setR32 rAX 0xAABBCCDD) [0xB8, 0x34, 0x12]).r32 rAX = 0xAABB1234 := by decide +kernel
/-- W2, M3. -/
theorem test_movMoffs : rd (on (st rAX 0x1234 m0) [0xA3, 0x00, 0x02]) 0x10200 2 = [0x34, 0x12] ∧
    ax (on (put m0 0x1FFFF [0x34, 0x12]) [0xA1, 0xFF, 0xFF]) = 0x1234 := by decide +kernel
theorem test_movFromSeg : (on { m0.setR32 rAX 0xFFFFFFFF with ds := 0x2000 } [0x8C, 0xD8]).r32 rAX = 0xFFFF2000 := by
  decide +kernel
/-- W11, W12. -/
theorem test_movToSeg : (on (st rAX 0x2000 m0) [0x8E, 0xD8]).ds = 0x2000 ∧ (on (st rAX 0x2000 m0) [0x8E, 0xD8]).shadow = false ∧
    (on (st rAX 0x3000 m0) [0x8E, 0xD0]).ss = 0x3000 ∧ (on (st rAX 0x3000 m0) [0x8E, 0xD0]).shadow = true := by decide +kernel
/-- W7. -/
theorem test_xchg : let t := on (put (st rBX 0x200 (st rAX 0x1111 m0)) 0x10200 [0x22, 0x22]) [0xF0, 0x87, 0x07]
    ax t = 0x2222 ∧ rd t 0x10200 2 = [0x11, 0x11] := by decide +kernel
/-- W8, M8. -/
theorem test_push : rd (on (st rSP 0x100 m0) [0x54]) 0x100FE 2 = [0x00, 0x01] ∧ sp (on (st rSP 0x100 m0) [0x54]) = 0xFE ∧
    sp (on (st rSP 0 m0) [0x50]) = 0xFFFE := by decide +kernel
theorem test_pushImm : rd (on m0 [0x6A, 0xFE]) 0x1FFFC 2 = [0xFE, 0xFF] := by decide +kernel
/-- W10. -/
theorem test_pushSeg : rd (on m0 [0x0E]) 0x1FFFC 2 = [0x00, 0x10] ∧ sp (on m0 [0x0E]) = 0xFFFC := by decide +kernel
/-- W9. -/
theorem test_pop : sp (on (put (st rSP 0x200 m0) 0x10200 [0x34, 0x12]) [0x5C]) = 0x1234 := by decide +kernel
theorem test_popSeg : (on (put (st rSP 0x200 m0) 0x10200 [0x34, 0x12]) [0x17]).ss = 0x1234 ∧
    (on (put (st rSP 0x200 m0) 0x10200 [0x34, 0x12]) [0x17]).shadow = true := by decide +kernel
/-- W13 for MOV; the rows of FS and GS halt alike. -/
theorem test_fsGs : [[0x0F, 0xA0], [0x0F, 0xA8], [0x0F, 0xA1], [0x0F, 0xA9], [0x0F, 0xB4], [0x0F, 0xB5]].all
    (fun b => (on m0 b).run == .faulted (.unsupportedFeature .fsGs) 0x1000 0x0100) = true := by decide +kernel
/-- W21. -/
theorem test_pusha :
    let t := on (st rSP 0x100 (st rAX 1 (st rCX 2 (st rDX 3 (st rBX 4 (st rBP 6 (st rSI 7 (st rDI 8 m0)))))))) [0x60]
    sp t = 0xF0 ∧ rd t 0x100F0 16 = [8, 0, 7, 0, 6, 0, 0, 1, 4, 0, 3, 0, 2, 0, 1, 0] := by decide +kernel
theorem test_popa : let t := on (put (st rSP 0x200 m0) 0x10200 [8, 0, 7, 0, 6, 0, 9, 9, 4, 0, 3, 0, 2, 0, 1, 0]) [0x61]
    ax t = 1 ∧ t.r16 rDI = 8 ∧ sp t = 0x210 := by decide +kernel
/-- S5. -/
theorem test_pushf : rd (on (m0.setFlags { m0.flags with cf := true, pf := true, zf := true }) [0x9C]) 0x1FFFC 2 =
    [0x47, 0x02] := by decide +kernel
/-- S6. -/
theorem test_popf : (on (put m0 0x1FFFE [0xFF, 0xFF]) [0x9D]).flags.image = 0x0FD7 := by decide +kernel
/-- W15. -/
theorem test_lds : let t := on (put m0 0x10200 [0x34, 0x12, 0x00, 0x50]) [0xC5, 0x36, 0x00, 0x02]
    t.r16 rSI = 0x1234 ∧ t.ds = 0x5000 := by decide +kernel
theorem test_les : let t := on (put m0 0x10200 [0x34, 0x12, 0x00, 0x50]) [0xC4, 0x3E, 0x00, 0x02]
    t.r16 rDI = 0x1234 ∧ t.es = 0x5000 := by decide +kernel
theorem test_lss : let t := on (put m0 0x10200 [0x34, 0x12, 0x00, 0x50]) [0x0F, 0xB2, 0x26, 0x00, 0x02]
    sp t = 0x1234 ∧ t.ss = 0x5000 ∧ t.shadow = false := by decide +kernel
/-- W16. -/
theorem test_lea : ax (on (st rBX 0xFFFF (st rSI 2 m0)) [0x8D, 0x00]) = 1 := by decide +kernel
/-- W17. -/
theorem test_xlat : (on (put (st rBX 0xFFFF (st rAX 1 m0)) 0x10000 [0x5A]) [0xD7]).r8 rAL = 0x5A := by decide +kernel
/-- W22. -/
theorem test_lahf : (on (m0.setFlags { m0.flags with sf := true, af := true, cf := true }) [0x9F]).r8 rAH = 0x93 := by
  decide +kernel
theorem test_sahf : arith (on (st rAX 0xFF00 m0) [0x9E]) = [true, false, true, true, true, true] := by decide +kernel
/-- W19. -/
theorem test_cbw : (on (st rAX 0x8000 m0) [0x66, 0x98]).r32 rAX = 0xFFFF8000 ∧ ax (on (st rAX 0x80 m0) [0x98]) = 0xFF80 := by
  decide +kernel
theorem test_cwd : dx (on (st rAX 0x8000 m0) [0x99]) = 0xFFFF ∧ dx (on (st rAX 0x7FFF (st rDX 5 m0)) [0x99]) = 0 := by
  decide +kernel
/-- W20. -/
theorem test_movzx_movsx : ax (on (st rBX 0x80 m0) [0x0F, 0xBE, 0xC3]) = 0xFF80 ∧
    ax (on (st rBX 0x80 m0) [0x0F, 0xB6, 0xC3]) = 0x80 := by decide +kernel
/-- W18. -/
theorem test_in : (on m0 [0xE4, 0x60]).events.length = 1 ∧ (on m0 [0xE4, 0x60]).ip = 0x0102 := by decide +kernel
theorem test_out : (on (st rDX 0x3F8 (st rAX 0x1241 m0)) [0xEE]).events = [.ioWrite 0x3F8 1 0x41] := by decide +kernel

-- 41_arithmetic.md
/-- A1, A2. -/
theorem test_add : ax (on (st rAX 0x7FFF (st rBX 1 m0)) [0x01, 0xD8]) = 0x8000 ∧
    arith (on (st rAX 0x7FFF (st rBX 1 m0)) [0x01, 0xD8]) = [false, true, true, false, true, true] ∧
    arith (on (st rAX 0xFF (st rBX 1 m0)) [0x00, 0xD8]) = [true, false, false, true, true, true] := by decide +kernel
/-- A4. -/
theorem test_adc : let t := on (withCf (m0.setR32 rAX 0xFFFFFFFF)) [0x66, 0x15, 0, 0, 0, 0]
    t.r32 rAX = 0 ∧ arith t = [true, false, false, true, true, true] := by decide +kernel
/-- A6. -/
theorem test_sub : let t := on (st rAX 0x8000 m0) [0x2D, 0x01, 0x00]
    ax t = 0x7FFF ∧ arith t = [false, true, false, false, true, true] := by decide +kernel
/-- A7. -/
theorem test_sbb : let t := on (withCf m0) [0x1C, 0xFF]
    t.r8 rAL = 0 ∧ arith t = [true, false, false, true, true, true] := by decide +kernel
/-- A8. -/
theorem test_cmp : let t := on (st rAX 0x7F m0) [0x3C, 0x80]
    ax t = 0x7F ∧ arith t = [true, true, true, false, false, true] := by decide +kernel
/-- A9. -/
theorem test_inc : let t := on (st rAX 0xFF (withCf m0)) [0xFE, 0xC0]
    ax t = 0 ∧ arith t = [true, false, false, true, true, true] := by decide +kernel
theorem test_dec : let t := on (st rAX 0x8000 (withCf m0)) [0x48]
    ax t = 0x7FFF ∧ arith t = [true, true, false, false, true, true] := by decide +kernel
/-- A10. -/
theorem test_neg : arith (on m0 [0xF6, 0xD8]) = [false, false, false, true, false, true] ∧
    ax (on (st rAX 5 m0) [0xF7, 0xD8]) = 0xFFFB := by decide +kernel
/-- A11. -/
theorem test_mul : let t := on (st rAX 0xFFFF (st rBX 0xFFFF m0)) [0xF7, 0xE3]
    ax t = 1 ∧ dx t = 0xFFFE ∧ t.flags.cf = true ∧ t.flags.ofl = true := by decide +kernel
/-- A13. -/
theorem test_imul : let t := on (st rAX 0xFFFF (st rBX 0xFFFF m0)) [0xF7, 0xEB]
    ax t = 1 ∧ dx t = 0 ∧ t.flags.cf = false ∧ t.flags.ofl = false := by decide +kernel
theorem test_imul_two_three : ax (on (st rAX 0x4000 (st rBX 2 m0)) [0x0F, 0xAF, 0xC3]) = 0x8000 ∧
    (on (st rAX 0x4000 (st rBX 2 m0)) [0x0F, 0xAF, 0xC3]).flags.cf = true ∧
    ax (on (st rBX 3 m0) [0x6B, 0xC3, 0xFE]) = 0xFFFA := by decide +kernel
/-- A14, A15. -/
theorem test_div : ax (on (st rAX 0x100 (st rBX 2 m0)) [0xF6, 0xF3]) = 0x80 ∧
    (let t := on (handler 0 (st rAX 0x1234 m0)) [0xF6, 0xF3]
     ax t = 0x1234 ∧ rd t 0x1FFF8 6 = [0x00, 0x01, 0x00, 0x10, 0x02, 0x02] ∧ t.cs = 0x2000 ∧ t.ip = 0) := by decide +kernel
/-- A17, A18. -/
theorem test_idiv : ax (on (st rAX 0xFF80 (st rBX 1 m0)) [0xF6, 0xFB]) = 0x0080 ∧
    ax (on (st rAX 0xFFF9 (st rBX 2 m0)) [0xF6, 0xFB]) = 0xFFFD := by decide +kernel
/-- A19, its second instruction. -/
theorem test_daa : let t := on (st rAX 0xAE m0) [0x27]
    t.r8 rAL = 0x14 ∧ t.flags.af = true ∧ t.flags.cf = true := by decide +kernel
theorem test_das : let t := on (st rAX 0x9A m0) [0x2F]
    t.r8 rAL = 0x34 ∧ t.flags.af = true ∧ t.flags.cf = true := by decide +kernel
/-- A20. -/
theorem test_aaa : ax (on (st rAX 0xFB m0) [0x37]) = 0x0201 ∧
    ax (on (par (st rAX 0xFB m0) fun p => { p with aaa := .ah }) [0x37]) = 0x0101 := by decide +kernel
/-- A21. -/
theorem test_aas : ax (on ((st rAX 0x103 m0).setFlags { m0.flags with af := true }) [0x3F]) = 0xFF0D := by decide +kernel
/-- A22, A24. -/
theorem test_aam : ax (on (st rAX 0x3F m0) [0xD4, 0x0A]) = 0x0603 ∧ (on (handler 0 m0) [0xD4, 0x00]).cs = 0x2000 := by
  decide +kernel
/-- A23. -/
theorem test_aad : ax (on (st rAX 0x603 m0) [0xD5, 0x0A]) = 0x003F := by decide +kernel

-- 42_logic_shift_bit.md
/-- L1. -/
theorem test_and : ax (on (st rAX 0xF5 m0) [0x24, 0x0F]) = 5 ∧
    logical (on (st rAX 0xF5 m0) [0x24, 0x0F]) = [false, false, false, false, true] := by decide +kernel
theorem test_or : ax (on (st rAX 0x80 (withCf m0)) [0x0C, 0x01]) = 0x81 ∧
    logical (on (st rAX 0x80 (withCf m0)) [0x0C, 0x01]) = [false, false, true, false, true] := by decide +kernel
/-- L2. -/
theorem test_xor : logical (on (st rAX 0x5A m0) [0x30, 0xC0]) = [false, false, false, true, true] := by decide +kernel
/-- L3. -/
theorem test_not : ax (on (st rAX 0x0F m0) [0xF6, 0xD0]) = 0xF0 ∧ (on (st rAX 0x0F m0) [0xF6, 0xD0]).flags = m0.flags := by
  decide +kernel
/-- L4. -/
theorem test_test : ax (on (st rAX 0x80 m0) [0xA8, 0x80]) = 0x80 ∧
    logical (on (st rAX 0x80 m0) [0xA8, 0x80]) = [false, false, true, false, false] := by decide +kernel
/-- L9. -/
theorem test_rol : ax (on (st rAX 0x81 m0) [0xD0, 0xC0]) = 3 ∧
    arith (on (st rAX 0x81 m0) [0xD0, 0xC0]) = [true, true, false, false, false, false] := by decide +kernel
theorem test_ror : ax (on (st rAX 0x81 m0) [0xD0, 0xC8]) = 0xC0 ∧
    arith (on (st rAX 0x81 m0) [0xD0, 0xC8]) = [true, false, false, false, false, false] := by decide +kernel
/-- L8: a rotate of nine places through CF and eight bits. -/
theorem test_rcl : ax (on (st rAX 0x5A (st rCX 9 (withCf m0))) [0xD2, 0xD0]) = 0x5A ∧
    (on (st rAX 0x5A (st rCX 9 (withCf m0))) [0xD2, 0xD0]).flags.cf = true := by decide +kernel
theorem test_rcr : ax (on (st rAX 0x02 (withCf m0)) [0xD0, 0xD8]) = 0x81 ∧
    arith (on (st rAX 0x02 (withCf m0)) [0xD0, 0xD8]) = [false, true, false, false, false, false] := by decide +kernel
/-- L6: the count 21h is 1. -/
theorem test_shl : ax (on (st rAX 0x81 (st rCX 0x21 m0)) [0xD2, 0xE0]) = 2 ∧
    logical (on (st rAX 0x81 (st rCX 0x21 m0)) [0xD2, 0xE0]) = [true, true, false, false, false] := by decide +kernel
/-- L12. -/
theorem test_shr : ax (on (st rAX 0x81 m0) [0xD0, 0xE8]) = 0x40 ∧
    logical (on (st rAX 0x81 m0) [0xD0, 0xE8]) = [true, true, false, false, false] := by decide +kernel
/-- L7. -/
theorem test_sar : ax (on (st rAX 0x80 (st rCX 9 m0)) [0xD2, 0xF8]) = 0xFF ∧
    (on (st rAX 0x80 (st rCX 9 m0)) [0xD2, 0xF8]).flags.cf = true := by decide +kernel
/-- L13. -/
theorem test_shld : ax (on (st rBX 0xABCD (st rAX 0x1234 m0)) [0x0F, 0xA4, 0xD8, 0x04]) = 0x234A ∧
    (on (st rBX 0xABCD (st rAX 0x1234 m0)) [0x0F, 0xA4, 0xD8, 0x04]).flags.cf = true := by decide +kernel
theorem test_shrd : ax (on (st rBX 0xABCD (st rAX 0x1238 m0)) [0x0F, 0xAC, 0xD8, 0x04]) = 0xD123 ∧
    (on (st rBX 0xABCD (st rAX 0x1238 m0)) [0x0F, 0xAC, 0xD8, 0x04]).flags.cf = true := by decide +kernel
/-- L14: bit -1 is the top bit of the word before. -/
theorem test_bt : (on (put (st rBX 0x202 (st rAX 0xFFFF m0)) 0x10200 [0x00, 0x80]) [0x0F, 0xA3, 0x07]).flags.cf = true := by
  decide +kernel
/-- L15. -/
theorem test_bts : ax (on m0 [0x0F, 0xBA, 0xE8, 0x03]) = 8 ∧ (on m0 [0x0F, 0xBA, 0xE8, 0x03]).flags.cf = false := by
  decide +kernel
theorem test_btr_btc : ax (on (st rAX 0xFF m0) [0x0F, 0xBA, 0xF0, 0x13]) = 0xF7 ∧
    ax (on (st rAX 0xF7 m0) [0x0F, 0xBA, 0xF8, 0x03]) = 0xFF := by decide +kernel
/-- L16. -/
theorem test_bsf : (on m0 [0x0F, 0xBC, 0xC3]).flags.zf = true ∧ ax (on (st rBX 0x0050 m0) [0x0F, 0xBC, 0xC3]) = 4 := by
  decide +kernel
theorem test_bsr : ax (on (st rBX 0x0050 m0) [0x0F, 0xBD, 0xC3]) = 6 := by decide +kernel
/-- L17. -/
theorem test_setcc : ax (on (m0.setFlags { m0.flags with sf := true }) [0x0F, 0x9C, 0xC0]) = 1 := by decide +kernel

-- 43_string.md
/-- T2: with DF = 1 the bytes are copied downwards. -/
theorem test_movsb : let t := on (put (withDf (st rCX 3 (st rSI 0x202 (st rDI 0x302 m0)))) 0x10200 [0x41, 0x42, 0x43]) [0xF3, 0xA4]
    rd t 0x10300 3 = [0x41, 0x42, 0x43] ∧ t.r16 rSI = 0x1FF ∧ t.r16 rDI = 0x2FF ∧ t.r16 rCX = 0 := by decide +kernel
theorem test_movsw : let t := on (put (st rSI 0x200 (st rDI 0x300 m0)) 0x10200 [0x41, 0x42]) [0xA5]
    rd t 0x10300 2 = [0x41, 0x42] ∧ t.r16 rSI = 0x202 := by decide +kernel
/-- T7: with CX = 0 nothing happens. -/
theorem test_cmpsb : (on (st rSI 0x200 m0) [0xF3, 0xA6]).flags = m0.flags ∧ (on (st rSI 0x200 m0) [0xF3, 0xA6]).ip = 0x0102 := by
  decide +kernel
theorem test_cmpsw : arith (on (put (st rSI 0x200 (st rDI 0x300 m0)) 0x10200 [0x00, 0x80]) [0xA7]) =
    [false, false, true, false, false, true] := by decide +kernel
/-- T6. -/
theorem test_scasb :
    let t := on (put (st rAX 0x43 (st rDI 0x300 (st rCX 10 m0))) 0x10300 [0x41, 0x42, 0x43, 0x44]) [0xF2, 0xAE]
    t.r16 rCX = 7 ∧ t.r16 rDI = 0x303 ∧ arith t = [false, false, false, true, false, true] := by decide +kernel
theorem test_scasw : (on (st rAX 1 (st rDI 0x300 m0)) [0xAF]).r16 rDI = 0x302 := by decide +kernel
/-- T4. -/
theorem test_lodsb : let t := on (put (st rSI 0xFFFF m0) 0x1FFFF [0x7E]) [0xAC]
    ax t = 0x7E ∧ t.r16 rSI = 0 := by decide +kernel
theorem test_lodsw : ax (on (put (st rSI 0x200 m0) 0x10200 [0x34, 0x12]) [0xAD]) = 0x1234 := by decide +kernel
theorem test_stosb : rd (on (st rAX 0x41 (st rDI 0x300 (st rCX 3 m0))) [0xF3, 0xAA]) 0x10300 4 = [0x41, 0x41, 0x41, 0] := by
  decide +kernel
/-- T8. -/
theorem test_stosw : let t := on (st rDI 0x300 (m0.setR32 rAX 0x11223344)) [0x66, 0xAB]
    rd t 0x10300 4 = [0x44, 0x33, 0x22, 0x11] ∧ t.r16 rDI = 0x304 := by decide +kernel
theorem test_ins : (on (st rDI 0x300 m0) [0x6C]).r16 rDI = 0x301 ∧ (on (st rDI 0x300 m0) [0x6D]).r16 rDI = 0x302 := by
  decide +kernel
theorem test_outs : (on (put (st rDX 0x3F8 (st rSI 0x200 m0)) 0x10200 [0x41, 0x42]) [0x6F]).events = [.ioWrite 0x3F8 2 0x4241] ∧
    (on (put (st rDX 0x3F8 (st rSI 0x200 m0)) 0x10200 [0x41, 0x42]) [0x6E]).events = [.ioWrite 0x3F8 1 0x41] := by
  decide +kernel

-- 44_control_transfer.md
/-- X1, X16, X3. -/
theorem test_jmp : (on { m0 with ip := 0xFFF0 } [0xEB, 0x20]).ip = 0x12 ∧ (on { m0 with ip := 0xFFF0 } [0xE9, 0x20, 0x00]).ip = 0x13 ∧
    (on m0 [0x66, 0xE9, 0x00, 0x00, 0x01, 0x00]).run = .faulted (.unsupportedFeature .ipBeyond) 0x1000 0x0100 := by
  decide +kernel
theorem test_jmp_indirect : (on (st rAX 0x1234 m0) [0xFF, 0xE0]).ip = 0x1234 := by decide +kernel
theorem test_jmp_far : (on m0 [0xEA, 0x00, 0x01, 0x00, 0x30]).cs = 0x3000 ∧
    (on (put (st rBX 0x200 m0) 0x10200 [0x34, 0x12, 0x00, 0x50]) [0xFF, 0x2F]).cs = 0x5000 ∧
    (on (put (st rBX 0x200 m0) 0x10200 [0x34, 0x12, 0x00, 0x50]) [0xFF, 0x2F]).ip = 0x1234 := by decide +kernel
theorem test_jcc : (on (m0.setFlags { m0.flags with sf := true }) [0x7C, 0x10]).ip = 0x112 ∧ (on m0 [0x7C, 0x10]).ip = 0x102 ∧
    (on m0 [0x0F, 0x85, 0x00, 0x01]).ip = 0x204 := by decide +kernel
/-- X15. -/
theorem test_jcxz : (on m0 [0xE3, 0x10]).ip = 0x112 ∧ (on (st rCX 1 m0) [0xE3, 0x10]).ip = 0x102 := by decide +kernel
/-- X5. -/
theorem test_loop : (on m0 [0xE2, 0xFE]).r16 rCX = 0xFFFF ∧ (on m0 [0xE2, 0xFE]).ip = 0x100 := by decide +kernel
theorem test_loope_loopne : (on (st rCX 2 m0) [0xE1, 0xFE]).ip = 0x102 ∧ (on (st rCX 2 m0) [0xE0, 0xFE]).ip = 0x100 := by
  decide +kernel
/-- X7. -/
theorem test_call : rd (on m0 [0xE8, 0x10, 0x00]) 0x1FFFC 2 = [0x03, 0x01] ∧ (on m0 [0xE8, 0x10, 0x00]).ip = 0x113 ∧
    (on (st rAX 0x500 m0) [0xFF, 0xD0]).ip = 0x500 := by decide +kernel
/-- X9. -/
theorem test_call_far : let t := on m0 [0x9A, 0x00, 0x00, 0x00, 0x30]
    rd t 0x1FFFA 4 = [0x05, 0x01, 0x00, 0x10] ∧ sp t = 0xFFFA ∧ t.cs = 0x3000 ∧ t.ip = 0 ∧
      (on (put (st rBX 0x200 m0) 0x10200 [0x34, 0x12, 0x00, 0x50]) [0xFF, 0x1F]).cs = 0x5000 := by decide +kernel
/-- X8. -/
theorem test_ret : let t := on (put (st rSP 0xFFF8 m0) 0x1FFF8 [0x00, 0x02]) [0xC2, 0x04, 0x00]
    t.ip = 0x200 ∧ sp t = 0xFFFE := by decide +kernel
theorem test_retf : let t := on (put (st rSP 0x200 m0) 0x10200 [0x05, 0x01, 0x00, 0x30]) [0xCB]
    t.cs = 0x3000 ∧ t.ip = 0x105 ∧ sp t = 0x204 := by decide +kernel
/-- X2, X10. -/
theorem test_int : let t := on (handler 0x60 m0) [0xCD, 0x60]
    rd t 0x1FFF8 6 = [0x02, 0x01, 0x00, 0x10, 0x02, 0x02] ∧ t.flags.ifl = false ∧ t.cs = 0x2000 ∧
      (on m0 [0xCD, 0x60]).run = .faulted (.unhandledInterrupt 0x60) 0x1000 0x0100 := by decide +kernel
/-- X17. -/
theorem test_int3 : rd (on (handler 3 m0) [0xCC]) 0x1FFF8 2 = [0x01, 0x01] := by decide +kernel
/-- X13. -/
theorem test_into : (on ((handler 4 m0).setFlags { m0.flags with ofl := true }) [0xCE]).cs = 0x2000 ∧
    (on (handler 4 m0) [0xCE]).ip = 0x101 := by decide +kernel
theorem test_iret : let t := on (put (st rSP 0x200 m0) 0x10200 [0x02, 0x01, 0x00, 0x30, 0x03, 0x0A]) [0xCF]
    t.ip = 0x102 ∧ t.cs = 0x3000 ∧ t.flags.image = 0x0A03 ∧ sp t = 0x206 := by decide +kernel
theorem test_enter : let t := on (st rBP 0x1234 m0) [0xC8, 0x04, 0x00, 0x00]
    rd t 0x1FFFC 2 = [0x34, 0x12] ∧ t.r16 rBP = 0xFFFC ∧ sp t = 0xFFF8 := by decide +kernel
theorem test_leave : let t := on (put (st rBP 0x200 m0) 0x10200 [0x34, 0x12]) [0xC9]
    t.r16 rBP = 0x1234 ∧ sp t = 0x202 := by decide +kernel
/-- X14. -/
theorem test_bound : let s := handler 5 (put m0 0x10200 [0x00, 0x00, 0x09, 0x00])
    (on (st rAX 10 s) [0x62, 0x06, 0x00, 0x02]).cs = 0x2000 ∧ (on (st rAX 9 s) [0x62, 0x06, 0x00, 0x02]).ip = 0x104 := by
  decide +kernel

-- 45_processor_control.md
/-- K1. -/
theorem test_carry : (on m0 [0xF5]).flags.cf = true ∧ (on m0 [0xF9]).flags.cf = true ∧ (on (withCf m0) [0xF8]).flags.cf = false := by
  decide +kernel
/-- K2, K3. -/
theorem test_direction_and_interrupt : (on m0 [0xFD]).flags.df = true ∧ (on (withDf m0) [0xFC]).flags.df = false ∧
    (on m0 [0xFA]).flags.ifl = false ∧ (on (m0.setFlags { m0.flags with ifl := false }) [0xFB]).flags.ifl = true := by
  decide +kernel
/-- K4. -/
theorem test_hlt : (on m0 [0xF4]).run = .halted ∧ step (on m0 [0xF4]) = .fault .haltedForever := by
  constructor
  · decide +kernel
  · rfl
/-- K6. -/
theorem test_nop_wait : (on m0 [0x90]).ip = 0x101 ∧ (on m0 [0x9B]).ip = 0x101 := by decide +kernel
/-- K8. -/
theorem test_protected_mode : [[0x0F, 0x20, 0xC0], [0x0F, 0x06], [0x63, 0xC0]].all
    (fun b => (on m0 b).run == .faulted (.unsupportedFeature .protectedMode) 0x1000 0x0100) = true := by decide +kernel

-- 46 to 48: the FPU. A test reads a physical register: TOP is 6 with two registers pushed.
/-- The reset state with values pushed, the first one last. -/
def withSt (vs : List F80) : State := { m0 with fpu := vs.reverse.foldl (fun f v => f.pushRaw v) m0.fpu }

/-- ... under another control word. -/
def cw (w : BitVec 16) (s : State) : State := { s with fpu := { s.fpu with cw := w } }

/-- A physical register after a step. -/
def reg (s : State) (k : BitVec 3) : F80 := s.fpu.phReg k

abbrev v1 : F80 := 0x3FFF8000000000000000
abbrev v2 : F80 := 0x40008000000000000000
abbrev v3 : F80 := 0x4000C000000000000000

/-- R601 with R509 and R510: 1.0 scaled by -40976 with UM = 0 is 2^-16400 once its exponent is adjusted, a denormal. -/
theorem test_fscale_adjusted : reg (on (cw 0x036F (withSt [v1, 0xC00EA010000000000000])) [0xD9, 0xFD]) 6 = 0x00000000200000000000 := by
  decide +kernel

/-- F18, F1. -/
theorem test_fld : reg (on (put m0 0x10206 [0xF0, 0x3F]) [0xDD, 0x06, 0x00, 0x02]) 7 = v1 ∧
    reg (on (put m0 0x10200 [1, 0, 0, 0, 0, 0, 0, 0x80, 0xFF, 0x7F]) [0xDB, 0x2E, 0x00, 0x02]) 7 = 0x7FFF8000000000000001 := by
  decide +kernel
theorem test_fild_fbld : reg (on (put m0 0x10200 [0xFD, 0xFF]) [0xDF, 0x06, 0x00, 0x02]) 7 = 0xC000C000000000000000 ∧
    reg (on (put m0 0x10200 [0x03, 0, 0, 0, 0, 0, 0, 0, 0, 0x80]) [0xDF, 0x26, 0x00, 0x02]) 7 = 0xC000C000000000000000 := by
  decide +kernel
/-- F17. -/
theorem test_fst_fstp : rd (on (withSt [0x3FFDAAAAAAAAAAAAAAAB]) [0xD9, 0x1E, 0x00, 0x02]) 0x10200 4 = [0xAB, 0xAA, 0xAA, 0x3E] ∧
    (on (withSt [0x3FFDAAAAAAAAAAAAAAAB]) [0xD9, 0x1E, 0x00, 0x02]).fpu.empty = 0xFF ∧
    rd (on (withSt [v1]) [0xDD, 0x16, 0x00, 0x02]) 0x10206 2 = [0xF0, 0x3F] := by decide +kernel
/-- F11: 65536 does not fit a word. -/
theorem test_fist_fistp : rd (on (withSt [0x400F8000000000000000]) [0xDF, 0x1E, 0x00, 0x02]) 0x10200 2 = [0x00, 0x80] ∧
    rd (on (withSt [0x4000A000000000000000]) [0xDB, 0x16, 0x00, 0x02]) 0x10200 4 = [2, 0, 0, 0] := by decide +kernel
theorem test_fbstp : rd (on (withSt [0xC002C000000000000000]) [0xDF, 0x36, 0x00, 0x02]) 0x10200 10 =
    [0x12, 0, 0, 0, 0, 0, 0, 0, 0, 0x80] := by decide +kernel
theorem test_fxch : reg (on (withSt [v1, v3]) [0xD9, 0xC9]) 6 = v3 ∧ reg (on (withSt [v1, v3]) [0xD9, 0xC9]) 7 = v1 := by
  decide +kernel
/-- P4, its first addition. -/
theorem test_fadd_faddp : reg (on (withSt [v1, v1]) [0xDE, 0xC1]) 7 = v2 ∧ reg (on (withSt [v1, v2]) [0xD8, 0xC1]) 6 = v3 ∧
    (on (withSt [v1, v1]) [0xDE, 0xC1]).fpu.empty = 0x7F := by decide +kernel
theorem test_fiadd : reg (on (put (withSt [v1]) 0x10200 [2, 0]) [0xDE, 0x06, 0x00, 0x02]) 7 = v3 := by decide +kernel
theorem test_fsub : reg (on (withSt [v1, v3]) [0xD8, 0xE1]) 6 = 0xC0008000000000000000 ∧
    reg (on (withSt [v1, v3]) [0xDE, 0xE9]) 7 = v2 ∧ reg (on (put (withSt [v3]) 0x10200 [2, 0]) [0xDE, 0x26, 0x00, 0x02]) 7 = v1 := by
  decide +kernel
theorem test_fsubr : reg (on (withSt [v1, v3]) [0xD8, 0xE9]) 6 = v2 ∧
    reg (on (withSt [v1, v3]) [0xDE, 0xE1]) 7 = 0xC0008000000000000000 ∧
    reg (on (put (withSt [v1]) 0x10200 [3, 0]) [0xDE, 0x2E, 0x00, 0x02]) 7 = v2 := by decide +kernel
theorem test_fmul : reg (on (withSt [v3]) [0xD8, 0xC8]) 7 = 0x40029000000000000000 ∧ reg (on (withSt [v2, v3]) [0xDE, 0xC9]) 7 =
    0x4001C000000000000000 ∧ reg (on (put (withSt [v3]) 0x10200 [2, 0]) [0xDE, 0x0E, 0x00, 0x02]) 7 = 0x4001C000000000000000 := by
  decide +kernel
/-- F4, F7, F5. -/
theorem test_fdiv : reg (on (withSt [v1, v3]) [0xD8, 0xF1]) 6 = 0x3FFDAAAAAAAAAAAAAAAB ∧
    reg (on (cw 0x0F7F (withSt [v1, v3])) [0xD8, 0xF1]) 6 = 0x3FFDAAAAAAAAAAAAAAAA ∧
    reg (on (cw 0x007F (withSt [v1, v3])) [0xD8, 0xF1]) 6 = 0x3FFDAAAAAB0000000000 := by decide +kernel
/-- F9: a finite value by zero. -/
theorem test_fdivp_fidiv : reg (on (withSt [v1, v3]) [0xDE, 0xF9]) 7 = v3 ∧ reg (on (withSt [v1, 0]) [0xD8, 0xF1]) 6 =
    0x7FFF8000000000000000 ∧ reg (on (put (withSt [v3]) 0x10200 [3, 0]) [0xDE, 0x36, 0x00, 0x02]) 7 = v1 := by decide +kernel
theorem test_fdivr : reg (on (withSt [v1, v3]) [0xD8, 0xF9]) 6 = v3 ∧ reg (on (withSt [v3, v1]) [0xDE, 0xF1]) 7 = v3 ∧
    reg (on (put (withSt [v1]) 0x10200 [3, 0]) [0xDE, 0x3E, 0x00, 0x02]) 7 = v3 := by decide +kernel
/-- F14. -/
theorem test_fsqrt : reg (on (withSt [0xBFFF8000000000000000]) [0xD9, 0xFA]) 7 = F80.indefinite ∧
    reg (on (withSt [0x40029000000000000000]) [0xD9, 0xFA]) 7 = v3 := by decide +kernel
theorem test_fabs_fchs : reg (on (withSt [0xFFFF8000000000000001]) [0xD9, 0xE1]) 7 = 0x7FFF8000000000000001 ∧
    reg (on (withSt [v1]) [0xD9, 0xE0]) 7 = 0xBFFF8000000000000000 := by decide +kernel
/-- F15. -/
theorem test_frndint : reg (on (withSt [0x4000A000000000000000]) [0xD9, 0xFC]) 7 = v2 ∧
    reg (on (cw 0x077F (withSt [0xC000A000000000000000])) [0xD9, 0xFC]) 7 = 0xC000C000000000000000 := by decide +kernel
/-- R522: a denormal rounds to 0 or 1 with PE. -/
theorem test_frndint_denormal : rndintCalc .up 1 = .value v1 true true ∧ rndintCalc .nearest 1 = .value 0 true false := by
  decide +kernel
theorem test_fscale_fxtract : reg (on (withSt [v3, v2]) [0xD9, 0xFD]) 6 = 0x4002C000000000000000 ∧
    reg (on (withSt [v3]) [0xD9, 0xF4]) 7 = v1 ∧ reg (on (withSt [v3]) [0xD9, 0xF4]) 6 = 0x3FFFC000000000000000 := by
  decide +kernel
/-- 3 rem 2 is 1, by the quotient 1; to nearest it is -1, by the quotient 2. -/
theorem test_fprem_fprem1 : reg (on (withSt [v3, v2]) [0xD9, 0xF8]) 6 = v1 ∧
    reg (on (withSt [v3, v2]) [0xD9, 0xF5]) 6 = 0xBFFF8000000000000000 := by decide +kernel

/-- F12: C3, C2 and C0 after a comparison. -/
theorem test_fcom : (on (withSt [v1, v2]) [0xD8, 0xD1]).fpu.codes = ⟨false, false, true⟩ ∧
    (on (withSt [v1, v1]) [0xDE, 0xD9]).fpu.codes = ⟨true, false, false⟩ ∧ (on (withSt [v1, v1]) [0xDE, 0xD9]).fpu.empty = 0xFF := by
  decide +kernel
/-- A quiet NaN is unordered, and an exception for the ordered comparison alone. -/
theorem test_fucom : (on (withSt [v1, F80.indefinite]) [0xDD, 0xE1]).fpu.sw = 0x7500 ∧
    (on (withSt [v1, F80.indefinite]) [0xD8, 0xD1]).fpu.sw = 0x7501 := by decide +kernel
theorem test_ficom_ftst : (on (put (withSt [v3]) 0x10200 [2, 0]) [0xDE, 0x16, 0x00, 0x02]).fpu.codes = ⟨false, false, false⟩ ∧
    (on (withSt [0xBFFF8000000000000000]) [0xD9, 0xE4]).fpu.codes = ⟨false, false, true⟩ := by decide +kernel
/-- F13: an empty ST(0). -/
theorem test_fxam : (on m0 [0xD9, 0xE5]).fpu.sw = 0x4100 ∧ (on (withSt [0xBFFF8000000000000000]) [0xD9, 0xE5]).fpu.sw = 0x3E00 := by
  decide +kernel
/-- Exact operands of the transcendental instructions: zeros, and magnitudes too large for FSIN. -/
theorem test_transcendental : reg (on (withSt [0]) [0xD9, 0xFE]) 7 = 0 ∧ reg (on (withSt [0]) [0xD9, 0xFF]) 7 = v1 ∧
    (on (withSt [0x403E8000000000000000]) [0xD9, 0xFE]).fpu.codes.c2 = true ∧ reg (on (withSt [0]) [0xD9, 0xF0]) 7 = 0 := by
  decide +kernel
/-- R651 to R654: an infinity clears C2 where IE is unmasked too, and a denormal where DE is. -/
theorem test_transcendental_c2 : ∀ b ∈ [(0xFE : Byte), 0xFF, 0xFB, 0xF2],
    (let s := cw 0x037E (withSt [F80.inf false])
     (on { s with fpu := s.fpu.setC2 true } [0xD9, b]).fpu.codes.c2 = false) ∧
    (let s := cw 0x037D (withSt [1])
     (on { s with fpu := s.fpu.setC2 true } [0xD9, b]).fpu.codes.c2 = false) := by decide +kernel
theorem test_transcendental_push : reg (on (withSt [0]) [0xD9, 0xFB]) 6 = v1 ∧ reg (on (withSt [0]) [0xD9, 0xF2]) 6 = v1 ∧
    reg (on (withSt [0]) [0xD9, 0xF2]) 7 = 0 := by decide +kernel
theorem test_transcendental_pop : reg (on (withSt [v1, 0]) [0xD9, 0xF3]) 7 = 0 ∧ reg (on (withSt [v1, v3]) [0xD9, 0xF1]) 7 = 0 ∧
    reg (on (withSt [0, v3]) [0xD9, 0xF9]) 7 = 0 := by decide +kernel
/-- F19; log2 of 10 rounds up only under RC = up. -/
theorem test_constants : reg (on m0 [0xD9, 0xEB]) 7 = 0x4000C90FDAA22168C235 ∧
    reg (on (cw 0x0F7F m0) [0xD9, 0xEB]) 7 = 0x4000C90FDAA22168C234 ∧ reg (on m0 [0xD9, 0xE8]) 7 = v1 ∧
    reg (on m0 [0xD9, 0xEE]) 7 = 0 ∧ reg (on m0 [0xD9, 0xE9]) 7 = 0x4000D49A784BCD1B8AFE ∧
    reg (on (cw 0x0B7F m0) [0xD9, 0xE9]) 7 = 0x4000D49A784BCD1B8AFF := by decide +kernel
theorem test_constants_log : reg (on m0 [0xD9, 0xEA]) 7 = 0x3FFFB8AA3B295C17F0BC ∧
    reg (on m0 [0xD9, 0xEC]) 7 = 0x3FFD9A209A84FBCFF799 ∧ reg (on m0 [0xD9, 0xED]) 7 = 0x3FFEB17217F7D1CF79AC := by
  decide +kernel
/-- Z1; 10_state.md R69 fixes bits of CW. -/
theorem test_control_words : rd (on m0 [0xD9, 0x3E, 0x00, 0x02]) 0x10200 2 = [0x7F, 0x03] ∧
    (on (put m0 0x10300 [0xFF, 0xFF]) [0xD9, 0x2E, 0x00, 0x03]).fpu.cw = 0x1F7F ∧
    ax (on (withSt [v1]) [0xDF, 0xE0]) = 0x3800 := by decide +kernel
/-- F16. -/
theorem test_environment : rd (on m0 [0xD9, 0x36, 0x00, 0x02]) 0x10200 14 =
    [0x7F, 0x03, 0, 0, 0xFF, 0xFF, 0, 0, 0, 0, 0, 0, 0, 0] ∧
    (on (put m0 0x10200 [0x7F, 0x02, 0x00, 0x38, 0xFF, 0x3F]) [0xD9, 0x26, 0x00, 0x02]).fpu.empty = 0x7F := by decide +kernel
theorem test_save_restore : rd (on (withSt [v3]) [0xDD, 0x36, 0x00, 0x02]) 0x1020E 10 = [0, 0, 0, 0, 0, 0, 0, 0xC0, 0x00, 0x40] ∧
    (on (withSt [v3]) [0xDD, 0x36, 0x00, 0x02]).fpu.cw = 0x037F ∧
    reg (on (put (put m0 0x10202 [0x00, 0x38, 0xFF, 0x3F]) 0x10215 [0xC0, 0x00, 0x40]) [0xDD, 0x26, 0x00, 0x02]) 7 = v3 := by
  decide +kernel
theorem test_clear_init : (on { m0 with fpu := { m0.fpu with status := FpuStatus.ofImage 0xFFFF } } [0xDB, 0xE2]).fpu.sw = 0x7F00 ∧
    (on (withSt [v1]) [0xDB, 0xE3]).fpu.sw = 0 ∧ (on (withSt [v1]) [0xDB, 0xE3]).fpu.empty = 0xFF := by decide +kernel
theorem test_stack_control : (on (withSt [v1]) [0xDD, 0xC0]).fpu.empty = 0xFF ∧ (on m0 [0xD9, 0xD0]).ip = 0x102 ∧
    [(on m0 [0xDB, 0xE0]).ip, (on m0 [0xDB, 0xE1]).ip, (on m0 [0xDB, 0xE4]).ip] = [0x102, 0x102, 0x102] := by decide +kernel
/-- The result of an operation that has an undefined condition code: FDECSTP and FINCSTP only move TOP. -/
theorem test_top : (m0.fpu.setTop 7).top = 7 ∧ reg (on (withSt [v1]) [0xD9, 0xF7]) 7 = v1 ∧
    (on (withSt [v1]) [0xD9, 0xF6]).fpu.empty = 0x7F := by decide +kernel
/-- F10: an unmasked division by zero goes to the vector 75h, past the instruction. -/
theorem test_fpu_trap : let t := on (handler 0x75 (cw 0x037B (withSt [0, v1]))) [0xDE, 0xF9]
    t.cs = 0x2000 ∧ rd t 0x1FFF8 2 = [0x02, 0x01] ∧ reg t 6 = 0 ∧ reg t 7 = v1 ∧ t.fpu.empty = 0x3F := by decide +kernel

-- Steps
/-- Y3: the single-step trap, with TF = 1 in the image pushed. -/
theorem test_single_step : let t := on ((handler 1 m0).setFlags { m0.flags with tf := true }) [0x90]
    rd t 0x1FFF8 6 = [0x01, 0x01, 0x00, 0x10, 0x02, 0x03] ∧ t.cs = 0x2000 ∧ t.flags.tf = false := by decide +kernel
/-- D18: an invalid opcode under P_UD = trap. -/
theorem test_invalid_opcode_trap : let t := on (handler 6 (par m0 fun p => { p with ud := .trap })) [0x0F, 0xFF]
    rd t 0x1FFF8 2 = [0x00, 0x01] ∧ t.cs = 0x2000 ∧ (on m0 [0x0F, 0xFF]).run = .faulted (.invalidOpcode [0x0F, 0xFF]) 0x1000 0x0100 := by
  decide +kernel
/-- M5: the byte before the one that halts stays written. -/
theorem test_address_fault :
    let t := on (par (st rAX 0x1234 { m0 with ds := 0xF000 }) fun p => { p with ringExtra := 1 }) [0xA3, 0xFF, 0xFF]
    t.run = .faulted (.addressFault 0x100000) 0x1000 0x0100 ∧ rd t 0xFFFFF 1 = [0x34] := by decide +kernel
/-- D9: the fetch wraps within CS. -/
theorem test_fetch_wraps : ax (on { m0 with ip := 0xFFFF } [0xB0, 0x7F]) = 0x7F ∧ (on { m0 with ip := 0xFFFF } [0xB0, 0x7F]).ip = 1 := by
  decide +kernel
theorem test_fetch_word : (m0.withFetchWord 16 0xD889).fetch = .instr (.mov p0 (.evGv (.reg 0) 3)) 2 := by decide +kernel
theorem test_reset_memory : Memory.wf m0.mem ∧ m0.par.Valid := by decide

/-! ### States that meet the hypotheses of the statements

One witness for the hypotheses of each statement, and of each of its clauses, at a boundary of their range. -/

/-- Every access of the reset state is backed. -/
theorem m0_reaches (s : State) (h : s.par.NoHole) (p : Prefixes) (w : Width) (rm : RM) : s.Reaches p w rm := by
  cases rm with
  | reg _ => trivial
  | mem m => exact fun _ _ => Nat.lt_of_lt_of_le (Nat.mod_lt _ (Nat.two_pow_pos _)) h

/-- An operand whose second byte lies beyond the segment. -/
abbrev edge : RM := .mem (.direct 0xFFFF)

theorem witness_AddSubCompareResult : m0.Reaches p0 ((AluForm.evGv edge 0).width p0) (AluForm.evGv edge 0).rmOf :=
  m0_reaches m0 (by decide) _ _ _

theorem witness_OneOperandResult : m0.Reaches p66 ((IncForm.ev edge).width p66) (IncForm.ev edge).dst ∧
    m0.Reaches p0 ((EForm.eb edge).width p0) (EForm.eb edge).rm := ⟨m0_reaches m0 (by decide) _ _ _, m0_reaches m0 (by decide) _ _ _⟩

theorem witness_MultiplyResult : m0.Reaches p0 ((EForm.ev edge).width p0) (EForm.ev edge).rm ∧ m0.Reaches p0 (osW p0) edge :=
  ⟨m0_reaches m0 (by decide) _ _ _, m0_reaches m0 (by decide) _ _ _⟩

/-- FEFFh / FFh = FFh, the largest quotient of a byte division; FF80h / 1 = -128. -/
theorem witness_DivideResult :
    (let s := st rAX 0xFEFF (st rBX 0xFF m0)
     s.Reaches p0 ((EForm.eb (.reg 3)).width p0) (EForm.eb (.reg 3)).rm ∧ s.operand p0 .b8 (.reg 3) ≠ 0 ∧
      s.double .b8 / (s.operand p0 .b8 (.reg 3)).toNat = 2 ^ Width.bits .b8 - 1) ∧
    (let s := st rAX 0xFF80 (st rBX 1 m0)
     s.operand p0 .b8 (.reg 3) ≠ 0 ∧
      FitsSigned .b8 ((BitVec.ofNat (2 * Width.bits .b8) (s.double .b8)).toInt.tdiv (s.operand p0 .b8 (.reg 3)).toInt)) := by
  refine ⟨⟨m0_reaches _ (by decide) _ _ _, ?_⟩, ?_⟩ <;> decide +kernel

/-- 0100h / 1 and 0080h / 1 are one beyond the range; a divisor of 0. -/
theorem witness_DivideResult_error :
    (let s := st rAX 0x0100 (st rBX 1 m0)
     s.Reaches p0 ((EForm.eb (.reg 3)).width p0) (EForm.eb (.reg 3)).rm ∧
      2 ^ Width.bits .b8 ≤ s.double .b8 / (s.operand p0 .b8 (.reg 3)).toNat) ∧
    (let s := st rAX 0x0080 (st rBX 1 m0)
     ¬ FitsSigned .b8 ((BitVec.ofNat (2 * Width.bits .b8) (s.double .b8)).toInt.tdiv (s.operand p0 .b8 (.reg 3)).toInt)) ∧
    m0.operand p0 .b8 (.reg 3) = 0 := by
  refine ⟨⟨m0_reaches _ (by decide) _ _ _, ?_⟩, ?_, ?_⟩ <;> decide +kernel

theorem witness_DecimalAdjust : (1 : Byte) ≠ 0 ∧ (0xFF : Byte) ≠ 0 := by decide

theorem witness_LogicResult : m0.Reaches p0 ((AluForm.gvEv 0 edge).width p0) (AluForm.gvEv 0 edge).rmOf ∧
    m0.Reaches p0 ((TestForm.evGv edge 0).width p0) (TestForm.evGv edge 0).dst :=
  ⟨m0_reaches m0 (by decide) _ _ _, m0_reaches m0 (by decide) _ _ _⟩

/-- CL = 20h is the masked count 0. -/
theorem witness_ShiftByZero : (st rCX 0x20 m0).Reaches p0 ((EForm.ev edge).width p0) (EForm.ev edge).rm ∧
    (st rCX 0x20 m0).shiftCount .cl = 0 ∧ (st rCX 0x20 m0).Reaches p0 (osW p0) edge ∧ (st rCX 0x20 m0).dblCount .cl = 0 := by
  refine ⟨m0_reaches _ (by decide) _ _ _, ?_, m0_reaches _ (by decide) _ _ _, ?_⟩ <;> decide +kernel

theorem witness_RotateResult : m0.Reaches p0 ((EForm.eb edge).width p0) (EForm.eb edge).rm ∧ m0.shiftCount .one ≠ 0 ∧
    m0.shiftCount .one = 1 ∧ m0.shiftCount (.imm 0xFF) ≠ 0 := by
  refine ⟨m0_reaches _ (by decide) _ _ _, ?_⟩; decide +kernel

/-- The counts 1, 15 and 16 at 16 bits. -/
theorem witness_ShiftResult : m0.Reaches p0 ((EForm.ev edge).width p0) (EForm.ev edge).rm ∧ m0.shiftCount .one = 1 ∧
    m0.shiftCount (.imm 15) < (osW p0).bits ∧ ¬ m0.shiftCount (.imm 16) < (osW p0).bits ∧ m0.shiftCount (.imm 16) ≠ 0 := by
  refine ⟨m0_reaches _ (by decide) _ _ _, ?_⟩; decide +kernel

theorem witness_DoubleShiftResult : m0.Reaches p0 (osW p0) edge ∧ m0.dblCount (.imm 1) = 1 ∧
    m0.dblCount (.imm 16) ≤ (osW p0).bits ∧ m0.dblCount (.imm 16) ≠ 0 ∧ ¬ m0.dblCount (.imm 17) ≤ (osW p0).bits := by
  refine ⟨m0_reaches _ (by decide) _ _ _, ?_⟩; decide +kernel

/-- A register bit number of -1: the operand before the effective address. -/
theorem witness_BitTestResult : m0.Reaches p0 (osW p0) edge ∧ (edge.isMem = true → ∃ b, BitIndex.imm 0xFF = .imm b) ∧
    (let s := st rAX 0xFFFF m0
     let w := osW p0
     s.Backed (s.lin (s.seg p0 (.direct 0)) (s.ea (.direct 0) + BitVec.ofInt 16 (w.bytes * ((s.reg w 0).toInt.fdiv w.bits)))) w.bytes) := by
  refine ⟨m0_reaches _ (by decide) _ _ _, fun _ => ⟨_, rfl⟩, ?_⟩; decide +kernel

theorem witness_BitScanAndSet : m0.Reaches p0 (osW p0) edge ∧ (st rBX 0x8000 m0).operand p0 (osW p0) (.reg 3) ≠ 0 ∧
    m0.operand p0 (osW p0) (.reg 3) = 0 ∧ m0.Reaches p0 .b8 edge := by
  refine ⟨m0_reaches _ (by decide) _ _ _, ?_, ?_, m0_reaches _ (by decide) _ _ _⟩ <;> decide +kernel

theorem witness_MoveResult : m0.Reaches p0 ((MovForm.evIz edge 5).width p0) (MovForm.evIz edge 5).rmOf ∧
    m0.Backed (m0.lin (m0.dsOr p0) 0xFFFF) 1 ∧ m0.Backed (m0.lin (m0.dsOr p66) 0xFFFF) (osW p66).bytes := by
  refine ⟨m0_reaches _ (by decide) _ _ _, ?_, ?_⟩ <;> decide +kernel

theorem witness_MoveResult_exchange : (Width.b8 = .b8 ∨ Width.b8 = osW p0) ∧ (Width.b32 = .b8 ∨ Width.b32 = osW p66) ∧
    m0.Backed (m0.memAddr p66 (.direct 0xFFFF)) (Width.bytes .b32) := by decide +kernel

theorem witness_SegmentLoadResult : p0.os32 = false ∧ m0.Backed (m0.memAddr p66 (.direct 0xFFFF)) 2 ∧ m0.Reaches p0 .b16 edge := by
  refine ⟨rfl, ?_, m0_reaches _ (by decide) _ _ _⟩; decide +kernel

/-- SP = 1: the slot of a word wraps below 0 within the segment. -/
theorem witness_PushResult : (st rSP 1 m0).Reaches p0 (osW p0) (StackForm.rm edge).rmOf ∧
    (let s := st rSP 1 m0
     s.Backed (s.slot (osW p0).bytes) (osW p0).bytes ∧ p0.os32 = false ∧ s.Backed (s.slot 2) 2 ∧ p66.os32 = true ∧
      s.Backed (s.slot 4) 4) := by
  refine ⟨m0_reaches _ (by decide) _ _ _, ?_⟩; decide +kernel

theorem witness_PopResult : let s := st rSP 0xFFFF m0
    s.Backed (s.lin s.ss (s.r16 rSP)) (osW p0).bytes ∧
      (let u := s.setR16 rSP (s.r16 rSP + BitVec.ofNat 16 (osW p0).bytes)
       u.Backed (u.memAddr p0 (.direct 0xFFFF)) (osW p0).bytes) := by decide +kernel

theorem witness_PushAllPopAll : m0.par.NoHole := by decide

theorem witness_SegmentLoadResult_far : m0.Backed (m0.memAddr p66 (.direct 0xFFFF)) ((osW p66).bytes + 2) := by decide +kernel

theorem witness_ExtendAndAddress : let s := st rBX 0xFFFF m0
    s.Backed (s.lin (s.dsOr p0) (s.r16 rBX + BitVec.ofNat 16 (s.r8 rAL).toNat)) 1 ∧ s.Reaches p0 (srcW true) edge := by
  refine ⟨?_, m0_reaches _ (by decide) _ _ _⟩; decide +kernel

theorem witness_StringStepResult : let s := st rSI 0xFFFF (st rDI 0xFFFF m0)
    p66.rep = none ∧ (Width.b32 = .b8 ∨ Width.b32 = osW p66) ∧ s.Backed (s.lin (s.dsOr p66) (s.r16 rSI)) (Width.bytes .b32) ∧
      s.Backed (s.lin s.es (s.r16 rDI)) (Width.bytes .b32) := by decide +kernel

theorem witness_StringStepResult_port : let s := st rSI 0xFFFF (st rDI 0xFFFF m0)
    p0.rep = none ∧ (Width.b16 = .b8 ∨ Width.b16 = osW p0) ∧ s.Backed (s.lin (s.dsOr p0) (s.r16 rSI)) (Width.bytes .b16) ∧
      s.Backed (s.lin s.es (s.r16 rDI)) (Width.bytes .b16) := by decide +kernel

/-- CX = 0, and CX = 1 with an iteration that ends running. -/
theorem witness_RepeatResult : (Instr.movsb, false) ∈ stringInstrs ∧ m0.par.NoHole ∧ m0.r16 rCX = 0 ∧
    (st rCX 1 m0).r16 rCX ≠ 0 ∧ ∃ t, exec (.movsb { pRep with rep := none }) (st rCX 1 m0) = .next t ∧ t.run = .running := by
  refine ⟨.head _, by decide, by decide +kernel, by decide +kernel, _, rfl, rfl⟩

/-- A source byte that is not backed. -/
theorem witness_RepeatResult_fault : let s := par (st rCX 1 m0) fun p => { p with memSize := 0x10000 }
    s.r16 rCX ≠ 0 ∧ s.run = .running ∧
      ∃ t, exec (.movsb { pRep with rep := none }) s = .next t ∧ t.run ≠ .running := by
  refine ⟨by decide +kernel, rfl, _, rfl, by decide +kernel⟩

theorem witness_JumpResult : (m0.target p0 (.jb 0x80)).toNat ≤ 0xFFFF ∧ m0.Reaches p0 (osW p0) edge ∧
    (m0.operand p0 (osW p0) edge).toNat ≤ 0xFFFF ∧ izOk p0 0xFFFF = true ∧ (0xFFFF : DWord).toNat ≤ 0xFFFF ∧
    m0.Backed (m0.memAddr p66 (.direct 0xFFFF)) ((osW p66).bytes + 2) ∧
    m0.bytesAt (m0.memAddr p66 (.direct 0xFFFF)) (osW p66).bytes ≤ 0xFFFF := by
  refine ⟨?_, m0_reaches _ (by decide) _ _ _, ?_⟩ <;> decide +kernel

/-- Targets of 10000h; a counter of 0 for JCXZ, and one that each LOOP counts down to FFFFh. -/
theorem witness_TargetBeyondHalts : let s : State := { m0 with ctx := { m0.ctx with nextIp := 0xFFFF } }
    p66.os32 = true ∧ 0xFFFF < (s.target p66 (.jb 1)).toNat ∧ 0xFFFF < (s.target p66 (.jz 1)).toNat ∧ s.flags.cond 1 = true ∧
      (0xFFFF : Nat) < (0x10000 : DWord).toNat ∧ s.r16 rCX = 0 ∧ s.r16 rCX ≠ 1 ∧ s.flags.zf = false ∧
      (s.setFlags { s.flags with zf := true }).flags.zf = true := by decide +kernel

theorem witness_TargetBeyondHalts_indirect : (m0.setR32 rAX 0x10000).Reaches p66 (osW p66) (.reg 0) ∧
    0xFFFF < ((m0.setR32 rAX 0x10000).operand p66 (osW p66) (.reg 0)).toNat := by
  refine ⟨m0_reaches _ (by decide) _ _ _, ?_⟩; decide +kernel

theorem witness_TargetBeyondHalts_farIndirect : let s := put m0 0x10200 [0, 0, 1, 0]
    s.Backed (s.memAddr p66 (.direct 0x200)) ((osW p66).bytes + 2) ∧
      0xFFFF < s.bytesAt (s.memAddr p66 (.direct 0x200)) (osW p66).bytes := by decide +kernel

/-- A target of FFFFh taken; one of 10000h not taken, by each of the instructions. -/
theorem witness_ConditionalJumps : let s : State := { m0 with ctx := { m0.ctx with nextIp := 0xFF80 } }
    (s.target p66 (.jb 0x7F)).toNat = 0xFFFF ∧ (s.target p66 (.jz 0x7F)).toNat = 0xFFFF ∧
      (s.target p66 (.jb 0x80)).toNat ≤ 0xFFFF ∧ s.flags.cond 5 = true ∧
    (let u : State := st rCX 1 { s with ctx := { s.ctx with nextIp := 0xFF81 } }
     (u.target p66 (.jb 0x7F)).toNat = 0x10000 ∧ (u.target p66 (.jz 0x7F)).toNat = 0x10000 ∧ u.flags.cond 4 = false ∧
      decide (u.r16 rCX = 0) = false ∧ decide (u.r16 rCX ≠ 1) = false) := by decide +kernel

theorem witness_CallResult : m0.par.NoHole ∧ (m0.target p66 (.jz 0xFEFF)).toNat = 0xFFFF ∧
    (m0.operand p66 (osW p66) (.reg 0)).toNat ≤ 0xFFFF ∧ izOk p66 0xFFFF = true ∧
    m0.bytesAt (m0.memAddr p66 (.direct 0xFFFF)) (osW p66).bytes ≤ 0xFFFF := by decide +kernel

/-- A popped target of FFFFh, and of 10000h. -/
theorem witness_ReturnResult : m0.par.NoHole ∧
    (let s := put (st rSP 0x200 m0) 0x10200 [0xFF, 0xFF, 0, 0]
     s.bytesAt (s.lin s.ss (s.r16 rSP)) (osW p66).bytes = 0xFFFF) ∧
    (let s := put (st rSP 0x200 m0) 0x10200 [0, 0, 1, 0]
     0xFFFF < s.bytesAt (s.lin s.ss (s.r16 rSP)) (osW p66).bytes) := by decide +kernel

/-- An index at its upper bound, below its lower bound and above its upper bound; OF set and clear. -/
theorem witness_SoftwareInterrupts :
    let s := put m0 0x10200 [0xFF, 0xFF, 0x09, 0x00]
    let a := s.memAddr p0 (.direct 0x200)
    let lo := (BitVec.ofNat (osW p0).bits (s.bytesAt a (osW p0).bytes)).toInt
    let hi := (BitVec.ofNat (osW p0).bits (s.bytesAt (a + (osW p0).bytes) (osW p0).bytes)).toInt
    s.Backed a (2 * (osW p0).bytes) ∧ lo = -1 ∧ hi = 9 ∧ ((st rAX 9 s).reg (osW p0) 0).toInt = hi ∧
      ((st rAX 0xFFFE s).reg (osW p0) 0).toInt < lo ∧ hi < ((st rAX 10 s).reg (osW p0) 0).toInt ∧ m0.flags.ofl = false ∧
      (m0.setFlags { m0.flags with ofl := true }).flags.ofl = true := by decide +kernel

theorem witness_ReturnResult_iret : m0.par.NoHole ∧
    (let s := put (st rSP 0x200 m0) 0x10200 [0xFF, 0xFF, 0, 0]
     s.bytesAt (s.lin s.ss (s.r16 rSP + BitVec.ofNat 16 (0 * (osW p66).bytes))) (osW p66).bytes = 0xFFFF) ∧
    (let s := put (st rSP 0x200 m0) 0x10200 [0, 0, 1, 0]
     0xFFFF < s.bytesAt (s.lin s.ss (s.r16 rSP + BitVec.ofNat 16 (0 * (osW p66).bytes))) (osW p66).bytes) := by decide +kernel

/-- A nesting level of 2, and of 31, with the old frame clear of the new one. -/
theorem witness_FrameResult : m0.par.NoHole ∧ p0.os32 = false ∧ p66.os32 = true ∧ (2 : Byte).toNat % 32 ≠ 0 ∧
    (0xFF : Byte).toNat % 32 = 31 ∧
    (let s := st rBP 0x100 m0
     let frame := s.r16 rSP - 2
     let old := s.lin s.ss (s.r16 rBP - BitVec.ofNat 16 (2 * 1))
     ∀ j i h, j < 1 → i < 2 → h < 2 →
      (old + i) % s.par.ring ≠ (s.lin s.ss (frame - BitVec.ofNat 16 (2 * j)) + h) % s.par.ring) := by
  refine ⟨by decide, rfl, rfl, by decide, by decide, ?_⟩
  intro s frame old j i h hj hi hh
  have key : ∀ j : Fin 1, ∀ i h : Fin 2, ((st rBP 0x100 m0).lin (st rBP 0x100 m0).ss ((st rBP 0x100 m0).r16 rBP - BitVec.ofNat 16 (2 * 1)) + i.val) %
      (st rBP 0x100 m0).par.ring ≠ ((st rBP 0x100 m0).lin (st rBP 0x100 m0).ss
        ((st rBP 0x100 m0).r16 rSP - 2 - BitVec.ofNat 16 (2 * j.val)) + h.val) % (st rBP 0x100 m0).par.ring := by decide +kernel
  exact key ⟨j, hj⟩ ⟨i, hi⟩ ⟨h, hh⟩

/-- An exact magnitude of 5/2, and one known to lie between two neighbours of 67 bits. -/
theorem witness_RoundingCorrect : Approx.Is { m := 5, e := -1, sticky := false } (5 / 2) ∧
    Approx.Is { m := 2 ^ 66, e := -70, sticky := true } ((2 ^ 66 + 1 / 2) / 2 ^ 70) ∧ (-70 : Int) < -60 := by
  refine ⟨?_, ?_, by decide⟩ <;> norm_num [Approx.Is]

theorem witness_ArithmeticExact : v3.Finite ∧ (0x00000000000000000001 : F80).Finite ∧ v3.rat ≠ 0 ∧ 0 < v3.rat := by
  decide +kernel

/-- The exact reals 2^16384 (an overflow), -2^-16383 (tiny) and one between two neighbours; operands that are numbers, a denormal
among them. -/
theorem witness_FpuDelivery : (24 = 24 ∨ 24 = 53 ∨ 24 = 64) ∧ v3.Numeric ∧ (0x00000000000000000001 : F80).Numeric ∧
    (0x00000000000000000001 : F80).cls = .denormal ∧ (F80.inf true).Numeric ∧
    Approx.Is { m := 1, e := 16384, sticky := false } |(2 : ℚ) ^ (16384 : Int)| ∧
    Approx.Is { m := 1, e := -16383, sticky := false } |-(2 : ℚ) ^ (-16383 : Int)| ∧
    Approx.Is { m := 2 ^ 66, e := -70, sticky := true } |(2 ^ 66 + 1 / 2) / 2 ^ 70| := by
  refine ⟨by decide, by decide +kernel, by decide +kernel, by decide +kernel, by decide +kernel, ?_, ?_, ?_⟩
  · simp [Approx.Is]
  · simp [Approx.Is]
  · rw [abs_of_pos (by positivity)]; norm_num [Approx.Is]

/-- A signalling NaN, a quiet one, and an unsupported operand. -/
theorem witness_FpuNanOperands : ¬ (F80.Numeric 0x7FFFA000000000000000 ∧ F80.Numeric v1) ∧
    ¬ F80.Numeric 0x7FFFC000000000000001 ∧ ¬ F80.Numeric 0x7FFF0000000000000000 ∧ (79 : Nat) < 80 := by decide +kernel

/-- Two NaNs: the larger significand wins; alike but for sign and quietness, or with only the quiet bit deciding, either may. -/
theorem witness_FpuNanOperands_tie : F80.Below 0x7FFFA000000000000001 0x7FFFE000000000000002 ∧
    ¬ F80.Below 0x7FFFA000000000000000 0xFFFFE000000000000000 ∧ ¬ F80.Below 0xFFFFE000000000000000 0x7FFFA000000000000000 ∧
    ¬ F80.Below 0x7FFFA000000000000000 0x7FFFC000000000000001 ∧ ¬ F80.Below 0x7FFFC000000000000001 0x7FFFA000000000000000 := by
  decide +kernel

/-- Zeros, infinities and finite values; 1, -1, a value below 1 and one above it; the ends of the range of FYL2XP1. -/
theorem witness_FpuSpecialOperands : (F80.zero true).cls = .zero ∧ (F80.inf false).cls = .infinity ∧ F80.FiniteNonzero v3 ∧
    v3.rat + (F80.flip v3).rat = 0 ∧ F80.rat v1 = 1 ∧ (F80.flip v1).rat = -1 ∧ 1 < |v3.rat| ∧
    |F80.rat 0x3FFEFFFFFFFFFFFFFFFF| < 1 ∧ 0 < F80.rat 0x3FFEFFFFFFFFFFFFFFFF ∧
    1 < 2 * (1 - |F80.rat 0x3FFD95F619980C4336F7|) ^ 2 ∧ ¬ 1 < 2 * (1 - |F80.rat 0x3FFD95F619980C4336F8|) ^ 2 := by
  decide +kernel

/-- The reset state with eight registers pushed. -/
abbrev full : State := withSt [v1, v1, v1, v1, v1, v1, v1, v1]

/-- Operands that are there and empty ones; a full stack; IE and DE unmasked; valid digits. -/
theorem witness_FpuLoadResult : m0.fpu.isEmpty 7 = true ∧ (withSt [v1]).fpu.isEmpty 7 = true ∧
    (withSt [v1]).fpu.isEmpty 0 = false ∧ m0.fpu.isEmpty 0 = true ∧ full.fpu.isEmpty 7 = false ∧
    m0.Backed (m0.memAddr p0 (.direct 0xFFFF)) 10 ∧ (cw 0x037E full).fpu.ctl.im = false ∧ (cw 0x037D m0).fpu.ctl.dm = false ∧
    bcdValid 18 (m0.bytesAt (m0.memAddr p0 (.direct 0x200)) 10) = true ∧ m0.fpu.rc ≠ .up ∧ (cw 0x0B7F m0).fpu.rc = .up := by
  decide +kernel

/-- The fields of a single and of a double at their ends: zero, the least and the largest denormal, the least and the largest normal,
infinity, the signalling NaNs, the least quiet one. -/
theorem witness_FpuLoadResult_fields :
    ([0, 1, 0x7FFFFF, 0x800000, 0xFF7FFFFF, 0xFF800000, 0x7F800001, 0x7FBFFFFF, 0x7FC00000].map fun v =>
      ((fmtSingle.load v).v.cls, (fmtSingle.load v).den)) =
      [(.zero, false), (.normal, true), (.normal, true), (.normal, false), (.normal, false), (.infinity, false),
       (.snan, false), (.snan, false), (.qnan, false)] ∧
    ([0, 1, 0xFFFFFFFFFFFFF, 0x10000000000000, 0xFFEFFFFFFFFFFFFF, 0xFFF0000000000000, 0x7FF0000000000001,
      0x7FF7FFFFFFFFFFFF, 0x7FF8000000000000].map fun v => ((fmtDouble.load v).v.cls, (fmtDouble.load v).den)) =
      [(.zero, false), (.normal, true), (.normal, true), (.normal, false), (.normal, false), (.infinity, false),
       (.snan, false), (.snan, false), (.qnan, false)] := by
  decide +kernel

theorem witness_FpuStackOverflow : full.fpu.Masked ∧ full.fpu.isEmpty 7 = false ∧
    full.Backed (full.memAddr p0 (.direct 0xFFFF)) 10 := by decide +kernel

/-- A value of each class; the largest m16int and the first beyond it; the first magnitude beyond BCD; the least single that
overflows, and one that is tiny. -/
theorem witness_FpuStoreResult : m0.Backed (m0.memAddr p0 (.direct 0xFFFF)) 10 ∧
    m0.fpu.isEmpty 0 = true ∧ (withSt [v1]).fpu.isEmpty 0 = false ∧
    [F80.cls 0, F80.cls 1, F80.cls v1, F80.cls (F80.inf false), F80.cls F80.indefinite, F80.cls 0x7FFFA000000000000000,
      F80.cls 0x3FFF0000000000000000] = [.zero, .denormal, .normal, .infinity, .qnan, .snan, .unsupported] ∧
    roundToInt .zero (F80.rat 0x400DFFFF000000000000) = 32767 ∧ roundToInt .nearest (F80.rat 0x400DFFFF000000000000) = 32768 ∧
    roundToInt .nearest (F80.rat 0x403ADE0B6B3A76400000) = 10 ^ 18 ∧
    (convertStore m0.fpu.ctl fmtSingle 0x407EFFFFFF8000000000).exc = xOE ||| xPE ∧
    (convertStore m0.fpu.ctl fmtSingle 0x3F69C000000000000000).exc = xUE ||| xPE := by decide +kernel

/-- Unmasked: stores that overflow, underflow, are inexact and are invalid. -/
theorem witness_FpuStoreResult_unmasked :
    (cw 0x0377 m0).fpu.Unmasked (convertStore (cw 0x0377 m0).fpu.ctl fmtSingle 0x407EFFFFFF8000000000).exc ∧
    (cw 0x036F m0).fpu.Unmasked (convertStore (cw 0x036F m0).fpu.ctl fmtSingle 0x3F69C000000000000000).exc ∧
    (cw 0x035F m0).fpu.Unmasked (convertStore (cw 0x035F m0).fpu.ctl fmtSingle 0x3FFDAAAAAAAAAAAAAAAB).exc ∧
    (cw 0x037E m0).fpu.Unmasked (convertInt (cw 0x037E m0).fpu.ctl 2 0x400E8000000000000000).exc := by decide +kernel

theorem witness_FpuArithResult : (withSt [v1]).fpu.Masked ∧
    (withSt [v1]).Backed ((withSt [v1]).memAddr p0 (.direct 0xFFFF)) 8 := by decide +kernel

/-- Operands that are there and that are not; a value of each class that FXTRACT tells apart. -/
theorem witness_FpuOneOperandResult : let f := (withSt [v3, v2]).fpu
    f.Masked ∧ f.isEmpty 1 = false ∧ f.isEmpty 0 = false ∧ f.isEmpty 7 = true ∧ (f.st 0).cls = .normal ∧
      m0.fpu.isEmpty 0 = true ∧ (F80.zero true).cls = .zero ∧ (F80.inf true).cls = .infinity ∧
      F80.cls 0x7FFFC000000000000001 = .qnan ∧ F80.cls 0x7FFFA000000000000000 = .snan ∧
      F80.cls 0x3FFF0000000000000000 = .unsupported ∧ F80.cls 1 = .denormal ∧
      roundToInt .nearest (F80.rat 1) = 0 ∧ roundToInt .up (F80.rat 1) = 1 := by decide +kernel

/-- Leading bits 63 and 64 places apart; an infinite dividend, a zero divisor, a zero dividend, an infinite divisor, a NaN, an
empty register. -/
theorem witness_FpuRemainder : (withSt [0x403E8000000000000000, v1]).fpu.Masked ∧ m0.fpu.isEmpty 0 = true ∧
    Int.log 2 |F80.rat 0x403E8000000000000000| - Int.log 2 |F80.rat v1| = 63 ∧
    Int.log 2 |F80.rat 0x403F8000000000000000| - Int.log 2 |F80.rat v1| = 64 ∧
    (F80.inf true).Numeric ∧ (F80.zero true).Numeric ∧ ¬ F80.Numeric 0x7FFFC000000000000001 := by
  have h1 : |F80.rat v1| = (2 : ℚ) ^ (0 : Int) := by decide +kernel
  have h2 : |F80.rat 0x403E8000000000000000| = (2 : ℚ) ^ (63 : Int) := by decide +kernel
  have h3 : |F80.rat 0x403F8000000000000000| = (2 : ℚ) ^ (64 : Int) := by decide +kernel
  have log (n : Int) : Int.log 2 ((2 : ℚ) ^ n) = n := by simpa using Int.log_zpow (R := ℚ) (b := 2) (by norm_num) n
  refine ⟨by decide +kernel, by decide +kernel, ?_, ?_, by decide +kernel, by decide +kernel, by decide +kernel⟩ <;>
    simp only [h1, h2, h3, log] <;> rfl

/-- A stack fault, a quiet NaN and a denormal, each unmasked. -/
theorem witness_FpuCompareResult : m0.Backed (m0.memAddr p0 (.direct 0xFFFF)) 8 ∧ (cw 0x037E m0).fpu.Unmasked 0x41 ∧
    m0.fpu.isEmpty 0 = true ∧ (cw 0x037E m0).fpu.Unmasked xIE ∧ F80.cls F80.indefinite = .qnan ∧
    (cw 0x037D m0).fpu.Unmasked xDE ∧ (Opnd.reg 1).isDenormal = true ∧ ¬ m0.fpu.Unmasked 0x41 := by decide +kernel

/-- A magnitude of exactly 2^63, and one below it; an infinity and a NaN; an empty register and a full stack. -/
theorem witness_FpuTranscendentalResult : let f := (withSt [0x403E8000000000000000, v1]).fpu
    f.Masked ∧ f.isEmpty 0 = false ∧ f.isEmpty 7 = true ∧ f.isEmpty 1 = false ∧ (f.st 0).Finite ∧ 2 ^ 63 ≤ |(f.st 0).rat| ∧
      ¬ (v1.Finite ∧ 2 ^ 63 ≤ |v1.rat|) ∧ v1.Finite ∧ v1.Numeric ∧ ¬ F80.Finite (F80.inf true) ∧ (F80.inf true).Numeric ∧
      ¬ F80.Finite F80.indefinite ∧ m0.fpu.isEmpty 0 = true ∧ full.fpu.isEmpty 7 = false := by decide +kernel

theorem witness_FpuControlResult : m0.Backed (m0.memAddr p66 (.direct 0xFFFF)) (28 + 80) := by decide +kernel

/-- No flag set, and one that is pending. -/
theorem witness_FpuStackControl : m0.fpu.es = false ∧
    (cw 0x037B { m0 with fpu := { m0.fpu with status := FpuStatus.ofImage 4 } }).fpu.es = true := by decide +kernel

/-- Unmasked: a division by zero, an overflow and an underflow of registers that are not empty; an empty register; a magnitude of
2^63. -/
theorem witness_FpuUnmaskedArithmetic : (let s := cw 0x037B (withSt [0, v1])
     s.fpu.Unmasked (arith2 s.fpu.ctl s.drawn (s.fpu.prec s.par) (divCalc s.fpu.rc) (.reg (s.fpu.st 1)) (.reg (s.fpu.st 0))).exc) ∧
    (let s := cw 0x0377 (withSt [0x7FFEFFFFFFFFFFFFFFFF, v2])
     s.fpu.Unmasked (arith2 s.fpu.ctl s.drawn (s.fpu.prec s.par) (mulCalc s.fpu.rc) (.reg (s.fpu.st 0)) (.reg (s.fpu.st 1))).exc) ∧
    (let s := cw 0x036F (withSt [0x00018000000000000000, v2])
     s.fpu.Unmasked (arith2 s.fpu.ctl s.drawn (s.fpu.prec s.par) (divCalc s.fpu.rc) (.reg (s.fpu.st 0)) (.reg (s.fpu.st 1))).exc) ∧
    (cw 0x037E m0).fpu.im = false ∧ (cw 0x037E m0).fpu.isEmpty 0 = true ∧ (cw 0x037D m0).fpu.im = true ∧
    (cw 0x037E m0).fpu.Unmasked 0x41 ∧ v1.Numeric ∧ ¬ (v1.Finite ∧ 2 ^ 63 ≤ |v1.rat|) ∧
    m0.Backed (m0.memAddr p0 (.direct 0xFFFF)) 8 ∧
    (let f := (withSt [0x403E8000000000000000]).fpu
     f.isEmpty 0 = false ∧ (f.st 0).Finite ∧ 2 ^ 63 ≤ |(f.st 0).rat|) := by decide +kernel

/-- Operands of each clause, unmasked: a denormal and an inexact integer; a zero to split; an empty register and a full stack; a tiny
remainder, and one of leading bits 64 places apart; an infinity, a NaN and a magnitude of 2^63. -/
theorem witness_FpuUnmaskedRoundRemainderPair : (cw 0x037D m0).fpu.ctl.dm = false ∧ F80.cls 1 = .denormal ∧
    (cw 0x035F m0).fpu.Unmasked (peIf (decide (((roundToInt .nearest (F80.rat 0x3FFEC000000000000000) : Int) : ℚ) ≠
      F80.rat 0x3FFEC000000000000000))) ∧
    (cw 0x037B m0).fpu.Unmasked xZE ∧ F80.cls 0 = .zero ∧ (cw 0x037E m0).fpu.ctl.im = false ∧ m0.fpu.isEmpty 0 = true ∧
    full.fpu.isEmpty 7 = false ∧ (withSt [v3, v2]).fpu.isEmpty 1 = false ∧ (withSt [v3, v2]).fpu.isEmpty 7 = true ∧
    (cw 0x036F m0).fpu.ctl.um = false ∧
    (let rest := F80.rat 0x00018000000000000001 - F80.rat 0x00018000000000000000 * (1 : Int)
     rest ≠ 0 ∧ |rest| < 1 / 2 ^ 16382) ∧
    |F80.rat 0x403F8000000000000000| = 2 ^ (64 : Int) * |F80.rat v1| ∧
    F80.cls (F80.inf true) = .infinity ∧ ¬ F80.Numeric 0x7FFFA000000000000000 ∧ F80.Finite 0x403E8000000000000000 ∧
    2 ^ 63 ≤ |F80.rat 0x403E8000000000000000| := by decide +kernel

/-- The last byte of memory: a write of two bytes there wraps around the ring, or halts after the first. -/
theorem witness_MemoryReadBack : m0.Backed 0xFFFFF 2 ∧
    (let s := par m0 fun p => { p with ringExtra := 1 }
     (1 : Nat) < 2 ∧ s.Backed 0xFFFFF 1 ∧ s.par.memSize ≤ (0xFFFFF + 1) % s.par.ring) := by decide +kernel

theorem witness_RegisterViews : (3 : BitVec 3).toNat < 4 := by decide

theorem witness_DecodeEncode : WellFormed (.add pLock (.evIz (.mem (.indexed16 7 0xFFFF)) 0xFFFF)) := by decide

/-- A NOP with 15 bytes of backed memory, and one at the last byte that memory backs. -/
theorem witness_StepRunsDecoded :
    (let s := m0.place 0 [0x90]
     s.run = .running ∧ s.injected = none ∧ s.Fetches 15 ∧ decode (s.codeBytes 15) = .ok (.nop p0, List.replicate 14 0)) ∧
    (let s := par (m0.place 0 [0x90]) fun p => { p with memSize := 0x10101 }
     s.injected = none ∧ s.Fetches 1 ∧ decode (s.codeBytes 1) = .ok (.nop p0, [])) := by
  refine ⟨⟨rfl, rfl, by decide +kernel, by decide +kernel⟩, rfl, by decide +kernel, by decide +kernel⟩

/-- An invalid opcode, an instruction longer than 15 bytes, and a feature the core lacks. -/
theorem witness_StepWithoutInstruction :
    decode [0x0F, 0xFF, 0, 0, 0, 0, 0, 0, 0, 0, 0, 0, 0, 0, 0] = .error (.invalid (List.replicate 13 0)) ∧
    decode (List.replicate 15 0x26) = .error .needMore ∧
    decode [0x67, 0x8B, 0, 0, 0, 0, 0, 0, 0, 0, 0, 0, 0, 0, 0] = .error (.unsupported .addressSize) := by
  refine ⟨by rfl, by rfl, by rfl⟩

/-- A MOV whose immediate lies beyond the memory. -/
theorem witness_StepWithoutInstruction_hole : let s := par (m0.place 0 [0xB8]) fun p => { p with memSize := 0x10101 }
    s.run = .running ∧ s.injected = none ∧ s.Fetches 1 ∧ decode (s.codeBytes 1) = .error .needMore := by
  refine ⟨rfl, rfl, by decide +kernel, by decide +kernel⟩

theorem witness_BoundaryInterrupts : let t := m0.setFlags { m0.flags with tf := true }
    t.flags.tf = true ∧ t.ctx.dispatched = false ∧ t.run = .running ∧ t.shadow = false ∧ m0.par.extInt = .never ∧
      (let s := par { m0 with run := .halted } fun p => { p with extInt := .host }
       (s.setFlags { s.flags with ifl := false }).injected = none ∧ s.run = .halted ∧ s.par.extInt = .host) := by
  refine ⟨rfl, rfl, rfl, rfl, rfl, rfl, rfl, rfl⟩

/-- A vector the host serves, one without a handler, and one with a handler. -/
theorem witness_DispatchResult :
    (let s := par (put m0 0x84 [0x21, 0x00, 0x00, 0xF0]) fun p => { p with intercept := [0x21], ivt0 := [(0x21, 0xF0000021)] }
     s.Backed (4 * (0x21 : Byte).toNat) 4 ∧ 0x21 ∈ s.par.intercept ∧
      BitVec.ofNat 16 (s.bytesAt (4 * (0x21 : Byte).toNat + 2) 2) ++ BitVec.ofNat 16 (s.bytesAt (4 * (0x21 : Byte).toNat) 2) =
        s.par.ivtEntry 0x21) ∧
    m0.Backed (4 * (0x60 : Byte).toNat) 4 ∧ ¬ (0x60 ∈ m0.par.intercept) ∧
    BitVec.ofNat 16 (m0.bytesAt (4 * (0x60 : Byte).toNat) 2) = 0 ∧
    BitVec.ofNat 16 (m0.bytesAt (4 * (0x60 : Byte).toNat + 2) 2) = 0 ∧
    (handler 0xFF m0).Backed (4 * (0xFF : Byte).toNat) 4 ∧ (handler 0xFF m0).par.NoHole ∧
    ¬ (0xFF ∈ (handler 0xFF m0).par.intercept) ∧
    BitVec.ofNat 16 ((handler 0xFF m0).bytesAt (4 * (0xFF : Byte).toNat + 2) 2) ≠ 0 := by decide +kernel

/-- The first and the last byte of an entry not backed; with SP = 2, the second push is the first that is not. -/
theorem witness_DispatchFault :
    (let s := par m0 fun p => { p with memSize := 0x180 }
     s.Backed (4 * (0x60 : Byte).toNat) 0 ∧ s.par.memSize ≤ 4 * (0x60 : Byte).toNat + 0) ∧
    (let s := par m0 fun p => { p with memSize := 0x183 }
     s.Backed (4 * (0x60 : Byte).toNat) 3 ∧ s.par.memSize ≤ 4 * (0x60 : Byte).toNat + 3) ∧
    (let s := par (st rSP 2 (handler 0xFF m0)) fun p => { p with memSize := (m0.lin m0.ss 0xFFFE) }
     let addr (n : Nat) : Nat := (s.slot (2 * (n / 2 + 1)) + n % 2) % s.par.ring
     s.Backed (4 * (0xFF : Byte).toNat) 4 ∧ ¬ (0xFF ∈ s.par.intercept) ∧
      BitVec.ofNat 16 (s.bytesAt (4 * (0xFF : Byte).toNat + 2) 2) ≠ 0 ∧ (∀ j, j < 2 → addr j < s.par.memSize) ∧
      s.par.memSize ≤ addr 2) := by decide +kernel

theorem witness_EntryThenReturn : (handler 0xFF m0).par.NoHole ∧ p0.os32 = false ∧ ¬ (0xFF ∈ (handler 0xFF m0).par.intercept) ∧
    (handler 0xFF m0).bytesAt (4 * (0xFF : Byte).toNat) 4 ≠ 0 := by decide +kernel

theorem witness_InvariantStep : m0.Inv ∧ ∃ t, step m0 = .next t := ⟨by decide, _, rfl⟩

end Sys2Proof.Tests
end

section
/-! Every step keeps the invariant of a run and the parameters (O60): first what each operation of the machine keeps, then one
case for each instruction, then the step. An operation of the integer core keeps the FPU as it is. An FPU instruction leaves
ES and B unsummed from its first change of the FPU up to its end, so an operation that can end it there must halt. -/

namespace Sys2Proof.Machine

-- One declaration at a time: elaborated in parallel, these want more threads than the memory limit of the check allows.
set_option Elab.async false

/-! ### The part of the state that the invariant speaks of -/

/-- The parameters, memory and the FPU: what the invariant reads, but for the run state. -/
def State.core (s : State) : Params × List Host.Cell × Fpu := (s.par, s.mem, s.fpu)

section Core

variable (s : State)

@[simp] theorem State.core_setR32 (i : BitVec 3) (v : DWord) : (s.setR32 i v).core = s.core := rfl
@[simp] theorem State.core_setR16 (i : BitVec 3) (v : Word) : (s.setR16 i v).core = s.core := rfl
@[simp] theorem State.core_setR8 (i : BitVec 3) (v : Byte) : (s.setR8 i v).core = s.core := by simp [State.core]
@[simp] theorem State.core_setReg (w : Width) (i : BitVec 3) (v : BitVec w.bits) : (s.setReg w i v).core = s.core := by
  simp [State.core]
@[simp] theorem State.core_setSreg (r : SegReg) (v : Word) : (s.setSreg r v).core = s.core := by simp [State.core]
@[simp] theorem State.core_setFlags (f : Flags) : (s.setFlags f).core = s.core := rfl
@[simp] theorem State.core_useDraw : s.useDraw.core = s.core := rfl
@[simp] theorem State.core_ioRead (a : Word) (n : Nat) : (s.ioRead a n).2.core = s.core := rfl
@[simp] theorem State.core_ioWrite (a : Word) (n v : Nat) : (s.ioWrite a n v).core = s.core := rfl
@[simp] theorem State.core_log (e : HostEvent) : (s.log e).core = s.core := rfl
@[simp] theorem State.core_halt (r : HaltReason) : (s.halt r).core = s.core := rfl
@[simp] theorem State.core_commit : s.commit.core = s.core := rfl
@[simp] theorem State.core_commitSeg (r : SegReg) : (s.commitSeg r).core = s.core := rfl
@[simp] theorem State.core_commitFlags (f : Flags) : (s.commitFlags f).core = s.core := rfl
@[simp] theorem State.core_jump (cs ip : Word) : (s.jump cs ip).core = s.core := rfl
@[simp] theorem State.core_returnTo (cs ip flags : Word) : (s.returnTo cs ip flags).core = s.core := rfl
@[simp] theorem State.core_resumeAt (ip : Word) : (s.resumeAt ip).core = s.core := rfl
@[simp] theorem State.core_begin (n : Nat) : (s.begin n).core = s.core := rfl
@[simp] theorem State.core_beginDispatch : s.beginDispatch.core = s.core := rfl
@[simp] theorem State.core_boundary : s.boundary.core = s.core := by unfold State.boundary; split <;> rfl
@[simp] theorem State.core_countCx : s.countCx.core = s.core := rfl
@[simp] theorem State.core_release (n : Option Word) : (s.release n).core = s.core := by cases n <;> rfl
@[simp] theorem State.core_stepSi (w : Width) : (s.stepSi w).core = s.core := rfl
@[simp] theorem State.core_stepDi (w : Width) : (s.stepDi w).core = s.core := rfl
@[simp] theorem State.core_setDouble (w : Width) (v : Nat) : (s.setDouble w v).core = s.core := by cases w <;> rfl
@[simp] theorem State.core_setQuotRem (w : Width) (a b : BitVec w.bits) : (s.setQuotRem w a b).core = s.core := by
  cases w <;> simp [State.setQuotRem]
@[simp] theorem State.core_imulInto (w : Width) (r : BitVec 3) (a b : BitVec w.bits) :
    (s.imulInto w r a b).core = s.core := by simp [State.imulInto]
@[simp] theorem State.core_adjusted (v : Byte) : (s.adjusted v).core = s.core := by simp [State.adjusted]
@[simp] theorem State.core_asciiAdjusted (t : State) : (s.asciiAdjusted t).core = t.core := by simp [State.asciiAdjusted]
@[simp] theorem State.core_baseAdjusted (a b : Byte) : (s.baseAdjusted a b).core = s.core := by simp [State.baseAdjusted]
@[simp] theorem State.core_testFlags {n : Nat} (r : BitVec n) : (s.testFlags r).core = s.core := rfl
@[simp] theorem State.core_scanned (w : Width) (r : BitVec 3) (i : Option Nat) : (s.scanned w r i).core = s.core := by
  simp [State.scanned]

/-- Of a choice between two updates. -/
@[simp] theorem State.core_ite (c : Prop) [Decidable c] (a b : State) :
    (if c then a else b).core = if c then a.core else b.core :=
  apply_ite _ _ _ _

end Core

/-! ### What is kept -/

/-- The parameters are `q`, memory is in its canonical form and below P_MEMSIZE, and the FPU is `f`, whose CW has its fixed
bits: the invariant but for ES and B. -/
structure State.Sound (q : Params) (f : Fpu) (s : State) : Prop where
  par : s.par = q
  wf : Memory.wf s.mem
  below : ∀ c ∈ s.mem, c.1 < q.memSize
  fpu : s.fpu = f
  cw : forceCw f.cw = f.cw

/-- The invariant holds, and the parameters are `q`. -/
def State.Kept (q : Params) (s : State) : Prop := s.Inv ∧ s.par = q

/-- A piece of an instruction keeps the invariant: where it ends the instruction, `Kept` holds, and where it goes on, `P`
holds of its value. -/
def Exec.Keeps {α : Type} (q : Params) (P : α → Prop) : Exec α → Prop
  | .ok v => P v
  | .error e => e.Kept q

/-- Every next state of an outcome is kept. -/
def LeavesKept (q : Params) (o : Host.Outcome State Fault Refusal) : Prop := ∀ t, o = .next t → t.Kept q

variable {α β : Type} {q : Params} {f g : Fpu} {s t : State}

theorem State.Inv.sound (h : s.Inv) : s.Sound s.par s.fpu := by
  obtain ⟨hwf, hbelow, hcw, -⟩ := h
  exact ⟨rfl, hwf, hbelow, rfl, hcw⟩

/-- ES and B are right where the run is not Faulted. -/
theorem State.Inv.summed (h : s.Inv) (hr : s.run.isFaulted = false) : s.fpu.Summed := by
  obtain ⟨-, -, -, hs⟩ := h
  exact hs.resolve_left (by simp [hr])

/-- An update of anything but the parameters, memory and the FPU. -/
theorem State.Sound.of_core (h : s.Sound q f) (e : t.core = s.core := by simp) : t.Sound q f := by
  obtain ⟨hp, hm, hf⟩ : t.par = s.par ∧ t.mem = s.mem ∧ t.fpu = s.fpu := by simpa [State.core] using e
  exact ⟨hp.trans h.par, hm ▸ h.wf, hm ▸ h.below, hf.trans h.fpu, h.cw⟩

theorem State.Sound.setFpu (h : s.Sound q f) (hg : forceCw g.cw = g.cw) : (s.setFpu g).Sound q g :=
  ⟨h.par, h.wf, h.below, rfl, hg⟩

theorem State.Sound.kept (h : s.Sound q f) (hf : f.Summed) : s.Kept q := by
  obtain ⟨rfl, hwf, hbelow, rfl, hcw⟩ := h
  exact ⟨⟨hwf, hbelow, hcw, .inr hf⟩, rfl⟩

theorem State.Sound.kept_halt (h : s.Sound q f) (r : HaltReason) : (s.halt r).Kept q := by
  obtain ⟨rfl, hwf, hbelow, rfl, hcw⟩ := h
  exact ⟨⟨hwf, hbelow, hcw, .inl rfl⟩, rfl⟩

theorem Exec.Keeps.bind {P : α → Prop} {R : β → Prop} {r : Exec α} {k : α → Exec β} (hr : r.Keeps q P)
    (hk : ∀ v, P v → (k v).Keeps q R) : Exec.Keeps q R (r >>= k) := by
  cases r with
  | ok v => exact hk v hr
  | error e => exact hr

theorem Exec.Keeps.ite {P : α → Prop} {c : Prop} [Decidable c] {a b : Exec α} (ha : a.Keeps q P) (hb : b.Keeps q P) :
    Exec.Keeps q P (if c then a else b) := by
  split
  · exact ha
  · exact hb

/-- A choice before the rest of an instruction: the rest stands in both branches. -/
theorem Exec.Keeps.ite_bind {P : α → Prop} {R : β → Prop} {c : Prop} [Decidable c] {a b : Exec α} {k : α → Exec β}
    (ha : a.Keeps q P) (hb : b.Keeps q P) (hk : ∀ v, P v → (k v).Keeps q R) :
    Exec.Keeps q R (if c then a >>= k else b >>= k) :=
  .ite (ha.bind hk) (hb.bind hk)

theorem Exec.Keeps.map {r : Exec α} (hr : r.Keeps q fun _ => True) (k : α → β) :
    Exec.Keeps q (fun _ => True) (r.map k) := by
  cases r with
  | ok v => exact trivial
  | error e => exact hr

theorem Exec.Keeps.final {r : Exec State} (hr : r.Keeps q (State.Kept q)) : r.final.Kept q := by
  cases r <;> exact hr

/-- A piece that leaves the FPU as it is, with ES and B right, keeps the invariant to its end. -/
theorem Exec.Keeps.kept {r : Exec State} (hr : r.Keeps q (State.Sound q f)) (hf : f.Summed) :
    r.Keeps q (State.Kept q) := by
  cases r with
  | ok v => exact State.Sound.kept hr hf
  | error e => exact hr

theorem LeavesKept.next (h : s.Kept q) : LeavesKept q (.next s) := by
  rintro _ ⟨⟩
  exact h

theorem LeavesKept.fault (r : Fault) : LeavesKept q (.fault r) := by rintro _ ⟨⟩

theorem LeavesKept.refused (r : Refusal) : LeavesKept q (.refused r) := by rintro _ ⟨⟩

theorem LeavesKept.of_kept {r : Exec State} (hr : r.Keeps q (State.Kept q)) : LeavesKept q (finish r) :=
  .next hr.final

theorem LeavesKept.of_sound {r : Exec State} (hf : f.Summed) (hr : r.Keeps q (State.Sound q f)) :
    LeavesKept q (finish r) :=
  .of_kept (hr.kept hf)

theorem LeavesKept.of_ok (hf : f.Summed) (h : s.Sound q f) : LeavesKept q (finish (.ok s)) :=
  .of_kept (h.kept hf)

theorem State.Sound.haltWith {P : α → Prop} (h : s.Sound q f) (r : HaltReason) :
    Exec.Keeps q P (haltWith s r : Exec α) :=
  h.kept_halt r

/-! ### Memory, operands and the stack -/

theorem State.Sound.linRead (h : s.Sound q f) (a n : Nat) : (s.linRead a n).Keeps q fun _ => True := by
  rcases s.linRead_cases a n with e | ⟨b, e⟩ <;> rw [e]
  · exact trivial
  · exact h.haltWith _

theorem State.Sound.linWrite (h : s.Sound q f) (a n v : Nat) : (s.linWrite a n v).Keeps q (State.Sound q f) := by
  have hwf := s.linWrite_wf a n v h.wf
  have hbelow := s.linWrite_below a n v (h.par ▸ h.below)
  have sound : ∀ m, Memory.wf m → (∀ c ∈ m, c.1 < s.par.memSize) → State.Sound q f { s with mem := m } :=
    fun m hw hb => ⟨h.par, hw, h.par ▸ hb, h.fpu, h.cw⟩
  rcases s.linWrite_cases a n v with ⟨m, e⟩ | ⟨m, b, e⟩ <;> rw [e] at hwf hbelow ⊢
  · exact sound m hwf hbelow
  · exact (sound m hwf hbelow).haltWith _

theorem State.Sound.memRead (h : s.Sound q f) (seg off : Word) (n : Nat) : (s.memRead seg off n).Keeps q fun _ => True :=
  h.linRead _ _

theorem State.Sound.readMemN (h : s.Sound q f) (p : Prefixes) (m : Mem) (n : Nat) :
    (s.readMemN p m n).Keeps q fun _ => True :=
  h.linRead _ _

theorem State.Sound.writeMemN (h : s.Sound q f) (p : Prefixes) (m : Mem) (n v : Nat) :
    (s.writeMemN p m n v).Keeps q (State.Sound q f) :=
  h.linWrite _ _ _

theorem State.Sound.linReadW (h : s.Sound q f) (w : Width) (a : Nat) : (s.linReadW w a).Keeps q fun _ => True :=
  (h.linRead _ _).map _

theorem State.Sound.readRM (h : s.Sound q f) (p : Prefixes) (w : Width) (rm : RM) :
    (s.readRM p w rm).Keeps q fun _ => True := by
  cases rm with
  | reg r => exact trivial
  | mem m => exact h.linReadW _ _

theorem State.Sound.writeRM (h : s.Sound q f) (p : Prefixes) (w : Width) (rm : RM) (v : BitVec w.bits) :
    (s.writeRM p w rm v).Keeps q (State.Sound q f) := by
  cases rm with
  | reg r => exact h.of_core
  | mem m => exact h.linWrite _ _ _

theorem State.Sound.readFar (h : s.Sound q f) (w : Width) (a : Nat) : (s.readFar w a).Keeps q fun _ => True :=
  (h.linRead _ _).bind fun _ _ => trivial

theorem State.Sound.push (h : s.Sound q f) (n v : Nat) : (s.push n v).Keeps q (State.Sound q f) :=
  (h.of_core : (s.setR16 rSP _).Sound q f).linWrite _ _ _

theorem State.Sound.pushW (h : s.Sound q f) (w : Width) (v : BitVec w.bits) :
    (s.pushW w v).Keeps q (State.Sound q f) :=
  h.push _ _

theorem State.Sound.pop (h : s.Sound q f) (n : Nat) : (s.pop n).Keeps q fun r => r.2.Sound q f :=
  (h.memRead _ _ _).bind fun _ _ => h.of_core

theorem State.Sound.popW (h : s.Sound q f) (w : Width) : (s.popW w).Keeps q fun r => r.2.Sound q f :=
  (h.pop _).bind fun _ ht => ht

theorem State.Sound.popInto (h : s.Sound q f) (w : Width) (r : BitVec 3) :
    (s.popInto w r).Keeps q (State.Sound q f) :=
  (h.popW _).bind fun ⟨_, _⟩ ht => ht.of_core

theorem State.Sound.pushSlot4 (h : s.Sound q f) (v : Word) : (s.pushSlot4 v).Keeps q (State.Sound q f) :=
  ((h.of_core : (s.useDraw.setR16 rSP (s.r16 rSP - 4)).Sound q f).linWrite _ _ _).bind fun _ ht =>
    .ite (ht.linWrite _ _ _) ht

/-! ### Interrupts and faults -/

theorem State.Sound.applyReply (h : s.Sound q f) (r : HostReply) : (s.applyReply r).Sound q f := by
  obtain ⟨rfl, hwf, hbelow, rfl, hcw⟩ := h
  rw [s.applyReply_frame r]
  exact ⟨rfl, s.hostWrites_wf _ hwf, s.hostWrites_below _ hbelow, rfl, hcw⟩

theorem State.Sound.hostService (h : s.Sound q f) (v : Byte) (ret : Word) : (s.hostService v ret).Sound q f := by
  have hr := h.applyReply (Config.hostService v (s.r8 rAH) s)
  unfold State.hostService
  dsimp only
  split
  · exact hr.of_core
  · exact hr.of_core rfl
  · exact hr.of_core
  · exact h.of_core

theorem State.Sound.ivtRead (h : s.Sound q f) (v : Byte) : (s.ivtRead v).Keeps q fun _ => True :=
  (h.linRead _ _).bind fun _ _ => (h.linRead _ _).bind fun _ _ => trivial

theorem State.Sound.guestEntry (h : s.Sound q f) (off seg ret : Word) :
    (s.guestEntry off seg ret).Keeps q (State.Sound q f) :=
  (h.push _ _).bind fun _ h1 => (h1.push _ _).bind fun _ h2 => (h2.push _ _).bind fun _ h3 => h3.of_core rfl

theorem State.Sound.dispatch (h : s.Sound q f) (hf : f.Summed) (v : Byte) (ret : Word) : (s.dispatch v ret).Kept q := by
  have hb : s.beginDispatch.Sound q f := h.of_core
  refine Exec.Keeps.final (.bind (hb.ivtRead v) fun entry _ => .ite ?_ (.ite ?_ ?_))
  · exact (hb.hostService v ret).kept hf
  · exact hb.haltWith _
  · exact (hb.guestEntry _ _ _).kept hf

theorem State.Sound.raise {P : α → Prop} (h : s.Sound q f) (hf : f.Summed) (v : Byte) (ret : Word) :
    Exec.Keeps q P (raise s v ret : Exec α) :=
  h.dispatch hf v ret

theorem State.Sound.invalidOpcode (h : s.Sound q f) (hf : f.Summed) (bytes : List Byte) :
    (s.invalidOpcode bytes).Kept q := by
  unfold State.invalidOpcode
  split
  · exact h.kept_halt _
  · exact h.dispatch hf _ _

/-! ### The shapes of the integer instructions -/

theorem State.Sound.aluSrc (h : s.Sound q f) (p : Prefixes) (a : AluForm) : (s.aluSrc p a).Keeps q fun _ => True := by
  cases a with
  | gbEb r rm | gvEv r rm => exact h.readRM _ _ _
  | ebGb | evGv | alIb | eaxIz | ebIb | evIz | ebIb82 | evIbs => exact trivial

theorem State.Sound.aluWrite (h : s.Sound q f) (p : Prefixes) (a : AluForm)
    (op : BitVec (a.width p).bits → BitVec (a.width p).bits → BitVec (a.width p).bits × Flags) :
    (s.aluWrite p a op).Keeps q (State.Sound q f) :=
  (h.readRM _ _ _).bind fun _ _ => (h.aluSrc _ _).bind fun _ _ => (h.writeRM _ _ _ _).bind fun _ ht => ht.of_core

theorem State.Sound.logicWrite (h : s.Sound q f) (p : Prefixes) (a : AluForm)
    (op : BitVec (a.width p).bits → BitVec (a.width p).bits → BitVec (a.width p).bits) :
    (s.logicWrite p a op).Keeps q (State.Sound q f) :=
  (h.aluWrite _ _ _).bind fun _ ht => ht.of_core

theorem State.Sound.unary (h : s.Sound q f) (p : Prefixes) (w : Width) (rm : RM)
    (op : BitVec w.bits → BitVec w.bits × Flags) : (s.unary p w rm op).Keeps q (State.Sound q f) :=
  (h.readRM _ _ _).bind fun _ _ => (h.writeRM _ _ _ _).bind fun _ ht => ht.of_core

theorem State.Sound.shift (h : s.Sound q f) (p : Prefixes) (e : EForm) (n : ShiftCount)
    (op : BitVec (e.width p).bits → Nat → BitVec (e.width p).bits × Flags) :
    (s.shift p e n op).Keeps q (State.Sound q f) :=
  (h.readRM _ _ _).bind fun _ _ => .ite h.of_core ((h.writeRM _ _ _ _).bind fun _ ht => ht.of_core)

theorem State.Sound.dblShift (h : s.Sound q f) (p : Prefixes) (rm : RM) (n : DblCount)
    (op : BitVec (osW p).bits → Nat → BitVec (osW p).bits × Flags) :
    (s.dblShift p rm n op).Keeps q (State.Sound q f) :=
  Exec.Keeps.ite_bind (P := fun _ => True) trivial (h.readRM _ _ _) fun _ _ =>
    .ite h.of_core ((h.writeRM _ _ _ _).bind fun _ ht => ht.of_core)

theorem State.Sound.readLoc (h : s.Sound q f) (w : Width) (l : BitLoc) : (s.readLoc w l).Keeps q fun _ => True := by
  cases l with
  | reg r => exact trivial
  | lin a => exact h.linReadW _ _

theorem State.Sound.writeLoc (h : s.Sound q f) (w : Width) (v : BitVec w.bits) (l : BitLoc) :
    (s.writeLoc w v l).Keeps q (State.Sound q f) := by
  cases l with
  | reg r => exact h.of_core
  | lin a => exact h.linWrite _ _ _

theorem State.Sound.bitModify (h : s.Sound q f) (p : Prefixes) (rm : RM) (i : BitIndex)
    (op : BitVec (osW p).bits → BitVec (osW p).bits → BitVec (osW p).bits) :
    (s.bitModify p rm i op).Keeps q (State.Sound q f) :=
  (h.readLoc _ _).bind fun _ _ => (h.writeLoc _ _ _).bind fun _ ht => ht.of_core

theorem State.Sound.loadReg (h : s.Sound q f) (p : Prefixes) (w : Width) (r : BitVec 3) (rm : RM) :
    (s.loadReg p w r rm).Keeps q (State.Sound q f) :=
  (h.readRM _ _ _).bind fun _ _ => h.of_core

theorem State.Sound.storeRM (h : s.Sound q f) (p : Prefixes) (w : Width) (rm : RM) (v : BitVec w.bits) :
    (s.storeRM p w rm v).Keeps q (State.Sound q f) :=
  (h.writeRM _ _ _ _).bind fun _ ht => ht.of_core

theorem State.Sound.xchgRM (h : s.Sound q f) (p : Prefixes) (w : Width) (rm : RM) (r : BitVec 3) :
    (s.xchgRM p w rm r).Keeps q (State.Sound q f) :=
  (h.readRM _ _ _).bind fun _ _ => (h.writeRM _ _ _ _).bind fun _ ht => ht.of_core

theorem State.Sound.pushCommit (h : s.Sound q f) (w : Width) (v : BitVec w.bits) :
    (s.pushCommit w v).Keeps q (State.Sound q f) :=
  (h.pushW _ _).bind fun _ ht => ht.of_core

theorem State.Sound.loadFar (h : s.Sound q f) (p : Prefixes) (sr : SegReg) (r : BitVec 3) (m : Mem) :
    (s.loadFar p sr r m).Keeps q (State.Sound q f) :=
  (h.readFar _ _).bind fun ⟨_, _⟩ _ => h.of_core

theorem State.Sound.checkTarget (h : s.Sound q f) {n : Nat} (a : BitVec n) :
    (s.checkTarget a).Keeps q fun _ => True :=
  .ite (h.haltWith _) trivial

theorem State.Sound.setIp (h : s.Sound q f) {n : Nat} (a : BitVec n) : (s.setIp a).Keeps q (State.Sound q f) :=
  (h.checkTarget _).bind fun _ _ => h.of_core

theorem State.Sound.branch (h : s.Sound q f) (w : Width) (taken : Bool) (d : BitVec w.bits) :
    (s.branch w taken d).Keeps q (State.Sound q f) :=
  .ite (h.setIp _) h.of_core

theorem State.Sound.callNear (h : s.Sound q f) (w : Width) (a : BitVec w.bits) :
    (s.callNear w a).Keeps q (State.Sound q f) :=
  (h.checkTarget _).bind fun _ _ => (h.pushW _ _).bind fun _ ht => ht.of_core

theorem State.Sound.callFarTo (h : s.Sound q f) (p : Prefixes) (off : BitVec (osW p).bits) (seg : Word) :
    (s.callFarTo p off seg).Keeps q (State.Sound q f) :=
  (h.checkTarget _).bind fun _ _ => .ite_bind (h.pushSlot4 _) (h.push _ _) fun _ h1 =>
    (h1.pushW _ _).bind fun _ h2 => h2.of_core

theorem State.Sound.copyFrames (n : Nat) (h : s.Sound q f) : (State.copyFrames n s).Keeps q (State.Sound q f) := by
  induction n generalizing s with
  | zero => exact h
  | succ n ih =>
    have hb : (s.setR16 rBP (s.r16 rBP - 2)).Sound q f := h.of_core
    exact (hb.memRead _ _ _).bind fun _ _ => (hb.push _ _).bind fun _ ht => ih ht

theorem State.Sound.nestFrames (h : s.Sound q f) (level : Nat) (frame : Word) :
    (s.nestFrames level frame).Keeps q (State.Sound q f) :=
  .ite h ((h.copyFrames _).bind fun _ ht => ht.push _ _)

/-! ### The string instructions -/

theorem State.Sound.movsIter (p : Prefixes) (w : Width) (h : s.Sound q f) :
    (State.movsIter p w s).Keeps q (State.Sound q f) :=
  (h.linReadW _ _).bind fun _ _ => (h.linWrite _ _ _).bind fun _ ht => ht.of_core

theorem State.Sound.cmpsIter (p : Prefixes) (w : Width) (h : s.Sound q f) :
    (State.cmpsIter p w s).Keeps q (State.Sound q f) :=
  (h.linReadW _ _).bind fun _ _ => (h.linReadW _ _).bind fun _ _ => h.of_core

theorem State.Sound.scasIter (w : Width) (h : s.Sound q f) : (State.scasIter w s).Keeps q (State.Sound q f) :=
  (h.linReadW _ _).bind fun _ _ => h.of_core

theorem State.Sound.lodsIter (p : Prefixes) (w : Width) (h : s.Sound q f) :
    (State.lodsIter p w s).Keeps q (State.Sound q f) :=
  (h.linReadW _ _).bind fun _ _ => h.of_core

theorem State.Sound.stosIter (w : Width) (h : s.Sound q f) : (State.stosIter w s).Keeps q (State.Sound q f) :=
  (h.linWrite _ _ _).bind fun _ ht => ht.of_core

theorem State.Sound.insIter (w : Width) (h : s.Sound q f) : (State.insIter w s).Keeps q (State.Sound q f) :=
  ((h.of_core : (s.ioRead _ _).2.Sound q f).linWrite _ _ _).bind fun _ ht => ht.of_core

theorem State.Sound.outsIter (p : Prefixes) (w : Width) (h : s.Sound q f) :
    (State.outsIter p w s).Keeps q (State.Sound q f) :=
  (h.linReadW _ _).bind fun _ _ => h.of_core

theorem State.Sound.repLoop {iter : State → Exec State} (stop : State → Bool)
    (hi : ∀ {u : State}, u.Sound q f → (iter u).Keeps q (State.Sound q f)) (n : Nat) (h : s.Sound q f) :
    (repLoop iter stop n s).Keeps q (State.Sound q f) := by
  induction n generalizing s with
  | zero => exact h
  | succ n ih => exact (hi h).bind fun _ ht => .ite ht.of_core (ih ht.of_core)

theorem State.Sound.string (h : s.Sound q f) (p : Prefixes) {iter : State → Exec State} (stop : State → Bool)
    (hi : ∀ {u : State}, u.Sound q f → (iter u).Keeps q (State.Sound q f)) :
    (s.string p iter stop).Keeps q (State.Sound q f) := by
  have hk : ∀ u : State, u.Sound q f → Exec.Keeps q (State.Sound q f) (.ok u.commit) := fun _ hu => hu.of_core
  unfold State.string
  dsimp only
  split
  · exact (hi h).bind hk
  · exact (h.repLoop stop hi _).bind hk

/-! ### The FPU: what leaves CW as it is -/

namespace Fpu

variable (f : Fpu)

@[simp] theorem setSt_cw (i : BitVec 3) (v : F80) : (f.setSt i v).cw = f.cw := rfl
@[simp] theorem pop_cw : f.pop.cw = f.cw := rfl
@[simp] theorem pushRaw_cw (v : F80) : (f.pushRaw v).cw = f.cw := rfl
@[simp] theorem drawC03_cw (d : Nat) : (f.drawC03 d).cw = f.cw := rfl
@[simp] theorem setCodes_cw (c : RemCodes) : (f.setCodes c).cw = f.cw := rfl
@[simp] theorem swap_cw (i : BitVec 3) : (f.swap i).cw = f.cw := rfl

@[simp] theorem push_cw (v : F80) : (f.push v).cw = f.cw := by
  unfold push
  split
  · rfl
  · dsimp only; split <;> rfl

@[simp] theorem deliver_cw (r : FRes F80) (i : BitVec 3) (pops : Bool) : (f.deliver r i pops).cw = f.cw := by
  unfold deliver
  cases r.res with
  | none => rfl
  | some v => cases pops <;> rfl

@[simp] theorem loadBits_cw (v : F80) : (f.loadBits v).cw = f.cw := by simp [loadBits]
@[simp] theorem loadInt_cw (n v : Nat) : (f.loadInt n v).cw = f.cw := f.loadBits_cw _
@[simp] theorem loadBcd_cw (d v : Nat) : (f.loadBcd d v).cw = f.cw := f.loadBits_cw _

@[simp] theorem loadConv_cw (o : Opnd) : (f.loadConv o).cw = f.cw := by
  unfold loadConv
  dsimp only
  split_ifs <;> simp

@[simp] theorem loadSt_cw (i : BitVec 3) : (f.loadSt i).cw = f.cw := by
  unfold loadSt
  dsimp only
  split_ifs <;> simp

@[simp] theorem copySt_cw (d : Nat) (i : BitVec 3) (pops : Bool) : (f.copySt d i pops).cw = f.cw := by simp [copySt]

@[simp] theorem fillEmpty_cw (i : BitVec 3) : (f.fillEmpty i).cw = f.cw := by unfold fillEmpty; split <;> rfl

@[simp] theorem exchange_cw (i : BitVec 3) : (f.exchange i).cw = f.cw := by
  unfold exchange
  dsimp only
  split_ifs <;> simp

@[simp] theorem two_cw (a b : F80) : (f.two a b).cw = f.cw := by simp [two]

theorem twoCheck_cw {f g : Fpu} (h : f.twoCheck = some g) : g.cw = f.cw := by
  unfold twoCheck at h
  split at h
  · cases h; split <;> simp
  · cases h

@[simp] theorem fxtract_cw : f.fxtract.cw = f.cw := by
  unfold fxtract
  split
  · exact twoCheck_cw ‹_›
  · dsimp only; split <;> simp

@[simp] theorem prem_cw (d : Nat) (nearest : Bool) : (f.prem d nearest).cw = f.cw := by
  unfold prem
  dsimp only
  split
  · simp
  · split
    · simp
    · split <;> simp

@[simp] theorem popN_cw (n : Nat) : (f.popN n).cw = f.cw := by
  induction n generalizing f with
  | zero => rfl
  | succ n ih => exact ih f.pop

@[simp] theorem compared_cw (r : FRes CmpCodes) (pops : Nat) : (f.compared r pops).cw = f.cw := by
  unfold compared
  dsimp only
  split <;> simp

@[simp] theorem trigCodes_cw (d : Nat) (x : F80) : (f.trigCodes d x).cw = f.cw := by unfold trigCodes; split <;> rfl

@[simp] theorem sinCos_cw (d : Nat) (op : F80 → Calc) : (f.sinCos d op).cw = f.cw := by
  unfold sinCos
  split_ifs <;> simp

@[simp] theorem sinCosTwo_cw (d : Nat) (op : F80 → Calc) (push : F80 → FRes F80) :
    (f.sinCosTwo d op push).cw = f.cw := by
  unfold sinCosTwo
  split
  · next g hg => exact twoCheck_cw (g := g) hg
  · dsimp only
    split
    · rfl
    · rw [trigCodes_cw]; split <;> simp

end Fpu

/-! ### What CW may hold -/

@[simp] theorem forceCw_forceCw (v : BitVec 16) : forceCw (forceCw v) = forceCw v := by
  apply BitVec.eq_of_getLsbD_eq
  intro i hi
  simp only [forceCw, BitVec.getLsbD_or, BitVec.getLsbD_and]
  interval_cases i <;> simp

/-- Masking every exception leaves the fixed bits of CW. -/
theorem forceCw_or_masks (v : BitVec 16) (h : forceCw v = v) : forceCw (v ||| 0x003F) = v ||| 0x003F := by
  rw [← h]
  apply BitVec.eq_of_getLsbD_eq
  intro i hi
  simp only [forceCw, BitVec.getLsbD_or, BitVec.getLsbD_and]
  interval_cases i <;> simp

theorem Fpu.loadEnv_cw (f : Fpu) (os32 : Bool) (v : Nat) : forceCw (f.loadEnv os32 v).cw = (f.loadEnv os32 v).cw :=
  forceCw_forceCw _

/-- FNCLEX leaves no exception flag, and ES and B clear. -/
theorem Fpu.summed_clear (f : Fpu) : Fpu.Summed { f with status := FpuStatus.ofImage (f.sw &&& 0x7F00) } := by
  simp [Fpu.Summed, Fpu.es, FpuStatus.ofImage]

theorem Fpu.forceCw_init (f : Fpu) : forceCw f.init.cw = f.init.cw :=
  (by decide : forceCw 0x037F = 0x037F)

theorem Fpu.summed_init (f : Fpu) : f.init.Summed := by simp [Fpu.Summed, Fpu.es, Fpu.init, FpuStatus.clear]

theorem Fpu.loadImage_summed (f : Fpu) (v : Nat) (h : f.Summed) : (f.loadImage v).Summed := h

/-! ### The end of an FPU instruction -/

theorem State.Sound.setFpu_of_cw (h : s.Sound q f) (hg : g.cw = f.cw) : (s.setFpu g).Sound q g :=
  h.setFpu (hg ▸ h.cw)

theorem State.Sound.fpuEnd (h : s.Sound q f) (i : Instr) (fdp : Option Nat) :
    (s.fpuEnd i fdp).Keeps q (State.Kept q) := by
  have hg := h.setFpu_of_cw (g := (s.fpu.setPointers (s.lin s.ctx.startCs s.ctx.startIp) (fopOf i) fdp).summary)
    (by simp [h.fpu])
  exact .ite (hg.raise (Fpu.summary_summed _) _ _) (State.Sound.kept hg.of_core (Fpu.summary_summed _))

theorem State.Sound.fpuReg (h : s.Sound q f) (i : Instr) (hg : g.cw = f.cw) :
    (s.fpuReg i g).Keeps q (State.Kept q) :=
  State.Sound.fpuEnd (h.setFpu_of_cw hg).of_core _ _

theorem State.Sound.fpuMem (h : s.Sound q f) (i : Instr) (m : Mem) (hg : g.cw = f.cw) :
    (s.fpuMem i m g).Keeps q (State.Kept q) :=
  State.Sound.fpuEnd (h.setFpu_of_cw hg).of_core _ _

/-- The end of a control instruction, which may write CW and leaves ES and B right. -/
theorem State.Sound.fpuControl (h : s.Sound q f) (hc : forceCw g.cw = g.cw) (hs : g.Summed) :
    (s.fpuControl g).Kept q :=
  State.Sound.kept ((h.setFpu hc).of_core rfl) hs

/-! ### The shapes of the FPU instructions -/

section Shapes

variable (h : s.Sound q s.fpu) (i : Instr)
include h

theorem State.Sound.fpuLoad (m : Mem) (n : Nat) {op : Fpu → Nat → Fpu} (hop : ∀ u v, (op u v).cw = u.cw) :
    (s.fpuLoad i m n op).Keeps q (State.Kept q) :=
  (h.readMemN _ _ _).bind fun _ _ => h.fpuMem i m (by simp [hop])

theorem State.Sound.fpuStore (m : Mem) (n : Nat) (r : FRes Nat) (pops : Bool) :
    (s.fpuStore i m n r pops).Keeps q (State.Kept q) := by
  unfold State.fpuStore
  dsimp only
  split
  · exact h.fpuMem i m (by simp)
  · refine ((h.setFpu_of_cw (by simp)).writeMemN _ _ _ _).bind fun _ ht => ht.fpuMem i m ?_
    split <;> rfl

theorem State.Sound.fpuStSt (op : FOp) (dst src : BitVec 3) (pops : Bool) :
    (s.fpuStSt i op dst src pops).Keeps q (State.Kept q) :=
  h.fpuReg i (by simp)

/-- The source is read from a state with the exceptions of the underflow, if at all; an access that halts there leaves ES and
B as they were (notes/assumptions/25.md, 26.md). -/
theorem State.Sound.fpuStMem (op : FOp) (m : Mem) (n : Nat) (load : Nat → Opnd) :
    (s.fpuStMem i op m n load).Keeps q (State.Kept q) :=
  .ite
    (.ite (((h.setFpu_of_cw (by simp)).readMemN _ _ _).bind fun _ _ => h.fpuMem i m (by simp)) (h.fpuMem i m (by simp)))
    ((h.readMemN _ _ _).bind fun _ _ => h.fpuMem i m (by simp))

theorem State.Sound.fpuArith (op : FOp) (a : FArith) : (s.fpuArith i op a).Keeps q (State.Kept q) := by
  cases a with
  | m32 m | m64 m => exact h.fpuStMem i op m _ _
  | st0 k | sti k => exact h.fpuStSt i op _ _ _

theorem State.Sound.fpuArithInt (op : FOp) (a : FInt) : (s.fpuArithInt i op a).Keeps q (State.Kept q) := by
  cases a with
  | m16 m | m32 m => exact h.fpuStMem i op m _ _

theorem State.Sound.fpuUnary (op : F80 → FRes F80) : (s.fpuUnary i op).Keeps q (State.Kept q) :=
  h.fpuReg i (by simp)

theorem State.Sound.fpuYx (op : F80 → F80 → Calc) : (s.fpuYx i op).Keeps q (State.Kept q) :=
  h.fpuReg i (by simp)

theorem State.Sound.fpuConst (v : F80) : (s.fpuConst i v).Keeps q (State.Kept q) :=
  h.fpuReg i (by simp)

theorem State.Sound.fpuCmpSt (ordered : Bool) (k : BitVec 3) (pops : Nat) :
    (s.fpuCmpSt i ordered k pops).Keeps q (State.Kept q) :=
  h.fpuReg i (by simp)

theorem State.Sound.fpuCmpMem (m : Mem) (n : Nat) (load : Nat → Opnd) (pops : Nat) :
    (s.fpuCmpMem i m n load pops).Keeps q (State.Kept q) :=
  .ite
    (.ite (((h.setFpu_of_cw (by simp)).readMemN _ _ _).bind fun _ _ => h.fpuMem i m (by simp)) (h.fpuMem i m (by simp)))
    ((h.readMemN _ _ _).bind fun _ _ => h.fpuMem i m (by simp))

theorem State.Sound.fpuCmp (pops : Nat) (a : FCmp) : (s.fpuCmp i pops a).Keeps q (State.Kept q) := by
  cases a with
  | m32 m | m64 m => exact h.fpuCmpMem i m _ _ _
  | st k => exact h.fpuCmpSt i _ _ _

theorem State.Sound.fpuCmpInt (pops : Nat) (a : FInt) : (s.fpuCmpInt i pops a).Keeps q (State.Kept q) := by
  cases a with
  | m16 m | m32 m => exact h.fpuCmpMem i m _ _ _

end Shapes

/-! ### Instructions of several forms -/

section Forms

variable (h : s.Sound q s.fpu) (hf : s.fpu.Summed) (p : Prefixes)
include h hf

theorem execMov_kept (a : MovForm) : LeavesKept q (execMov p a s) := by
  cases a with
  | ebGb rm r | evGv rm r | ebIb rm i | evIz rm i => exact .of_sound hf (h.storeRM _ _ _ _)
  | gbEb r rm | gvEv r rm => exact .of_sound hf (h.loadReg _ _ _ _)
  | gbIb r i | gvIz r i => exact .of_ok hf h.of_core

theorem execMovMoffs_kept (a : MoffsForm) : LeavesKept q (execMovMoffs p a s) := by
  cases a with
  | alOb off | eaxOv off => exact .of_sound hf ((h.linReadW _ _).bind fun _ _ => h.of_core)
  | obAl off | ovEax off => exact .of_sound hf ((h.linWrite _ _ _).bind fun _ ht => ht.of_core)

theorem execMovFromSeg_kept (rm : RM) (sr : SegReg) : LeavesKept q (execMovFromSeg p rm sr s) := by
  cases rm with
  | mem m => exact .of_sound hf ((h.writeMemN _ _ _ _).bind fun _ ht => ht.of_core)
  | reg r => exact .of_sound hf (.ite h.of_core h.of_core)

theorem execXchg_kept (a : XchgForm) : LeavesKept q (execXchg p a s) := by
  cases a with
  | ebGb rm r | evGv rm r => exact .of_sound hf (h.xchgRM _ _ _ _)
  | eaxGv r => exact .of_ok hf h.of_core

theorem execPush_kept (a : StackForm) : LeavesKept q (execPush p a s) := by
  cases a with
  | reg r => exact .of_sound hf (h.pushCommit _ _)
  | rm e => exact .of_sound hf ((h.readRM _ _ _).bind fun _ _ => h.pushCommit _ _)

theorem execPop_kept (a : StackForm) : LeavesKept q (execPop p a s) := by
  refine .of_sound hf ((h.popW _).bind fun ⟨_, _⟩ ht => ?_)
  cases a with
  | reg r => exact ht.of_core
  | rm e => exact ht.storeRM _ _ _ _

theorem execTest_kept (a : TestForm) : LeavesKept q (execTest p a s) := by
  cases a with
  | ebGb rm r | evGv rm r | ebIb rm i | evIz rm i => exact .of_sound hf ((h.readRM _ _ _).bind fun _ _ => h.of_core)
  | alIb i | eaxIz i => exact .of_ok hf h.of_core

end Forms

/-! ### The stack, control transfer and arithmetic -/

section Integer

variable (h : s.Sound q s.fpu) (hf : s.fpu.Summed) (p : Prefixes)
include h hf

theorem execPusha_kept : LeavesKept q (execPusha p s) :=
  .of_sound hf <| (h.pushW _ _).bind fun _ h => (h.pushW _ _).bind fun _ h => (h.pushW _ _).bind fun _ h =>
    (h.pushW _ _).bind fun _ h => (h.pushW _ _).bind fun _ h => (h.pushW _ _).bind fun _ h =>
    (h.pushW _ _).bind fun _ h => (h.pushW _ _).bind fun _ h => h.of_core

theorem execPopa_kept : LeavesKept q (execPopa p s) :=
  .of_sound hf <| (h.popInto _ _).bind fun _ h => (h.popInto _ _).bind fun _ h => (h.popInto _ _).bind fun t h =>
    have h : (t.setR16 rSP (t.r16 rSP + BitVec.ofNat 16 (osW p).bytes)).Sound q s.fpu := h.of_core
    (h.popInto _ _).bind fun _ h => (h.popInto _ _).bind fun _ h => (h.popInto _ _).bind fun _ h =>
    (h.popInto _ _).bind fun _ h => h.of_core

/-- The adjustment of AX, if any, is in one of the two forms of P_AAA. -/
theorem execAaa_kept : LeavesKept q (execAaa p s) :=
  .of_ok hf (h.of_core (by cases s.lowAdjust <;> cases s.par.aaa <;> simp))

theorem execAas_kept : LeavesKept q (execAas p s) :=
  .of_ok hf (h.of_core (by cases s.lowAdjust <;> cases s.par.aaa <;> simp))

theorem execRet_kept (n : Option Word) : LeavesKept q (execRet p n s) :=
  .of_sound hf <| (h.popW _).bind fun ⟨_, _⟩ h => (h.checkTarget _).bind fun _ _ => h.of_core

theorem execRetf_kept (n : Option Word) : LeavesKept q (execRetf p n s) :=
  .of_sound hf <| (h.popW _).bind fun ⟨_, _⟩ h => (h.pop _).bind fun ⟨_, _⟩ h =>
    (h.checkTarget _).bind fun _ _ => h.of_core

theorem execIret_kept : LeavesKept q (execIret p s) :=
  .of_sound hf <| (h.popW _).bind fun ⟨_, _⟩ h => (h.pop _).bind fun ⟨_, _⟩ h =>
    (h.pop _).bind fun ⟨_, _⟩ h => (h.checkTarget _).bind fun _ _ => h.of_core

theorem execEnter_kept (size : Word) (level : Byte) : LeavesKept q (execEnter p size level s) :=
  .of_sound hf <| .ite (h.haltWith _) <| (h.push _ _).bind fun _ h => (h.nestFrames _ _).bind fun _ h => h.of_core

theorem execLeave_kept : LeavesKept q (execLeave p s) :=
  have h : (s.setR16 rSP (s.r16 rBP)).Sound q s.fpu := h.of_core
  .of_sound hf <| (h.popW _).bind fun ⟨_, _⟩ h => h.of_core

end Integer

/-! ### FPU instructions of several forms, and the control instructions -/

section FpuForms

variable (h : s.Sound q s.fpu) (p : Prefixes)
include h

theorem execFld_kept (a : FLoad) : LeavesKept q (execFld p a s) := by
  cases a with
  | m32 m | m64 m => exact .of_kept (h.fpuLoad _ m _ fun _ _ => Fpu.loadConv_cw _ _)
  | m80 m => exact .of_kept (h.fpuLoad _ m _ fun _ _ => Fpu.loadBits_cw _ _)
  | st k => exact .of_kept (h.fpuReg _ (by simp))

theorem execFild_kept (a : FInt3) : LeavesKept q (execFild p a s) := by
  cases a with
  | m16 m | m32 m | m64 m => exact .of_kept (h.fpuLoad _ m _ fun _ _ => Fpu.loadInt_cw _ _ _)

theorem execFst_kept (a : FStore) : LeavesKept q (execFst p a s) := by
  cases a with
  | m32 m | m64 m => exact .of_kept (h.fpuStore _ m _ _ _)
  | st k => exact .of_kept (h.fpuReg _ (by simp))

theorem execFstp_kept (a : FStoreP) : LeavesKept q (execFstp p a s) := by
  cases a with
  | m32 m | m64 m | m80 m => exact .of_kept (h.fpuStore _ m _ _ _)
  | st k => exact .of_kept (h.fpuReg _ (by simp))

theorem execFist_kept (a : FInt) : LeavesKept q (execFist p a s) := by
  cases a with
  | m16 m | m32 m => exact .of_kept (h.fpuStore _ m _ _ _)

theorem execFistp_kept (a : FInt3) : LeavesKept q (execFistp p a s) := by
  cases a with
  | m16 m | m32 m | m64 m => exact .of_kept (h.fpuStore _ m _ _ _)

theorem execFldcw_kept (m : Mem) : LeavesKept q (execFldcw p m s) :=
  .of_kept <| (h.readMemN _ _ _).bind fun _ _ => h.fpuControl (forceCw_forceCw _) (Fpu.summary_summed _)

theorem execFldenv_kept (m : Mem) : LeavesKept q (execFldenv p m s) :=
  .of_kept <| (h.readMemN _ _ _).bind fun _ _ => h.fpuControl (Fpu.loadEnv_cw _ _ _) (Fpu.summary_summed _)

theorem execFrstor_kept (m : Mem) : LeavesKept q (execFrstor p m s) :=
  .of_kept <| (h.readMemN _ _ _).bind fun _ _ =>
    h.fpuControl (Fpu.loadEnv_cw s.fpu p.os32 _) (Fpu.loadImage_summed _ _ (Fpu.summary_summed _))

/-- FNSTENV masks every exception. -/
theorem execFnstenv_kept (m : Mem) : LeavesKept q (execFnstenv p m s) :=
  have hd : s.useDraw.Sound q s.fpu := h.of_core
  .of_kept <| (hd.writeMemN _ _ _ _).bind fun _ ht => ht.fpuControl (forceCw_or_masks _ h.cw) (Fpu.summary_summed _)

theorem execFnsave_kept (m : Mem) : LeavesKept q (execFnsave p m s) :=
  have hd : s.useDraw.Sound q s.fpu := h.of_core
  .of_kept <| (hd.writeMemN _ _ _ _).bind fun _ ht => ht.fpuControl (Fpu.forceCw_init _) (Fpu.summed_init _)

theorem execFnstsw_kept (hf : s.fpu.Summed) (a : FSwDst) : LeavesKept q (execFnstsw p a s) := by
  cases a with
  | m16 m => exact .of_sound hf ((h.writeMemN _ _ _ _).bind fun _ ht => ht.of_core)
  | ax => exact .of_ok hf h.of_core

end FpuForms

/-! ### The dispatch -/

/-- Every instruction keeps the invariant, begun with ES and B right. -/
theorem exec_kept (i : Instr) (h : s.Sound q s.fpu) (hf : s.fpu.Summed) : LeavesKept q (exec i s) := by
  cases i with
  -- 40_data_transfer.md
  | mov p a => exact execMov_kept h hf p a
  | movMoffs p a => exact execMovMoffs_kept h hf p a
  | movFromSeg p rm sr => exact execMovFromSeg_kept h hf p rm sr
  | movToSeg p sr rm => exact .of_sound hf ((h.readRM _ _ _).bind fun _ _ => h.of_core)
  | xchg p a => exact execXchg_kept h hf p a
  | push p a => exact execPush_kept h hf p a
  | pushImm p a => exact .of_sound hf (h.pushCommit _ _)
  | pushSeg p sr => exact .of_sound hf (.ite_bind (h.pushSlot4 _) (h.push _ _) fun _ ht => ht.of_core)
  | pushFs p | pushGs p | popFs p | popGs p | lfs p | lgs p | arpl p | system p op2 => exact .of_sound hf (h.haltWith _)
  | pop p a => exact execPop_kept h hf p a
  | popSeg p sr => exact .of_sound hf ((h.pop _).bind fun ⟨_, _⟩ ht => ht.of_core)
  | pusha p => exact execPusha_kept h hf p
  | popa p => exact execPopa_kept h hf p
  | pushf p => exact .of_sound hf ((h.push _ _).bind fun _ ht => ht.of_core)
  | popf p => exact .of_sound hf ((h.pop _).bind fun ⟨_, _⟩ ht => ht.of_core)
  | lds p r m | les p r m | lss p r m => exact .of_sound hf (h.loadFar _ _ _ _)
  | xlat p => exact .of_sound hf ((h.linReadW _ _).bind fun _ _ => h.of_core)
  | lea p r m => exact .of_ok hf h.of_core
  | lahf p | sahf p | cbw p | cwd p => exact .of_ok hf h.of_core
  | movzx p r wide rm | movsx p r wide rm => exact .of_sound hf ((h.readRM _ _ _).bind fun _ _ => h.of_core)
  | inPort p wide a | outPort p wide a => exact .of_ok hf h.of_core
  -- 41_arithmetic.md
  | add p a | adc p a | sub p a | sbb p a => exact .of_sound hf (h.aluWrite _ _ _)
  | cmp p a => exact .of_sound hf ((h.readRM _ _ _).bind fun _ _ => (h.aluSrc _ _).bind fun _ _ => h.of_core)
  | inc p a | dec p a | neg p a | not p a => exact .of_sound hf (h.unary _ _ _ _)
  | mul p a | imul1 p a => exact .of_sound hf ((h.readRM _ _ _).bind fun _ _ => h.of_core)
  | imul2 p r rm => exact .of_sound hf ((h.readRM _ _ _).bind fun _ _ => h.of_core)
  | imul3 p r rm a => exact .of_sound hf ((h.readRM _ _ _).bind fun _ _ => h.of_core)
  | div p a | idiv p a =>
    exact .of_sound hf ((h.readRM _ _ _).bind fun _ _ => .ite (h.raise hf _ _) h.of_core)
  | daa p | das p => exact .of_ok hf h.of_core
  | aaa p => exact execAaa_kept h hf p
  | aas p => exact execAas_kept h hf p
  | aam p k => exact .of_sound hf (.ite (h.raise hf _ _) h.of_core)
  | aad p k => exact .of_ok hf h.of_core
  -- 42_logic_shift_bit.md
  | and p a | or p a | xor p a => exact .of_sound hf (h.logicWrite _ _ _)
  | test p a => exact execTest_kept h hf p a
  | rol p a n | ror p a n | rcl p a n | rcr p a n | shl p a n | shr p a n | sar p a n =>
    exact .of_sound hf (h.shift _ _ _ _)
  | shld p rm r n | shrd p rm r n => exact .of_sound hf (h.dblShift _ _ _ _)
  | bt p rm k => exact .of_sound hf ((h.readLoc _ _).bind fun _ _ => h.of_core)
  | bts p rm k | btr p rm k | btc p rm k => exact .of_sound hf (h.bitModify _ _ _ _)
  | bsf p r rm | bsr p r rm => exact .of_sound hf ((h.readRM _ _ _).bind fun _ _ => h.of_core)
  | setcc p cc rm => exact .of_sound hf ((h.writeRM _ _ _ _).bind fun _ ht => ht.of_core)
  -- 43_string.md
  | movsb p | movsw p => exact .of_sound hf (h.string _ _ (State.Sound.movsIter _ _))
  | cmpsb p | cmpsw p => exact .of_sound hf (h.string _ _ (State.Sound.cmpsIter _ _))
  | scasb p | scasw p => exact .of_sound hf (h.string _ _ (State.Sound.scasIter _))
  | lodsb p | lodsw p => exact .of_sound hf (h.string _ _ (State.Sound.lodsIter _ _))
  | stosb p | stosw p => exact .of_sound hf (h.string _ _ (State.Sound.stosIter _))
  | insb p | insw p => exact .of_sound hf (h.string _ _ (State.Sound.insIter _))
  | outsb p | outsw p => exact .of_sound hf (h.string _ _ (State.Sound.outsIter _ _))
  -- 44_control_transfer.md
  | jmpRel p a => exact .of_sound hf (h.setIp _)
  | jmpInd p rm => exact .of_sound hf ((h.readRM _ _ _).bind fun _ _ => h.setIp _)
  | jmpFar p off seg => exact .of_sound hf ((h.checkTarget _).bind fun _ _ => h.of_core)
  | jmpFarInd p m =>
    exact .of_sound hf ((h.readFar _ _).bind fun ⟨_, _⟩ _ => (h.checkTarget _).bind fun _ _ => h.of_core)
  | jccShort p cc d | jccNear p cc d => exact .of_sound hf (h.branch _ _ _)
  | jcxz p d => exact .of_sound hf (h.branch _ _ _)
  | loop p d | loope p d | loopne p d => exact .of_sound hf ((h.of_core : s.countCx.Sound q s.fpu).branch _ _ _)
  | callRel p d => exact .of_sound hf (h.callNear _ _)
  | callInd p rm => exact .of_sound hf ((h.readRM _ _ _).bind fun _ _ => h.callNear _ _)
  | callFar p off seg => exact .of_sound hf (h.callFarTo _ _ _)
  | callFarInd p m => exact .of_sound hf ((h.readFar _ _).bind fun ⟨_, _⟩ _ => h.callFarTo _ _ _)
  | ret p n => exact execRet_kept h hf p n
  | retf p n => exact execRetf_kept h hf p n
  | int p v => exact .of_sound hf (h.raise hf _ _)
  | int3 p => exact .of_sound hf (h.raise hf _ _)
  | into p => exact .of_sound hf (.ite (h.raise hf _ _) h.of_core)
  | iret p => exact execIret_kept h hf p
  | enter p size level => exact execEnter_kept h hf p size level
  | leave p => exact execLeave_kept h hf p
  | bound p r m => exact .of_sound hf ((h.linRead _ _).bind fun _ _ => .ite (h.raise hf _ _) h.of_core)
  -- 45_processor_control.md
  | clc p | stc p | cmc p | cld p | std p | cli p | sti p | nop p | wait p => exact .of_ok hf h.of_core
  | hlt p => exact .of_ok hf (h.of_core rfl)
  -- 47_fpu_transfer_arith.md
  | fld p a => exact execFld_kept h p a
  | fild p a => exact execFild_kept h p a
  | fbld p m => exact .of_kept (h.fpuLoad _ m _ fun _ _ => Fpu.loadBcd_cw _ _ _)
  | fst p a => exact execFst_kept h p a
  | fstp p a => exact execFstp_kept h p a
  | fist p a => exact execFist_kept h p a
  | fistp p a => exact execFistp_kept h p a
  | fbstp p m => exact .of_kept (h.fpuStore _ m _ _ _)
  | fadd p a | fsub p a | fsubr p a | fmul p a | fdiv p a | fdivr p a => exact .of_kept (h.fpuArith _ _ _)
  | faddp p k | fsubp p k | fsubrp p k | fmulp p k | fdivp p k | fdivrp p k => exact .of_kept (h.fpuStSt _ _ _ _ _)
  | fiadd p a | fisub p a | fisubr p a | fimul p a | fidiv p a | fidivr p a => exact .of_kept (h.fpuArithInt _ _ _)
  | fsqrt p | fabs p | fchs p | frndint p => exact .of_kept (h.fpuUnary _ _)
  | fxch p k => exact .of_kept (h.fpuReg _ (by simp))
  | fscale p | fxtract p | fprem p | fprem1 p => exact .of_kept (h.fpuReg _ (by simp))
  -- 48_fpu_compare_trans_control.md
  | fcom p a | fcomp p a => exact .of_kept (h.fpuCmp _ _ _)
  | fcompp p | fucompp p => exact .of_kept (h.fpuCmpSt _ _ _ _)
  | fucom p k | fucomp p k => exact .of_kept (h.fpuCmpSt _ _ _ _)
  | ficom p a | ficomp p a => exact .of_kept (h.fpuCmpInt _ _ _)
  | fyl2x p | fyl2xp1 p | fpatan p => exact .of_kept (h.fpuYx _ _)
  | fld1 p | fldl2t p | fldl2e p | fldpi p | fldlg2 p | fldln2 p | fldz p => exact .of_kept (h.fpuConst _ _)
  | ftst p | fxam p | f2xm1 p | fptan p | fsin p | fcos p | fsincos p => exact .of_kept (h.fpuReg _ (by simp))
  | fldcw p m => exact execFldcw_kept h p m
  | fnstcw p m => exact .of_sound hf ((h.writeMemN _ _ _ _).bind fun _ ht => ht.of_core)
  | fnstsw p a => exact execFnstsw_kept h p hf a
  | fnclex p => exact .of_kept (r := .ok _) (h.fpuControl h.cw (Fpu.summed_clear _))
  | fninit p => exact .of_kept (r := .ok _) (h.fpuControl (Fpu.forceCw_init _) (Fpu.summed_init _))
  | fldenv p m => exact execFldenv_kept h p m
  | fnstenv p m => exact execFnstenv_kept h p m
  | frstor p m => exact execFrstor_kept h p m
  | fnsave p m => exact execFnsave_kept h p m
  | fincstp p | fdecstp p | fnop p => exact .of_kept (h.fpuReg _ (by simp))
  | ffree p k => exact .of_kept (h.fpuReg _ (by simp))
  | feni p | fdisi p | fsetpm p => exact .of_ok hf h.of_core

/-! ### The step -/

theorem State.not_faulted_of_alive (h : s.alive = true) : s.run.isFaulted = false := by
  unfold State.alive at h
  cases e : s.run with
  | running | halted | terminated code => rfl
  | faulted r cs ip => simp [e] at h

/-- The single-step trap is taken only while the core is alive, so only where ES and B are right. -/
theorem State.Kept.singleStep (h : s.Kept q) (tf : Bool) : (s.singleStep tf).Kept q := by
  unfold State.singleStep
  split
  · next hc =>
    simp only [Bool.and_eq_true] at hc
    obtain ⟨⟨-, halive⟩, -⟩ := hc
    obtain ⟨hi, rfl⟩ := h
    exact hi.sound.dispatch (hi.summed (State.not_faulted_of_alive halive)) _ _
  · exact h

theorem State.Sound.instruction (h : s.Sound q s.fpu) (hf : s.fpu.Summed) : LeavesKept q s.instruction := by
  have hb : ∀ n, (s.begin n).Sound q s.fpu := fun _ => h.of_core
  unfold State.instruction
  split
  · next i len _ =>
    have he := exec_kept (s := s.begin len) i (hb len) hf
    split
    · next t e => exact .next ((he t e).singleStep _)
    · exact .fault _
    · exact .refused _
  · exact .next ((hb 0).invalidOpcode hf _)
  · exact .next ((hb 0).kept_halt _)
  · exact .next ((hb 0).kept_halt _)

theorem State.Sound.external (h : s.Sound q s.fpu) (hf : s.fpu.Summed) (v : Byte) : (s.external v).Kept q :=
  State.Sound.dispatch h.of_core hf _ _

theorem State.boundary_fpu (s : State) : s.boundary.fpu = s.fpu := by
  unfold State.boundary
  split <;> rfl

theorem State.boundary_sound (h : s.Sound q s.fpu) : s.boundary.Sound q s.boundary.fpu :=
  State.Sound.of_core (f := s.boundary.fpu) (by rwa [s.boundary_fpu])

/-- A step begins in a state with ES and B right: it is enabled only where the run is not Faulted. -/
theorem step_kept (h : s.Inv) : LeavesKept s.par (step s) := by
  have hs := State.boundary_sound (State.Inv.sound h)
  have hf : s.run.isFaulted = false → s.boundary.fpu.Summed := fun hr => by
    rw [s.boundary_fpu]
    exact State.Inv.summed h hr
  unfold step
  cases e : s.run with
  | running =>
    have hf := hf (by rw [e]; rfl)
    unfold State.runStep
    dsimp only
    split
    · exact .next (hs.external hf _)
    · exact hs.instruction hf
  | halted =>
    have hf := hf (by rw [e]; rfl)
    unfold State.haltStep
    dsimp only
    split
    · exact .fault _
    · split
      · exact .next (hs.external hf _)
      · exact .next (hs.kept hf)
  | terminated code | faulted reason cs ip => exact .fault _

/-- Settles O60: a step that goes on begins with the run not Faulted, so with ES and B right; the integer core leaves the FPU as
it is, and an FPU instruction recomputes ES and B at its end or halts before it. -/
theorem invariantStep : Obligations.InvariantStep := fun _ t h e => step_kept h t e

end Sys2Proof.Machine
end

section
/-! The state at launch (O47) and FLAGS (O49). -/

namespace Sys2Proof.Machine

/-- Settles O47: the state at launch is a literal, and the invariant is decided on it. -/
theorem resetState : Obligations.ResetState :=
  ⟨rfl, rfl, rfl, rfl, by decide, rfl, by decide, rfl, rfl, rfl, by decide, by decide⟩

/-- A value written to FLAGS reads back with its fixed bits (10_state.md R49, R50). -/
theorem Flags.image_ofImage (v : Word) : (Flags.ofImage v).image = (v &&& 0x0FD5) ||| 0x0002 := by
  apply BitVec.eq_of_getLsbD_eq
  intro i hi
  simp only [Flags.image, Flags.ofImage, BitVec.getLsbD_append, BitVec.getLsbD_ofBool, BitVec.getLsbD_or,
    BitVec.getLsbD_and]
  interval_cases i <;> simp

/-- Where the nine flags stand: the bits that a write of the image takes them from. -/
theorem Flags.image_bits (f : Flags) :
    [f.image.getLsbD 0, f.image.getLsbD 2, f.image.getLsbD 4, f.image.getLsbD 6, f.image.getLsbD 7, f.image.getLsbD 8,
      f.image.getLsbD 9, f.image.getLsbD 10, f.image.getLsbD 11] =
    [f.cf, f.pf, f.af, f.zf, f.sf, f.tf, f.ifl, f.df, f.ofl] :=
  congrArg (fun g : Flags => [g.cf, g.pf, g.af, g.zf, g.sf, g.tf, g.ifl, g.df, g.ofl]) f.ofImage_image

/-- The flags of the low byte of a written value (SAHF, 40_data_transfer.md R220). -/
theorem Flags.ofImage_append (a b : Byte) :
    Flags.ofImage (a ++ b) =
      { Flags.ofImage (a ++ 0#8) with
        cf := b.getLsbD 0, pf := b.getLsbD 2, af := b.getLsbD 4, zf := b.getLsbD 6, sf := b.getLsbD 7 } := by
  simp only [Flags.ofImage, BitVec.getLsbD_append]
  rfl

theorem execLahf_writes (p : Prefixes) (s : State) :
    ∃ t, exec (.lahf p) s = .next t ∧ s.Commits t ∧ t.flags = s.flags ∧
      s.Writes t p .b8 (.reg rAH) (s.flags.image.extractLsb' 0 8) :=
  ⟨_, rfl, rfl, rfl, by rw [← BitVec.setWidth_eq_extractLsb' (by decide)]; exact ⟨rfl, rfl⟩⟩

theorem execSahf_loads (p : Prefixes) (s : State) :
    ∃ t, exec (.sahf p) s = .next t ∧ s.Commits t ∧ t.gpr = s.gpr ∧ t.mem = s.mem ∧
      t.flags = { Flags.ofImage (s.flags.image.extractLsb' 8 8 ++ s.r8 rAH) with
        ofl := s.flags.ofl, df := s.flags.df, ifl := s.flags.ifl, tf := s.flags.tf } :=
  ⟨_, rfl, rfl, rfl, rfl, by rw [Flags.ofImage_append]; rfl⟩

/-- The odd conditions negate the even ones (10_state.md R62). -/
theorem Flags.cond_odd (f : Flags) (k : Fin 8) :
    f.cond (BitVec.ofNat 4 (2 * k.val + 1)) = !f.cond (BitVec.ofNat 4 (2 * k.val)) := by
  fin_cases k <;> simp [Flags.cond] <;> cases f.sf <;> simp

/-- Settles O49, from the laws of the image, of the conditions and of the two instructions. -/
theorem flagsImage : Obligations.FlagsImage := by
  refine ⟨Flags.image_ofImage, Flags.ofImage_image, Flags.image_bits, fun f k => ?_,
    fun p s => ⟨execLahf_writes p s, execSahf_loads p s⟩⟩
  intro base
  have even : f.cond (BitVec.ofNat 4 (2 * k.val)) = base := by fin_cases k <;> rfl
  exact ⟨even, by rw [f.cond_odd, even]⟩

end Sys2Proof.Machine
end

section
/-! Memory: a write is read back, and an access beyond P_MEMSIZE halts (O50). -/

namespace Sys2Proof.Machine

/-- The bytes after the first one of a backed range. -/
theorem State.Backed.tail {s : State} {a n : Nat} (h : s.Backed a (n + 1)) : s.Backed (a + 1) n := fun i hi => by
  rw [Nat.add_right_comm, Nat.add_assoc]
  exact h (i + 1) (Nat.succ_lt_succ hi)

/-- The bytes after the first one hold the number without its lowest byte. -/
theorem State.Holds.tail {t : State} {a n v : Nat} (h : t.Holds a (n + 1) v) : t.Holds (a + 1) n (v / 256) :=
  fun i hi => by
    rw [Nat.add_right_comm, Nat.add_assoc, Nat.div_div_eq_div_mul, ← Nat.pow_succ']
    exact h (i + 1) (Nat.succ_lt_succ hi)

/-- Bytes that hold a number make it up again modulo 2^(8n) (20_memory.md R105, R108). -/
theorem State.Holds.bytesAt_eq {t : State} {a n v : Nat} (h : t.Holds a n v) : t.bytesAt a n = v % 256 ^ n := by
  induction n generalizing a v with
  | zero => exact (Nat.mod_one v).symm
  | succ n ih =>
    have first : (t.peek (a % t.par.ring)).toNat = v % 256 := by
      have := h 0 n.succ_pos
      rw [Nat.add_zero, Nat.pow_zero, Nat.div_one] at this
      rw [this, BitVec.toNat_ofNat]
    rw [State.bytesAt, first, ih h.tail, Nat.pow_succ', Nat.mod_mul]

/-- A backed range that holds a number reads as that number modulo 2^(8n). -/
theorem State.Holds.linRead_eq {t : State} {a n v : Nat} (h : t.Holds a n v) (hb : t.Backed a n) :
    t.linRead a n = .ok (v % 256 ^ n) := by
  rw [t.linRead_backed a n hb, h.bytesAt_eq]

/-- A read halts at the first byte that memory does not back (20_memory.md R103, R106). -/
theorem State.linRead_hole (s : State) (a k m : Nat) (hb : s.Backed a k)
    (hole : s.par.memSize ≤ (a + k) % s.par.ring) :
    s.linRead a (k + m + 1) = haltWith s (.addressFault ((a + k) % s.par.ring)) := by
  induction k generalizing a with
  | zero =>
    rw [Nat.add_zero a] at hole ⊢
    rw [State.linRead, if_neg (Nat.not_lt.mpr hole)]
  | succ k ih =>
    have first : a % s.par.ring < s.par.memSize := hb 0 k.succ_pos
    rw [← Nat.add_assoc, Nat.add_right_comm a] at hole ⊢
    rw [Nat.add_right_comm k, State.linRead, if_pos first, ih (a + 1) hb.tail hole]
    rfl

/-- A write in two parts: the first `k` bytes are stored before the others are tried (20_memory.md R104, R107). -/
theorem State.linWrite_add (s : State) (a k m v : Nat) :
    s.linWrite a (k + m) v = s.linWrite a k v >>= fun t => t.linWrite (a + k) m (v / 256 ^ k) := by
  induction k generalizing s a v with
  | zero => rw [Nat.zero_add, Nat.pow_zero, Nat.div_one]; rfl
  | succ k ih =>
    rw [Nat.add_right_comm, State.linWrite, State.linWrite]
    split
    · rw [ih, Nat.add_right_comm, Nat.add_assoc a, Nat.pow_succ', Nat.div_div_eq_div_mul]
    · rfl

/-- A write halts at the first byte that memory does not back, in the state that the bytes before it leave. -/
theorem State.linWrite_hole {s t : State} {a k v : Nat} (m : Nat) (h : s.linWrite a k v = .ok t)
    (hole : t.par.memSize ≤ (a + k) % t.par.ring) :
    s.linWrite a (k + m + 1) v = haltWith t (.addressFault ((a + k) % t.par.ring)) := by
  rw [Nat.add_assoc, State.linWrite_add, h, Exec.ok_bind, State.linWrite, if_neg (Nat.not_lt.mpr hole)]

/-- A completed write keeps the canonical form. -/
theorem State.linWrite_ok_wf {s t : State} {a n v : Nat} (h : s.linWrite a n v = .ok t) (hs : Memory.wf s.mem) :
    Memory.wf t.mem := by
  have := s.linWrite_wf a n v hs
  rwa [h] at this

/-- Settles O50: what a write stores (`State.linWrite_stores`) is what a read makes up again, and an access that meets an
unbacked byte at `k` is one of `k` backed bytes followed by one that halts at once. -/
theorem memoryReadBack : Obligations.MemoryReadBack := by
  intro s a n v hn
  refine ⟨fun hb => ?_, fun k hk hb hole => ?_⟩
  · obtain ⟨m, hw, holds, outside⟩ := s.linWrite_stores a n v hb hn
    exact ⟨{ s with mem := m }, hw, rfl, ⟨holds, outside⟩, holds.linRead_eq hb, State.linWrite_ok_wf hw⟩
  · obtain ⟨m, hw, hst⟩ := s.linWrite_stores a k v hb (hk.le.trans hn)
    obtain ⟨j, rfl⟩ := Nat.exists_eq_add_of_lt hk
    exact ⟨s.linRead_hole a k j hb hole, { s with mem := m }, State.linWrite_hole j hw hole, rfl, hst⟩

end Sys2Proof.Machine
end

section
/-! Decode of encode (O51), and words that decode (O52). A parser reads a list of bytes as a value when it answers with that
value and leaves what follows the list; the rules for `>>=` then take an encoding apart along the parser of its opcode. -/

namespace Sys2Proof.Laws.RoundTrip

/-! ### Parsers that read what an encoder wrote -/

/-- The parser reads the bytes as the value, whatever follows them. -/
def Reads {α : Type} (q : Parser α) (l : List Byte) (a : α) : Prop := ∀ rest, q (l ++ rest) = .ok (a, rest)

section Rules

variable {α β : Type} {q : Parser α} {f : α → Parser β} {l m : List Byte} {a : α} {b : β}

theorem Reads.done : Reads (pure a) [] a := fun _ => rfl

theorem Reads.bind (hq : Reads q l a) (hf : Reads (f a) m b) : Reads (q >>= f) (l ++ m) b := fun rest => by
  show Except.bind (q (l ++ m ++ rest)) (fun x => f x.1 x.2) = _
  rw [List.append_assoc, hq]
  exact hf rest

/-- The rule for `>>=` where the rest of the parser reads nothing. -/
theorem Reads.last (hq : Reads q l a) (hf : Reads (f a) [] b) : Reads (q >>= f) l b :=
  l.append_nil ▸ hq.bind hf

theorem Reads.byte {g : Byte → Parser β} {x : Byte} (hg : Reads (g x) l b) : Reads (Parser.byte >>= g) (x :: l) b := hg

theorem reads_orInvalid {o : Option α} (h : o = some a) : Reads (orInvalid o) [] a := h ▸ Reads.done

end Rules

/-! ### Immediates -/

theorem halves {n : Nat} (x : BitVec (n + n)) : x.extractLsb' n n ++ x.extractLsb' 0 n = x :=
  (BitVec.extractLsb'_append_extractLsb'_eq_extractLsb' (Nat.zero_add n).symm).trans BitVec.extractLsb'_eq_self

theorem reads_word (w : Word) : Reads Parser.word (wordBytes w) w := fun rest =>
  congrArg (fun v => Except.ok (v, rest)) (halves (n := 8) w)

theorem reads_dword (d : DWord) : Reads Parser.dword (dwordBytes d) d :=
  (reads_word _).bind ((reads_word _).last fun rest => congrArg (fun v => Except.ok (v, rest)) (halves (n := 16) d))

theorem reads_iz {p : Prefixes} {i : DWord} (h : izOk p i = true) : Reads (Parser.iz p) (izBytes p i) i := by
  unfold Parser.iz izBytes
  split
  · exact reads_dword i
  · next hp =>
    have small : i.toNat < 65536 := by simpa [izOk, hp] using h
    have same : (i.setWidth 16).setWidth 32 = i := by bv_omega
    exact (reads_word _).last fun rest => congrArg (fun v => Except.ok (v, rest)) same

/-! ### ModRM operands -/

@[simp] theorem modOf_modRMByte (m : BitVec 2) (r rm : BitVec 3) : modOf (modRMByte m r rm) = m := by
  revert m r rm; decide

@[simp] theorem regOf_modRMByte (m : BitVec 2) (r rm : BitVec 3) : regOf (modRMByte m r rm) = r := by
  revert m r rm; decide

@[simp] theorem rmOf_modRMByte (m : BitVec 2) (r rm : BitVec 3) : rmOf (modRMByte m r rm) = rm := by
  revert m r rm; decide

/-- A memory operand is a ModRM byte with its register field and a mod other than 11b, and the displacement of that byte. -/
theorem memBytes_eq (k : BitVec 3) {m : Mem} (h : m.ok = true) :
    ∃ b tail, memBytes k m = b :: tail ∧ regOf b = k ∧ modOf b ≠ 3 ∧ Reads (parseRM b) tail (.mem m) := by
  cases m <;> refine ⟨_, _, rfl, regOf_modRMByte .., by simp, ?_⟩ <;> rw [parseRM, modOf_modRMByte, rmOf_modRMByte]
  case indexed rm =>
    have hrm : rm ≠ 6 := by simpa [Mem.ok] using h
    show Reads (if rm = 6 then _ else _) _ _
    rw [if_neg hrm]
    exact .done
  case indexed8 rm d => exact .byte .done
  case indexed16 rm d => exact (reads_word d).last .done
  case direct d => exact (reads_word d).last .done

theorem rmBytes_eq (k : BitVec 3) {rm : RM} (h : rm.ok = true) :
    ∃ b tail, rmBytes k rm = b :: tail ∧ regOf b = k ∧ Reads (parseRM b) tail rm := by
  cases rm with
  | reg r =>
    refine ⟨_, _, rfl, regOf_modRMByte .., ?_⟩
    simpa [parseRM] using Reads.done
  | mem m =>
    obtain ⟨b, tail, hb, hreg, -, hrm⟩ := memBytes_eq k h
    exact ⟨b, tail, hb, hreg, hrm⟩

section ModRM

variable {α : Type} {g : Byte → Parser α} {k : BitVec 3} {l : List Byte} {a : α}

/-- A parser that reads a ModRM byte itself: it may look at the register field before it reads the operand. -/
theorem Reads.rm {rm : RM} (h : rm.ok = true)
    (hg : ∀ b tail, regOf b = k → Reads (parseRM b) tail rm → Reads (g b) (tail ++ l) a) :
    Reads (Parser.byte >>= g) (rmBytes k rm ++ l) a := by
  obtain ⟨b, tail, hb, hreg, hrm⟩ := rmBytes_eq k h
  rw [hb]
  exact .byte (hg b tail hreg hrm)

theorem Reads.rmLast {rm : RM} (h : rm.ok = true)
    (hg : ∀ b tail, regOf b = k → Reads (parseRM b) tail rm → Reads (g b) tail a) :
    Reads (Parser.byte >>= g) (rmBytes k rm) a := by
  obtain ⟨b, tail, hb, hreg, hrm⟩ := rmBytes_eq k h
  rw [hb]
  exact .byte (hg b tail hreg hrm)

theorem Reads.memLast {m : Mem} (h : m.ok = true)
    (hg : ∀ b tail, regOf b = k → modOf b ≠ 3 → Reads (parseMem b) tail m → Reads (g b) tail a) :
    Reads (Parser.byte >>= g) (memBytes k m) a := by
  obtain ⟨b, tail, hb, hreg, hmod, hrm⟩ := memBytes_eq k h
  rw [hb]
  exact .byte (hg b tail hreg hmod (hrm.last .done))

end ModRM

theorem reads_modRM {k : BitVec 3} {rm : RM} (h : rm.ok = true) : Reads parseModRM (rmBytes k rm) (k, rm) :=
  .rmLast h fun _ _ hreg hrm => hrm.last (hreg ▸ .done)

theorem reads_modMem {k : BitVec 3} {m : Mem} (h : m.ok = true) : Reads parseModMem (memBytes k m) (k, m) :=
  .memLast h fun _ _ hreg _ hm => hm.last (hreg ▸ .done)

/-! ### The opcode -/

/-- What follows the prefixes: the opcode, and what its row of the map reads. -/
def parseBody (p : Prefixes) : Parser Instr := Parser.byte >>= parseOpcode p

theorem Reads.opcode {p : Prefixes} {op : Byte} {l : List Byte} {i : Instr} (h : Reads (parseOpcode p op) l i) :
    Reads (parseBody p) (op :: l) i := h

/-- An opcode of two bytes, whose row of the two-byte map is `q`. -/
theorem Reads.twoByte {p : Prefixes} {op : Byte} {q : Parser Instr} {l : List Byte} {i : Instr}
    (row : ∀ l, parseTwoByte p (op :: l) = q l) (h : Reads q l i) : Reads (parseBody p) (0x0F :: op :: l) i :=
  fun rest => (row _).trans (h rest)

section Rows

variable (p : Prefixes) (r : BitVec 3)

/-! The rows of the one-byte map whose opcodes hold a register or a condition (30_encoding.md R158). -/

theorem parseOpcode_inc : parseOpcode p (0x08#5 ++ r) = pure (.inc p (.reg r)) := by
  rw [parseOpcode, BitVec.extractLsb'_append_eq_left, BitVec.extractLsb'_append_eq_right]
  rfl

theorem parseOpcode_dec : parseOpcode p (0x09#5 ++ r) = pure (.dec p (.reg r)) := by
  rw [parseOpcode, BitVec.extractLsb'_append_eq_left, BitVec.extractLsb'_append_eq_right]
  rfl

theorem parseOpcode_push : parseOpcode p (0x0A#5 ++ r) = pure (.push p (.reg r)) := by
  rw [parseOpcode, BitVec.extractLsb'_append_eq_left, BitVec.extractLsb'_append_eq_right]
  rfl

theorem parseOpcode_pop : parseOpcode p (0x0B#5 ++ r) = pure (.pop p (.reg r)) := by
  rw [parseOpcode, BitVec.extractLsb'_append_eq_left, BitVec.extractLsb'_append_eq_right]
  rfl

theorem parseOpcode_xchg (h : r ≠ 0) : parseOpcode p (0x12#5 ++ r) = pure (.xchg p (.eaxGv r)) := by
  rw [parseOpcode, BitVec.extractLsb'_append_eq_left, BitVec.extractLsb'_append_eq_right]
  exact congrArg pure (if_neg h)

theorem parseOpcode_movIb :
    parseOpcode p (0x16#5 ++ r) = Parser.byte >>= fun i => pure (.mov p (.gbIb r i)) := by
  rw [parseOpcode, BitVec.extractLsb'_append_eq_left, BitVec.extractLsb'_append_eq_right]
  rfl

theorem parseOpcode_movIz :
    parseOpcode p (0x17#5 ++ r) = Parser.iz p >>= fun i => pure (.mov p (.gvIz r i)) := by
  rw [parseOpcode, BitVec.extractLsb'_append_eq_left, BitVec.extractLsb'_append_eq_right]
  rfl

theorem parseOpcode_jcc (cc : BitVec 4) :
    parseOpcode p (7#4 ++ cc) = Parser.byte >>= fun d => pure (.jccShort p cc d) := by
  have row : (7#4 ++ cc).extractLsb' 3 5 = 0x0E#5 ∨ (7#4 ++ cc).extractLsb' 3 5 = 0x0F#5 := by revert cc; decide
  rcases row with row | row <;> rw [parseOpcode, row, BitVec.extractLsb'_append_eq_right] <;> rfl

/-- The ALU block: the instruction stands in bits 5..3, and the form in bits 2..0. -/
theorem parseOpcode_alu (k : BitVec 3) (h : r.toNat < 6) :
    parseOpcode p (0#2 ++ k ++ r) = parseAluForm p r.toNat >>= fun f => pure (aluInstr k p f) := by
  have instr : (0#2 ++ k ++ r).extractLsb' 3 3 = k := by revert k r; decide
  rw [parseOpcode, BitVec.extractLsb'_append_eq_left, BitVec.extractLsb'_append_eq_right, instr]
  fin_cases k <;> exact if_pos h

end Rows

/-! ### Forms -/

section Forms

variable {p : Prefixes} {k : BitVec 3} {i : Instr}

theorem reads_aluRow {lo : BitVec 3} {l : List Byte} {f : AluForm} (hlo : lo.toNat < 6)
    (h : Reads (parseAluForm p lo.toNat) l f) : Reads (parseBody p) ((0#2 ++ k ++ lo) :: l) (aluInstr k p f) :=
  .opcode (parseOpcode_alu p lo k hlo ▸ h.last .done)

theorem reads_alu {f : AluForm} (h : f.ok p = true) : Reads (parseBody p) (aluFormBytes k p f) (aluInstr k p f) := by
  cases f with
  | ebGb rm r => exact reads_aluRow (lo := 0) (by decide) ((reads_modRM h).last .done)
  | evGv rm r => exact reads_aluRow (lo := 1) (by decide) ((reads_modRM h).last .done)
  | gbEb r rm => exact reads_aluRow (lo := 2) (by decide) ((reads_modRM h).last .done)
  | gvEv r rm => exact reads_aluRow (lo := 3) (by decide) ((reads_modRM h).last .done)
  | alIb i => exact reads_aluRow (lo := 4) (by decide) (.byte .done)
  | eaxIz i => exact reads_aluRow (lo := 5) (by decide) ((reads_iz h).last .done)
  | ebIb rm i | ebIb82 rm i | evIbs rm i => exact .opcode ((reads_modRM h).bind (.byte .done))
  | evIz rm i =>
    obtain ⟨hrm, hi⟩ := Bool.and_eq_true_iff.mp h
    exact .opcode ((reads_modRM hrm).bind ((reads_iz hi).last .done))

theorem reads_mov {f : MovForm} (h : f.ok p = true) : Reads (parseBody p) (movFormBytes p f) (.mov p f) := by
  cases f with
  | ebGb rm r | evGv rm r | gbEb r rm | gvEv r rm => exact .opcode ((reads_modRM h).last .done)
  | gbIb r i => exact .opcode (parseOpcode_movIb p r ▸ .byte .done)
  | gvIz r i => exact .opcode (parseOpcode_movIz p r ▸ (reads_iz h).last .done)
  | ebIb rm i =>
    refine .opcode (.rm h fun b tail hreg hrm => ?_)
    rw [if_pos hreg]
    exact hrm.bind (.byte .done)
  | evIz rm i =>
    obtain ⟨hrm, hi⟩ := Bool.and_eq_true_iff.mp h
    refine .opcode (.rm hrm fun b tail hreg hrm => ?_)
    rw [if_pos hreg]
    exact hrm.bind ((reads_iz hi).last .done)

theorem reads_movMoffs (f : MoffsForm) : Reads (parseBody p) (moffsFormBytes f) (.movMoffs p f) := by
  cases f with
  | alOb o | eaxOv o | obAl o | ovEax o => exact .opcode ((reads_word o).last .done)

theorem reads_parseSeg (sr : SegReg) : Reads (parseSeg (segNum sr)) [] sr := by cases sr <;> exact .done

theorem reads_movFromSeg {rm : RM} (h : rm.ok = true) (sr : SegReg) :
    Reads (parseBody p) (0x8C :: rmBytes (segNum sr) rm) (.movFromSeg p rm sr) := by
  refine .opcode (.rmLast h fun b tail hreg hrm => ?_)
  rw [hreg]
  exact (reads_parseSeg sr).bind (hrm.last .done)

theorem reads_movToSeg {rm : RM} (h : rm.ok = true) {sr : SegReg} (hsr : sr ≠ .cs) :
    Reads (parseBody p) (0x8E :: rmBytes (segNum sr) rm) (.movToSeg p sr rm) := by
  refine .opcode (.rmLast h fun b tail hreg hrm => ?_)
  rw [hreg]
  refine (reads_parseSeg sr).bind ?_
  rw [if_neg hsr]
  exact hrm.last .done

theorem reads_xchg {f : XchgForm} (h : f.ok = true) : Reads (parseBody p) (xchgFormBytes f) (.xchg p f) := by
  cases f with
  | ebGb rm r | evGv rm r => exact .opcode ((reads_modRM h).last .done)
  | eaxGv r => exact .opcode (parseOpcode_xchg p r (by simpa [XchgForm.ok] using h) ▸ .done)

theorem reads_push {f : StackForm} (h : f.ok = true) : Reads (parseBody p) (pushFormBytes f) (.push p f) := by
  cases f with
  | reg r => exact .opcode (parseOpcode_push p r ▸ .done)
  | rm e =>
    refine .opcode (.rmLast h fun b tail hreg hrm => ?_)
    rw [hreg]
    exact hrm.last .done

theorem reads_pop {f : StackForm} (h : f.ok = true) : Reads (parseBody p) (popFormBytes f) (.pop p f) := by
  cases f with
  | reg r => exact .opcode (parseOpcode_pop p r ▸ .done)
  | rm e =>
    refine .opcode (.rmLast h fun b tail hreg hrm => ?_)
    rw [if_pos hreg]
    exact hrm.last .done

theorem reads_pushImm {f : ImmForm} (h : f.ok p = true) :
    Reads (parseBody p) (immFormBytes 0x68 0x6A [] p f) (.pushImm p f) := by
  cases f with
  | iz i => exact .opcode ((reads_iz h).last .done)
  | ibs i => exact .opcode (.byte .done)

theorem reads_imul3 {rm : RM} {f : ImmForm} (hrm : rm.ok = true) (hf : f.ok p = true) :
    Reads (parseBody p) (immFormBytes 0x69 0x6B (rmBytes k rm) p f) (.imul3 p k rm f) := by
  cases f with
  | iz i => exact .opcode ((reads_modRM hrm).bind ((reads_iz hf).last .done))
  | ibs i => exact .opcode ((reads_modRM hrm).bind (.byte .done))

theorem reads_inc {f : IncForm} (h : f.ok = true) : Reads (parseBody p) (incFormBytes 0 0x08 f) (.inc p f) := by
  cases f with
  | eb rm | ev rm =>
    refine .opcode (.rmLast h fun b tail hreg hrm => ?_)
    rw [hreg]
    exact hrm.last .done
  | reg r => exact .opcode (parseOpcode_inc p r ▸ .done)

theorem reads_dec {f : IncForm} (h : f.ok = true) : Reads (parseBody p) (incFormBytes 1 0x09 f) (.dec p f) := by
  cases f with
  | eb rm | ev rm =>
    refine .opcode (.rmLast h fun b tail hreg hrm => ?_)
    rw [hreg]
    exact hrm.last .done
  | reg r => exact .opcode (parseOpcode_dec p r ▸ .done)

theorem reads_test {f : TestForm} (h : f.ok p = true) : Reads (parseBody p) (testFormBytes p f) (.test p f) := by
  cases f with
  | ebGb rm r | evGv rm r => exact .opcode ((reads_modRM h).last .done)
  | alIb i => exact .opcode (.byte .done)
  | eaxIz i => exact .opcode ((reads_iz h).last .done)
  | ebIb rm i =>
    refine .opcode (.rm h fun b tail hreg hrm => ?_)
    rw [hreg]
    exact hrm.bind (.byte .done)
  | evIz rm i =>
    obtain ⟨hrm, hi⟩ := Bool.and_eq_true_iff.mp h
    refine .opcode (.rm hrm fun b tail hreg hrm => ?_)
    rw [hreg]
    exact hrm.bind ((reads_iz hi).last .done)

/-- Group 3 without TEST: the members 2 to 7. -/
theorem reads_group3 {f : EForm} (h : f.ok = true) (hi : group3Instr k p f = some i) :
    Reads (parseBody p) (group3Bytes k f) i := by
  have row : ∀ wide rm, rm.ok = true → group3Instr k p (eForm wide rm) = some i →
      Reads (parseGroup3 p wide) (rmBytes k rm) i := fun wide rm h hi => .rmLast h fun b tail hreg hrm => by
    rw [hreg]
    split
    · next h0 => simp [group3Instr, h0] at hi
    · next h1 => simp [group3Instr, h1] at hi
    · exact hrm.last (reads_orInvalid hi)
  cases f with
  | eb rm => exact .opcode (row false rm h hi)
  | ev rm => exact .opcode (row true rm h hi)

/-- Group 2 with its three counts. -/
theorem reads_group2 {f : EForm} {n : ShiftCount} (h : f.ok = true) (hk : k ≠ 6) (hi : shiftInstr k p f n = some i) :
    Reads (parseBody p) (shiftBytes k f n) i := by
  have fixed : ∀ wide rm n, rm.ok = true → shiftInstr k p (eForm wide rm) n = some i →
      Reads (parseGroup2 p wide (some n)) (rmBytes k rm) i := fun wide rm n h hi => .rmLast h fun b tail hreg hrm => by
    rw [hreg, if_neg hk]
    exact hrm.last (reads_orInvalid hi)
  have imm : ∀ wide rm c, rm.ok = true → shiftInstr k p (eForm wide rm) (.imm c) = some i →
      Reads (parseGroup2 p wide none) (rmBytes k rm ++ [c]) i := fun wide rm c h hi => .rm h fun b tail hreg hrm => by
    rw [hreg, if_neg hk]
    exact hrm.bind (.byte (reads_orInvalid hi))
  cases f with
  | eb rm =>
    cases n with
    | one => exact .opcode (fixed false rm .one h hi)
    | cl => exact .opcode (fixed false rm .cl h hi)
    | imm c => exact .opcode (imm false rm c h hi)
  | ev rm =>
    cases n with
    | one => exact .opcode (fixed true rm .one h hi)
    | cl => exact .opcode (fixed true rm .cl h hi)
    | imm c => exact .opcode (imm true rm c h hi)

/-- Group 8: a bit test with an immediate index. -/
theorem reads_group8 {rm : RM} {c : Byte} (h : rm.ok = true) (hk : ¬ k.toNat < 4) (hi : bitInstr k p rm (.imm c) = some i) :
    Reads (parseBody p) ([0x0F, 0xBA] ++ rmBytes k rm ++ [c]) i := by
  refine .opcode (.byte (.rm h fun b tail hreg hrm => ?_))
  rw [hreg, if_neg hk]
  exact hrm.bind (.byte (reads_orInvalid hi))

/-- A bit test: a register index has a row of its own, an immediate one is a member of group 8. -/
theorem reads_bit {op : Byte} {mk : RM → BitIndex → Instr} {rm : RM} {x : BitIndex} (h : rm.ok = true)
    (row : ∀ l, parseTwoByte p (op :: l) = (parseModRM >>= fun y => pure (mk y.2 (.reg y.1))) l)
    (hk : ¬ k.toNat < 4) (member : ∀ c, bitInstr k p rm (.imm c) = some (mk rm (.imm c))) :
    Reads (parseBody p) (bitBytes op k rm x) (mk rm x) := by
  cases x with
  | reg r => exact .twoByte row ((reads_modRM h).last .done)
  | imm c => exact reads_group8 h hk (member c)

/-- SHLD and SHRD. -/
theorem reads_dbl {opImm opCl : Byte} {mk : RM → BitVec 3 → DblCount → Instr} {rm : RM} {r : BitVec 3} {n : DblCount}
    (h : rm.ok = true)
    (imm : ∀ l, parseTwoByte p (opImm :: l) =
      (parseModRM >>= fun y => Parser.byte >>= fun c => pure (mk y.2 y.1 (.imm c))) l)
    (cl : ∀ l, parseTwoByte p (opCl :: l) = (parseModRM >>= fun y => pure (mk y.2 y.1 .cl)) l) :
    Reads (parseBody p) (dblBytes opImm opCl rm r n) (mk rm r n) := by
  cases n with
  | imm c => exact .twoByte imm ((reads_modRM h).bind (.byte .done))
  | cl => exact .twoByte cl ((reads_modRM h).last .done)

/-! The rows of the two-byte map that hold a condition (30_encoding.md R159). -/

theorem not_systemOp_cc (cc : BitVec 4) : systemOp (9#4 ++ cc) = false ∧ systemOp (8#4 ++ cc) = false := by
  revert cc; decide

theorem reads_setcc {rm : RM} {cc : BitVec 4} (h : rm.ok = true) :
    Reads (parseBody p) ([0x0F, 9#4 ++ cc] ++ rmBytes 0 rm) (.setcc p cc rm) := by
  refine .opcode (.byte (g := _) ?_)
  rw [(not_systemOp_cc cc).1, BitVec.extractLsb'_append_eq_left, BitVec.extractLsb'_append_eq_right]
  exact (reads_modRM h).last .done

theorem reads_jccNear {d : DWord} {cc : BitVec 4} (h : izOk p d = true) :
    Reads (parseBody p) ([0x0F, 8#4 ++ cc] ++ izBytes p d) (.jccNear p cc d) := by
  refine .opcode (.byte (g := _) ?_)
  rw [(not_systemOp_cc cc).2, BitVec.extractLsb'_append_eq_left, BitVec.extractLsb'_append_eq_right]
  exact (reads_iz h).last .done

/-! ### The FPU maps -/

/-- Whether a cell of the memory map names an instruction does not depend on the address. -/
theorem fpuMemInstr_isSome (esc reg : Nat) (m m' : Mem) :
    (fpuMemInstr esc reg p m).isSome = (fpuMemInstr esc reg p m').isSome := by
  unfold fpuMemInstr
  split <;> rfl

theorem reads_fpuMem {esc : Nat} {m : Mem} (h : m.ok = true) (cell : fpuMemInstr esc k.toNat p m = some i) :
    Reads (parseFpu p esc) (memBytes k m) i := by
  refine .memLast h fun b tail hreg hmod hm => ?_
  have named := fpuMemInstr_isSome (p := p) esc k.toNat (.direct 0) m
  rw [cell] at named
  obtain ⟨j, hj⟩ := Option.isSome_iff_exists.mp named
  rw [if_neg hmod, hreg, hj]
  exact hm.last (reads_orInvalid cell)

/-- A cell of the register map that takes every ST(i). -/
theorem reads_fpuSt {esc : Nat} {j : BitVec 3} (cell : fpuStInstr esc k.toNat p j = some i) :
    Reads (parseFpu p esc) [modRMByte 3 k j] i := by
  refine .byte ?_
  rw [modOf_modRMByte, regOf_modRMByte, rmOf_modRMByte, if_pos rfl, cell]
  exact .done

theorem reads_fArith {kRev : BitVec 3} {mk : FArith → Instr} {f : FArith} (h : f.ok = true)
    (m32 : ∀ m, fpuMemInstr 0 k.toNat p m = some (mk (.m32 m)))
    (m64 : ∀ m, fpuMemInstr 4 k.toNat p m = some (mk (.m64 m)))
    (st0 : ∀ j, fpuStInstr 0 k.toNat p j = some (mk (.st0 j)))
    (sti : ∀ j, fpuStInstr 4 kRev.toNat p j = some (mk (.sti j))) :
    Reads (parseBody p) (fArithBytes k kRev f) (mk f) := by
  cases f with
  | m32 m => exact .opcode (reads_fpuMem h (m32 m))
  | m64 m => exact .opcode (reads_fpuMem h (m64 m))
  | st0 j => exact .opcode (reads_fpuSt (st0 j))
  | sti j => exact .opcode (reads_fpuSt (sti j))

theorem reads_fCmp {mk : FCmp → Instr} {f : FCmp} (h : f.ok = true)
    (m32 : ∀ m, fpuMemInstr 0 k.toNat p m = some (mk (.m32 m)))
    (m64 : ∀ m, fpuMemInstr 4 k.toNat p m = some (mk (.m64 m)))
    (st : ∀ j, fpuStInstr 0 k.toNat p j = some (mk (.st j))) : Reads (parseBody p) (fCmpBytes k f) (mk f) := by
  cases f with
  | m32 m => exact .opcode (reads_fpuMem h (m32 m))
  | m64 m => exact .opcode (reads_fpuMem h (m64 m))
  | st j => exact .opcode (reads_fpuSt (st j))

/-- Arithmetic and comparison with a memory integer. -/
theorem reads_fInt {mk : FInt → Instr} {f : FInt} (h : f.ok = true)
    (m16 : ∀ m, fpuMemInstr 6 k.toNat p m = some (mk (.m16 m)))
    (m32 : ∀ m, fpuMemInstr 2 k.toNat p m = some (mk (.m32 m))) :
    Reads (parseBody p) (fIntBytes 0xDA 0xDE k f) (mk f) := by
  cases f with
  | m16 m => exact .opcode (reads_fpuMem h (m16 m))
  | m32 m => exact .opcode (reads_fpuMem h (m32 m))

theorem reads_fist {f : FInt} (h : f.ok = true) : Reads (parseBody p) (fIntBytes 0xDB 0xDF 2 f) (.fist p f) := by
  cases f with
  | m16 m | m32 m => exact .opcode (reads_fpuMem h rfl)

theorem reads_fild {f : FInt3} (h : f.ok = true) : Reads (parseBody p) (fInt3Bytes 0 0 5 f) (.fild p f) := by
  cases f with
  | m16 m | m32 m | m64 m => exact .opcode (reads_fpuMem h rfl)

theorem reads_fistp {f : FInt3} (h : f.ok = true) : Reads (parseBody p) (fInt3Bytes 3 3 7 f) (.fistp p f) := by
  cases f with
  | m16 m | m32 m | m64 m => exact .opcode (reads_fpuMem h rfl)

theorem reads_fld {f : FLoad} (h : f.ok = true) : Reads (parseBody p) (fLoadBytes f) (.fld p f) := by
  cases f with
  | m32 m | m64 m | m80 m => exact .opcode (reads_fpuMem h rfl)
  | st j => exact .opcode (reads_fpuSt rfl)

theorem reads_fst {f : FStore} (h : f.ok = true) : Reads (parseBody p) (fStoreBytes f) (.fst p f) := by
  cases f with
  | m32 m | m64 m => exact .opcode (reads_fpuMem h rfl)
  | st j => exact .opcode (reads_fpuSt rfl)

theorem reads_fstp {f : FStoreP} (h : f.ok = true) : Reads (parseBody p) (fStorePBytes f) (.fstp p f) := by
  cases f with
  | m32 m | m64 m | m80 m => exact .opcode (reads_fpuMem h rfl)
  | st j => exact .opcode (reads_fpuSt rfl)

end Forms

/-! ### Every instruction -/

/-- The parser of the body reads the body of an instruction whose operands are encodable: the rows without a ModRM operand or a
word compute, and the others are read operand by operand. -/
theorem reads_body : (i : Instr) → i.operandsOk = true → Reads (parseBody i.prefixes) (bodyBytes i) i
  | .pusha _, _ | .popa _, _ | .pushf _, _ | .popf _, _ | .xlat _, _ | .lahf _, _ | .sahf _, _ | .cbw _, _ | .cwd _, _
  | .daa _, _ | .das _, _ | .aaa _, _ | .aas _, _ | .movsb _, _ | .movsw _, _ | .cmpsb _, _ | .cmpsw _, _ | .scasb _, _
  | .scasw _, _ | .lodsb _, _ | .lodsw _, _ | .stosb _, _ | .stosw _, _ | .insb _, _ | .insw _, _ | .outsb _, _
  | .outsw _, _ | .ret _ none, _ | .retf _ none, _ | .int3 _, _ | .into _, _ | .iret _, _ | .leave _, _ | .clc _, _
  | .stc _, _ | .cmc _, _ | .cld _, _ | .std _, _ | .cli _, _ | .sti _, _ | .nop _, _ | .hlt _, _ | .wait _, _
  | .arpl _, _ => fun _ => rfl
  | .aam _ _, _ | .aad _ _, _ | .jmpRel _ (.jb _), _ | .jcxz _ _, _ | .loop _ _, _ | .loope _ _, _ | .loopne _ _, _
  | .int _ _, _ => fun _ => rfl
  | .pushFs _, _ | .pushGs _, _ | .popFs _, _ | .popGs _, _ | .lfs _, _ | .lgs _, _ => fun _ => rfl
  | .fsqrt _, _ | .fabs _, _ | .fchs _, _ | .frndint _, _ | .fscale _, _ | .fxtract _, _ | .fprem _, _ | .fprem1 _, _
  | .fcompp _, _ | .fucompp _, _ | .ftst _, _ | .fxam _, _ | .f2xm1 _, _ | .fyl2x _, _ | .fyl2xp1 _, _ | .fptan _, _
  | .fpatan _, _ | .fsin _, _ | .fcos _, _ | .fsincos _, _ | .fld1 _, _ | .fldl2t _, _ | .fldl2e _, _ | .fldpi _, _
  | .fldlg2 _, _ | .fldln2 _, _ | .fldz _, _ | .fnstsw _ .ax, _ | .fnclex _, _ | .fninit _, _ | .fincstp _, _
  | .fdecstp _, _ | .fnop _, _ | .feni _, _ | .fdisi _, _ | .fsetpm _, _ => fun _ => rfl
  | .mov _ _, h => reads_mov h
  | .movMoffs _ f, _ => reads_movMoffs f
  | .movFromSeg _ _ sr, h => reads_movFromSeg h sr
  | .movToSeg _ _ _, h => by
    obtain ⟨hsr, hrm⟩ := Bool.and_eq_true_iff.mp h
    exact reads_movToSeg hrm (bne_iff_ne.mp hsr)
  | .xchg _ _, h => reads_xchg h
  | .push _ _, h => reads_push h
  | .pop _ _, h => reads_pop h
  | .pushImm _ _, h => reads_pushImm h
  | .pushSeg _ sr, _ => by cases sr <;> exact fun _ => rfl
  | .popSeg _ sr, h => by
    cases sr with
    | cs => exact nomatch h
    | es | ss | ds => exact fun _ => rfl
  | .inPort _ wide src, _ => by cases wide <;> cases src <;> exact fun _ => rfl
  | .outPort _ wide dst, _ => by cases wide <;> cases dst <;> exact fun _ => rfl
  | .lds _ _ _, h | .les _ _ _, h | .lea _ _ _, h | .bound _ _ _, h => .opcode ((reads_modMem h).last .done)
  | .lss _ _ _, h => .opcode (.byte ((reads_modMem h).last .done))
  | .movzx _ _ wide _, h | .movsx _ _ wide _, h => by
    cases wide <;> exact .opcode (.byte ((reads_modRM h).last .done))
  | .imul2 _ _ _, h | .bsf _ _ _, h | .bsr _ _ _, h => .opcode (.byte ((reads_modRM h).last .done))
  | .add _ _, h => reads_alu (k := 0) h
  | .or _ _, h => reads_alu (k := 1) h
  | .adc _ _, h => reads_alu (k := 2) h
  | .sbb _ _, h => reads_alu (k := 3) h
  | .and _ _, h => reads_alu (k := 4) h
  | .sub _ _, h => reads_alu (k := 5) h
  | .xor _ _, h => reads_alu (k := 6) h
  | .cmp _ _, h => reads_alu (k := 7) h
  | .inc _ _, h => reads_inc h
  | .dec _ _, h => reads_dec h
  | .not _ _, h | .neg _ _, h | .mul _ _, h | .imul1 _ _, h | .div _ _, h | .idiv _ _, h => reads_group3 h rfl
  | .imul3 _ _ _ _, h => by
    obtain ⟨hrm, hi⟩ := Bool.and_eq_true_iff.mp h
    exact reads_imul3 hrm hi
  | .test _ _, h => reads_test h
  | .rol _ _ _, h | .ror _ _ _, h | .rcl _ _ _, h | .rcr _ _ _, h | .shl _ _ _, h | .shr _ _ _, h | .sar _ _ _, h =>
    reads_group2 h (by decide) rfl
  | .shld _ _ _ _, h | .shrd _ _ _ _, h => reads_dbl h (fun _ => rfl) fun _ => rfl
  | .bt _ _ _, h | .bts _ _ _, h | .btr _ _ _, h | .btc _ _ _, h => reads_bit h (fun _ => rfl) (by decide) fun _ => rfl
  | .setcc _ _ _, h => reads_setcc h
  | .jmpRel _ (.jz _), h | .callRel _ _, h => .opcode ((reads_iz h).last .done)
  | .jmpFar _ _ seg, h | .callFar _ _ seg, h => .opcode ((reads_iz h).bind ((reads_word seg).last .done))
  | .jmpInd _ _, h | .callInd _ _, h =>
    .opcode (.rmLast h fun _ _ hreg hrm => by rw [hreg]; exact hrm.last .done)
  | .jmpFarInd _ _, h | .callFarInd _ _, h =>
    .opcode (.memLast h fun _ _ hreg _ hm => by rw [hreg]; exact hm.last .done)
  | .jccShort p cc _, _ => .opcode (parseOpcode_jcc p cc ▸ .byte .done)
  | .jccNear _ _ _, h => reads_jccNear h
  | .ret _ (some n), _ | .retf _ (some n), _ => .opcode ((reads_word n).last .done)
  | .enter _ n _, _ => .opcode ((reads_word n).bind (.byte .done))
  | .system _ _, h => .opcode (.byte (if_pos h ▸ .done))
  | .fld _ _, h => reads_fld h
  | .fild _ _, h => reads_fild h
  | .fst _ _, h => reads_fst h
  | .fstp _ _, h => reads_fstp h
  | .fist _ _, h => reads_fist h
  | .fistp _ _, h => reads_fistp h
  | .fbld _ _, h | .fbstp _ _, h | .fldcw _ _, h | .fnstcw _ _, h | .fnstsw _ (.m16 _), h | .fldenv _ _, h
  | .fnstenv _ _, h | .frstor _ _, h | .fnsave _ _, h => .opcode (reads_fpuMem h rfl)
  | .fxch _ _, _ | .faddp _ _, _ | .fsubp _ _, _ | .fsubrp _ _, _ | .fmulp _ _, _ | .fdivp _ _, _ | .fdivrp _ _, _
  | .fucom _ _, _ | .fucomp _ _, _ | .ffree _ _, _ => .opcode (reads_fpuSt rfl)
  | .fadd _ _, h | .fsub _ _, h | .fsubr _ _, h | .fmul _ _, h | .fdiv _ _, h | .fdivr _ _, h =>
    reads_fArith h (fun _ => rfl) (fun _ => rfl) (fun _ => rfl) fun _ => rfl
  | .fcom _ _, h | .fcomp _ _, h => reads_fCmp h (fun _ => rfl) (fun _ => rfl) fun _ => rfl
  | .fiadd _ _, h | .fisub _ _, h | .fisubr _ _, h | .fimul _ _, h | .fidiv _ _, h | .fidivr _ _, h | .ficom _ _, h
  | .ficomp _ _, h => reads_fInt h (fun _ => rfl) fun _ => rfl

/-! ### The prefixes -/

/-- A byte that is a prefix names no row of the opcode map. -/
theorem prefixByte_eq_none_or (q : Prefixes) (b : Byte) :
    prefixByte q b = .none ∨ ∀ p, parseOpcode p b = Parser.invalid := by
  unfold prefixByte
  split
  case h_12 => exact .inl rfl
  all_goals
    next hb =>
      have byte := BitVec.ofNat_toNat 8 b
      rw [hb, BitVec.setWidth_eq] at byte
      subst byte
      exact .inr fun _ => rfl

/-- The prefix bytes are read into the combined prefixes, up to the first byte that is no prefix. -/
theorem parsePrefixes_prefixBytes (p : Prefixes) {op : Byte} (hop : prefixByte p op = .none) (l : List Byte) :
    parsePrefixes .none (prefixBytes p ++ op :: l) = .ok ((p, op), l) := by
  obtain ⟨seg, os32, lock, rep⟩ := p
  have last : parsePrefixes ⟨seg, os32, lock, rep⟩ (op :: l) = .ok ((⟨seg, os32, lock, rep⟩, op), l) := by
    rw [parsePrefixes, hop]
  rcases seg with _ | _ | _ | _ | _ <;> cases os32 <;> cases lock <;> rcases rep with _ | _ | _ <;> exact last

/-- An instruction whose body is read decodes to itself, unless it is locked where it may not be. -/
theorem decode_encode_of_reads {i : Instr} (h : Reads (parseBody i.prefixes) (bodyBytes i) i)
    (hlock : (i.prefixes.lock && !i.lockable) = false) (rest : List Byte) :
    decode (encode i ++ rest) = .ok (i, rest) := by
  unfold encode
  cases hb : bodyBytes i with
  | nil =>
    rw [hb] at h
    exact nomatch h []
  | cons op tail =>
    rw [hb] at h
    have hrow : parseOpcode i.prefixes op (tail ++ rest) = .ok (i, rest) := h rest
    have hop : prefixByte i.prefixes op = .none := (prefixByte_eq_none_or _ _).resolve_right fun invalid => by
      rw [invalid] at hrow
      exact nomatch hrow
    rw [List.append_assoc, List.cons_append, decode, parsePrefixes_prefixBytes _ hop]
    show (parseOpcode i.prefixes op (tail ++ rest) >>= _) = _
    rw [hrow]
    show ite _ _ _ = _
    rw [hlock]
    rfl

/-- Settles O51: the bytes of the operands and of the body are read back along the parser (`reads_body`), and the prefixes before
them, since an opcode that has a row is no prefix. -/
theorem decodeEncode : Obligations.DecodeEncode := fun i rest h => by
  obtain ⟨operands, lock⟩ := Bool.and_eq_true_iff.mp h
  exact decode_encode_of_reads (reads_body i operands) (by simpa [or_iff_not_imp_left] using lock) rest

/-- Settles O52: each word is decided by running the decoder on it. -/
theorem decodedWords : Obligations.DecodedWords :=
  ⟨rfl, rfl, rfl, rfl, rfl, rfl, rfl, rfl, rfl, rfl, rfl, rfl, rfl, rfl, rfl, rfl, rfl⟩

end Sys2Proof.Laws.RoundTrip
end

section
/-! What a step does where it fetches, and where it cannot (O53, O54). -/

namespace Sys2Proof.Machine

/-! ### The fetch at a boundary -/

/-- The boundary changes the counter of the free values only (60_exceptions.md R746). -/
theorem State.boundary_eq (s : State) : s.boundary = { s with draws := s.boundary.draws } := by
  unfold State.boundary
  split <;> rfl

theorem State.boundary_flags (s : State) : s.boundary.flags = s.flags := by rw [s.boundary_eq]

theorem State.boundary_par (s : State) : s.boundary.par = s.par := by rw [s.boundary_eq]

/-- The names of an instruction of `len` bytes that begins at the boundary (00_scope.md R14). -/
theorem State.boundary_begin (s : State) (len : Nat) :
    s.boundary.begin len = { s.boundary with ctx := ⟨s.cs, s.ip, s.ip + BitVec.ofNat 16 len, false⟩ } := by
  rw [s.boundary_eq]
  rfl

/-- The start of a step that runs no instruction. -/
theorem State.boundary_begin_zero (s : State) :
    s.boundary.begin 0 = { s.boundary with ctx := ⟨s.cs, s.ip, s.ip, false⟩ } := by
  rw [s.boundary_begin, BitVec.add_zero]

/-- The fetch after the boundary reads the bytes that stood at CS:IP before it. -/
theorem State.boundary_fetch {s : State} {n : Nat} (h : s.Fetches n) :
    s.boundary.fetch = fetchedOf (s.codeBytes n) (if n < 15 then some (s.codeAt n) else none) := by
  rw [s.boundary_eq]
  exact State.fetch_of_fetches (s := { s with draws := s.boundary.draws }) h

@[simp] theorem State.codeBytes_length (s : State) (n : Nat) : (s.codeBytes n).length = n := by
  simp [State.codeBytes]

section Fetched

variable {bytes rest : List Byte} {hole : Option Nat}

theorem fetchedOf_instr {i : Instr} (h : decode bytes = .ok (i, rest)) :
    fetchedOf bytes hole = .instr i (bytes.length - rest.length) := by rw [fetchedOf.eq_def, h]

theorem fetchedOf_invalid (h : decode bytes = .error (.invalid rest)) :
    fetchedOf bytes hole = .invalid (bytes.take (bytes.length - rest.length)) := by rw [fetchedOf.eq_def, h]

theorem fetchedOf_unsupported {f : Feature} (h : decode bytes = .error (.unsupported f)) :
    fetchedOf bytes hole = .unsupported f := by rw [fetchedOf.eq_def, h]

theorem fetchedOf_needMore (h : decode bytes = .error .needMore) :
    fetchedOf bytes hole = hole.elim (.invalid bytes) .fault := by
  rw [fetchedOf.eq_def, h]
  cases hole <;> rfl

end Fetched

/-! ### The step by what it fetches -/

section Step

variable {s : State} (hrun : s.run = .running) (hinj : s.injected = none)
include hrun hinj

theorem step_eq_instruction : step s = s.boundary.instruction := by
  rw [step, hrun]
  show s.runStep = _
  rw [State.runStep, hinj]

theorem step_of_fetch_invalid {bytes : List Byte} (h : s.boundary.fetch = .invalid bytes) :
    step s = .next ((s.boundary.begin 0).invalidOpcode bytes) := by
  rw [step_eq_instruction hrun hinj, State.instruction, h]

theorem step_of_fetch_unsupported {f : Feature} (h : s.boundary.fetch = .unsupported f) :
    step s = .next ((s.boundary.begin 0).halt (.unsupportedFeature f)) := by
  rw [step_eq_instruction hrun hinj, State.instruction, h]

theorem step_of_fetch_fault {a : Nat} (h : s.boundary.fetch = .fault a) :
    step s = .next ((s.boundary.begin 0).halt (.addressFault a)) := by
  rw [step_eq_instruction hrun hinj, State.instruction, h]

end Step

/-- Settles O53: the fetch reads the bytes of CS:IP, and they decode to the instruction that the step runs. -/
theorem stepRunsDecoded : Obligations.StepRunsDecoded := by
  intro s i rest n hrun hinj hf hd u
  have start : s.boundary.begin (n - rest.length) = u := s.boundary_begin _
  have fetched : s.boundary.fetch = .instr i (n - rest.length) := by
    rw [State.boundary_fetch hf, fetchedOf_instr hd, s.codeBytes_length]
  have ran := step_eq_instruction hrun hinj
  rw [State.instruction, fetched, s.boundary_flags] at ran
  rw [← start]
  exact ran

/-- Settles O54: each outcome of the decoder that is no instruction has its outcome of the fetch, and that one its step; a run that
has ended, and a halted core under P_EXTINT = never, answer by their run state alone. -/
theorem stepWithoutInstruction : Obligations.StepWithoutInstruction := by
  refine ⟨fun s n hrun hinj hf => ?_, fun s c h => ?_, fun s r c i h => ?_, fun s h never => ?_⟩
  · intro u invalid
    have start : s.boundary.begin 0 = u := s.boundary_begin_zero
    have step_invalid : ∀ read, s.boundary.fetch = .invalid read → step s = invalid read := fun read h => by
      have par : u.par = s.par := s.boundary_par
      rw [step_of_fetch_invalid hrun hinj h, start, State.invalidOpcode, par]
      show _ = match s.par.ud with | .halt => _ | .trap => _
      cases s.par.ud <;> rfl
    refine ⟨fun rest hd => step_invalid _ ?_, fun hd => ⟨fun hn => step_invalid _ ?_, fun hn => ?_⟩, fun f hd => ?_⟩
    · rw [State.boundary_fetch hf, fetchedOf_invalid hd, s.codeBytes_length]
    · rw [State.boundary_fetch hf, fetchedOf_needMore hd, if_neg (by omega)]
      rfl
    · have fetched : s.boundary.fetch = .fault (s.codeAt n) := by
        rw [State.boundary_fetch hf, fetchedOf_needMore hd, if_pos hn]
        rfl
      rw [step_of_fetch_fault hrun hinj fetched, start]
    · have fetched : s.boundary.fetch = .unsupported f := by
        rw [State.boundary_fetch hf, fetchedOf_unsupported hd]
      rw [step_of_fetch_unsupported hrun hinj fetched, start]
  · rw [step, h]
  · rw [step, h]
  · rw [step, h]
    show s.haltStep = _
    rw [State.haltStep, never]

end Sys2Proof.Machine
end

section
/-! Rules that the data transfers share (40_data_transfer.md, O13 to O19): what a piece of an instruction gives where its
accesses are backed, what a commit leaves as it is, the bytes of memory, and the ends of an instruction whose result goes to a
register or to memory. -/

namespace Sys2Proof

theorem Width.pow_bytes (w : Width) : 256 ^ w.bytes = 2 ^ w.bits := by cases w <;> rfl

theorem Width.bytes_le (w : Width) : w.bytes ≤ 2 ^ 20 := by cases w <;> decide

end Sys2Proof

namespace Sys2Proof.Machine

/-! ### Pieces of an instruction that go on, and commits -/

/-- A piece of an instruction goes on with a value of which `P` holds. -/
def Exec.Gives {α : Type} (r : Exec α) (P : α → Prop) : Prop := ∃ v, r = .ok v ∧ P v

section Gives

variable {α β : Type} {P : α → Prop} {Q : β → Prop}

theorem Exec.Gives.bind {r : Exec α} {k : α → Exec β} (hr : r.Gives P) (hk : ∀ v, P v → (k v).Gives Q) :
    Exec.Gives (r >>= k) Q := by
  obtain ⟨v, rfl, hv⟩ := hr
  exact hk v hv

theorem Exec.Gives.mono {P' : α → Prop} {r : Exec α} (hr : r.Gives P) (h : ∀ v, P v → P' v) : r.Gives P' := by
  obtain ⟨v, e, hv⟩ := hr
  exact ⟨v, e, h v hv⟩

theorem Exec.Gives.next {P : State → Prop} {r : Exec State} (hr : r.Gives P) : ∃ t, finish r = .next t ∧ P t := by
  obtain ⟨t, rfl, ht⟩ := hr
  exact ⟨t, rfl, ht⟩

end Gives

/-- What an instruction that commits leaves as it is: all but the general registers, FLAGS, memory, the counter of the free
values, IP and the shadow. -/
def State.frame (s : State) := (s.es, s.cs, s.ss, s.ds, s.fpu, s.run, s.events, s.par, s.ctx)

/-- An instruction that changed none of that commits. -/
theorem State.commit_commits {s u : State} (h : u.frame = s.frame := by simp [State.frame]) : s.Commits u.commit := by
  obtain ⟨⟩ := s
  obtain ⟨⟩ := u
  simp only [State.frame, Prod.mk.injEq] at h
  simp [State.Commits, State.commit, h]

/-! ### The bytes of memory -/

theorem State.bytesAt_lt (s : State) (a n : Nat) : s.bytesAt a n < 256 ^ n := by
  induction n generalizing a with
  | zero => exact Nat.one_pos
  | succ n ih =>
    have first : (s.peek (a % s.par.ring)).toNat < 256 := BitVec.isLt _
    have rest := ih (a + 1)
    rw [State.bytesAt, Nat.pow_succ]
    omega

theorem State.bytesAt_add (s : State) (a m n : Nat) :
    s.bytesAt a (m + n) = s.bytesAt a m + 256 ^ m * s.bytesAt (a + m) n := by
  induction m generalizing a with
  | zero => simp [State.bytesAt]
  | succ m ih =>
    rw [Nat.add_right_comm, State.bytesAt, State.bytesAt, ih, Nat.pow_succ', Nat.add_right_comm a, Nat.add_assoc a]
    ring

theorem State.ofNat_bytesAt_one (s : State) (a : Nat) : BitVec.ofNat 8 (s.bytesAt a 1) = s.peek (a % s.par.ring) := by
  simp [State.bytesAt]

theorem State.toNat_ofNat_bytesAt (s : State) (w : Width) (a : Nat) :
    (BitVec.ofNat w.bits (s.bytesAt a w.bytes)).toNat = s.bytesAt a w.bytes := by
  rw [BitVec.toNat_ofNat, ← w.pow_bytes, Nat.mod_eq_of_lt (s.bytesAt_lt a _)]

theorem State.Backed.add {s : State} {a m n : Nat} (h : s.Backed a (m + n)) : s.Backed a m ∧ s.Backed (a + m) n :=
  ⟨fun i hi => h i (by omega), fun i hi => by rw [Nat.add_assoc]; exact h (m + i) (by omega)⟩

/-- What is stored depends on memory and the parameters alone. -/
theorem State.Stores.congr {s s' t t' : State} {a n v : Nat} (h : s.Stores t a n v) (hm : s'.mem = s.mem := by simp)
    (hp : s'.par = s.par := by simp) (hm' : t'.mem = t.mem := by simp) (hp' : t'.par = t.par := by simp) :
    s'.Stores t' a n v := by
  simpa only [State.Stores, State.Holds, State.SameOutside, State.peek, hm, hp, hm', hp'] using h

theorem State.SameOutside.mono {s t : State} {a m n : Nat} (h : s.SameOutside t a m) (hmn : m ≤ n) : s.SameOutside t a n :=
  fun b hb => h b fun i hi => hb i (Nat.lt_of_lt_of_le hi hmn)

/-- A store elsewhere keeps what a range holds. -/
theorem State.Holds.of_sameOutside {t u : State} {a b m n v : Nat} (h : t.Holds a n v) (ho : t.SameOutside u b m)
    (hp : u.par = t.par) (disjoint : ∀ i, i < n → ∀ j, j < m → (a + i) % t.par.ring ≠ (b + j) % t.par.ring) :
    u.Holds a n v := fun i hi => by
  rw [hp, ho _ (disjoint i hi)]
  exact h i hi

/-! ### Results in a register or in memory -/

theorem State.setReg_gpr_congr {s t : State} (h : s.gpr = t.gpr) (w : Width) (r : BitVec 3) (v : BitVec w.bits) :
    (s.setReg w r v).gpr = (t.setReg w r v).gpr := by
  cases w with
  | b8 =>
    show (s.setR8 r v).gpr = (t.setR8 r v).gpr
    unfold State.setR8
    split <;> simp [h, State.r32_congr h]
  | b16 => show (s.setR16 r v).gpr = (t.setR16 r v).gpr; simp [State.setR16, h, State.r32_congr h]
  | b32 => show (s.setR32 r v).gpr = (t.setR32 r v).gpr; simp [h]

/-- The end of an instruction whose result goes to a register. -/
theorem State.setReg_commit_gives (s : State) (p : Prefixes) (w : Width) (r : BitVec 3) (v : BitVec w.bits) :
    Exec.Gives (.ok (s.setReg w r v).commit) fun t => s.Commits t ∧ t.flags = s.flags ∧ s.Writes t p w (.reg r) v :=
  ⟨_, rfl, State.commit_commits, s.setReg_flags w r v, rfl, s.setReg_mem w r v⟩

theorem State.loadReg_gives (s : State) (p : Prefixes) (w : Width) (r : BitVec 3) (rm : RM) (h : s.Reaches p w rm) :
    (s.loadReg p w r rm).Gives fun t =>
      s.Commits t ∧ t.flags = s.flags ∧ s.Writes t p w (.reg r) (s.operand p w rm) := by
  rw [s.loadReg_reaches p w r rm h]
  exact s.setReg_commit_gives p w r _

theorem State.storeRM_gives (s : State) (p : Prefixes) (w : Width) (rm : RM) (v : BitVec w.bits) (h : s.Reaches p w rm) :
    (s.storeRM p w rm v).Gives fun t => s.Commits t ∧ t.flags = s.flags ∧ s.Writes t p w rm v := by
  obtain ⟨t, e, commits, -, flags, writes⟩ := s.storeRM_reaches p w rm v h
  exact ⟨t, e, commits, flags, writes⟩

/-- The end of an instruction whose result goes to memory. -/
theorem State.linWrite_commit_gives (s : State) (a n v : Nat) (hn : n ≤ 2 ^ 20) (h : s.Backed a n) :
    Exec.Gives (s.linWrite a n v >>= fun t => .ok t.commit) fun t =>
      s.Commits t ∧ t.flags = s.flags ∧ t.gpr = s.gpr ∧ s.Stores t a n v := by
  obtain ⟨m, e, stores⟩ := s.linWrite_stores a n v h hn
  exact ⟨{ s with mem := m }.commit, by rw [e]; rfl, State.commit_commits, rfl, rfl, stores⟩

end Sys2Proof.Machine
end

section
/-! MOV and XCHG (O13). -/

namespace Sys2Proof.Machine

theorem execMov_gives (p : Prefixes) (f : MovForm) (s : State) (h : s.Reaches p (f.width p) f.rmOf) :
    ∃ t, exec (.mov p f) s = .next t ∧ s.Commits t ∧ t.flags = s.flags ∧
      s.Writes t p (f.width p) f.dst (s.moveSource p f) := by
  cases f with
  | ebGb rm r | evGv rm r | ebIb rm i | evIz rm i => exact (s.storeRM_gives p _ rm _ h).next
  | gbEb r rm | gvEv r rm => exact (s.loadReg_gives p _ r rm h).next
  | gbIb r i | gvIz r i => exact (s.setReg_commit_gives p _ r _).next

/-- MOV of a direct offset to the accumulator. -/
theorem State.loadMoffs_gives (s : State) (p : Prefixes) (w : Width) (a : Nat) (h : s.Backed a w.bytes) :
    Exec.Gives (s.linReadW w a >>= fun v => .ok (s.setReg w rAX v).commit) fun t =>
      s.Commits t ∧ t.flags = s.flags ∧ s.Writes t p w (.reg rAX) (BitVec.ofNat _ (s.bytesAt a w.bytes)) := by
  rw [s.linReadW_backed w a h]
  exact s.setReg_commit_gives p w rAX _

theorem osW_ne_b8 (p : Prefixes) : osW p ≠ .b8 := by
  unfold osW Width.ofOs
  split <;> decide

/-- XCHG of an r/m operand and a register, at the width of its form. -/
theorem exec_xchg_rm {p : Prefixes} {w : Width} (hw : w = .b8 ∨ w = osW p) (rm : RM) (r : BitVec 3) (s : State) :
    exec (.xchg p (if w = .b8 then .ebGb rm r else .evGv rm r)) s = finish (s.xchgRM p w rm r) := by
  rcases hw with rfl | rfl
  · rfl
  · rw [if_neg (osW_ne_b8 p)]
    rfl

theorem State.xchgRM_reg_gives (s : State) (p : Prefixes) (w : Width) (q r : BitVec 3) :
    (s.xchgRM p w (.reg q) r).Gives fun t => s.Commits t ∧ t.flags = s.flags ∧ t.mem = s.mem ∧
      t.gpr = ((s.setReg w q (s.reg w r)).setReg w r (s.reg w q)).gpr :=
  ⟨((s.setReg w q (s.reg w r)).setReg w r (s.reg w q)).commit, rfl, State.commit_commits, by simp, by simp, rfl⟩

theorem State.xchgRM_mem_gives (s : State) (p : Prefixes) (w : Width) (m : Mem) (r : BitVec 3)
    (h : s.Backed (s.memAddr p m) w.bytes) :
    (s.xchgRM p w (.mem m) r).Gives fun t => s.Commits t ∧ t.flags = s.flags ∧
      s.Stores t (s.memAddr p m) w.bytes (s.reg w r).toNat ∧
      t.gpr = (s.setReg w r (BitVec.ofNat _ (s.bytesAt (s.memAddr p m) w.bytes))).gpr := by
  obtain ⟨m', written, stores⟩ := s.linWrite_stores (s.memAddr p m) w.bytes (s.reg w r).toNat h w.bytes_le
  have e : s.xchgRM p w (.mem m) r =
      .ok (({ s with mem := m' }).setReg w r (s.operand p w (.mem m))).commit := by
    rw [State.xchgRM, s.readRM_reaches p w (.mem m) h, Exec.ok_bind, State.writeRM, written]
    rfl
  exact ⟨_, e, State.commit_commits, by simp, stores.congr,
    State.setReg_gpr_congr (s := { s with mem := m' }) (t := s) rfl w r _⟩

/-- Settles O13: each form is a load into a register, a store to an operand or an exchange. -/
theorem moveResult : Obligations.MoveResult := by
  refine ⟨execMov_gives, fun p off s => ⟨fun h => ⟨?_, ?_⟩, fun h => ⟨?_, ?_⟩⟩, fun p w q r s => ?_,
    fun p w m r s h => ?_, fun p r s => ?_⟩
  · rw [← s.ofNat_bytesAt_one]
    exact (s.loadMoffs_gives p .b8 _ h).next
  · exact (s.linWrite_commit_gives _ 1 _ (by decide) h).next
  · exact (s.loadMoffs_gives p (osW p) _ h).next
  · exact (s.linWrite_commit_gives _ _ _ (osW p).bytes_le h).next
  · intro f hw
    rw [exec_xchg_rm hw]
    exact (s.xchgRM_reg_gives p w q r).next
  · intro f hw
    rw [exec_xchg_rm hw]
    exact (s.xchgRM_mem_gives p w m r h).next
  · exact (s.xchgRM_reg_gives p (osW p) rAX r).next

end Sys2Proof.Machine
end

section
/-! Segment registers and far pointers (O14). -/

namespace Sys2Proof.Machine

/-- MOV from a segment register to a register: at operand size 32 the upper half is a free value (R202). -/
theorem execMovFromSeg_reg (p : Prefixes) (r : BitVec 3) (sr : SegReg) (s : State) :
    ∃ t hi, exec (.movFromSeg p (.reg r) sr) s = .next t ∧ s.Commits t ∧ t.flags = s.flags ∧
      s.Writes t p .b32 (.reg r) (hi ++ s.sreg sr) ∧ (p.os32 = false → hi = (s.r32 r).extractLsb' 16 16) := by
  show ∃ t hi, execMovFromSeg p (.reg r) sr s = .next t ∧ _
  cases hos : p.os32 with
  | true =>
    refine ⟨(s.useDraw.setR32 r (BitVec.ofNat 16 s.drawn ++ s.sreg sr)).commit, BitVec.ofNat 16 s.drawn, ?_,
      State.commit_commits, rfl, ⟨rfl, rfl⟩, nofun⟩
    simp [execMovFromSeg, hos]
  | false =>
    refine ⟨(s.setR16 r (s.sreg sr)).commit, (s.r32 r).extractLsb' 16 16, ?_, State.commit_commits, rfl, ⟨rfl, rfl⟩,
      fun _ => rfl⟩
    simp [execMovFromSeg, hos]

theorem execMovToSeg_eq (p : Prefixes) (sr : SegReg) (rm : RM) (s : State) (h : s.Reaches p .b16 rm) :
    exec (.movToSeg p sr rm) s =
      .next { s.setSreg sr (s.operand p .b16 rm) with ip := s.ctx.nextIp, shadow := decide (sr = .ss) } := by
  show execMovToSeg p sr rm s = _
  rw [execMovToSeg, s.readRM_reaches p .b16 rm h]
  cases sr <;> rfl

/-- A far pointer in backed memory: the offset at its address, the segment after it (20_memory.md R110). -/
theorem State.readFar_backed (s : State) (w : Width) (a : Nat) (h : s.Backed a (w.bytes + 2)) :
    s.readFar w a = .ok (BitVec.ofNat w.bits (s.bytesAt a w.bytes), BitVec.ofNat 16 (s.bytesAt (a + w.bytes) 2)) := by
  have segment : (s.bytesAt a w.bytes + 2 ^ w.bits * s.bytesAt (a + w.bytes) 2) / 2 ^ w.bits = s.bytesAt (a + w.bytes) 2 := by
    rw [Nat.add_mul_div_left _ _ (Nat.two_pow_pos _), Nat.div_eq_of_lt (w.pow_bytes ▸ s.bytesAt_lt a _), Nat.zero_add]
  have offset : BitVec.ofNat w.bits (s.bytesAt a w.bytes + 2 ^ w.bits * s.bytesAt (a + w.bytes) 2) =
      BitVec.ofNat w.bits (s.bytesAt a w.bytes) := by
    apply BitVec.eq_of_toNat_eq
    simp
  rw [State.readFar, s.linRead_backed a _ h, Exec.ok_bind, s.bytesAt_add, w.pow_bytes, segment, offset]

/-- A far pointer is loaded, and the instruction commits. -/
theorem State.loadFar_backed (s : State) (p : Prefixes) (sr : SegReg) (r : BitVec 3) (m : Mem)
    (h : s.Backed (s.memAddr p m) ((osW p).bytes + 2)) :
    s.loadFar p sr r m = .ok
      { (s.setReg (osW p) r (BitVec.ofNat _ (s.bytesAt (s.memAddr p m) (osW p).bytes))).setSreg sr
          (BitVec.ofNat 16 (s.bytesAt (s.memAddr p m + (osW p).bytes) 2)) with
        ip := s.ctx.nextIp, shadow := false } := by
  rw [State.loadFar, s.readFar_backed (osW p) _ h]
  simp [State.commit]

/-- Settles O14: a load of a segment register reads its backed source and ends in a state that is written out. -/
theorem segmentLoadResult : Obligations.SegmentLoadResult := by
  refine ⟨execMovFromSeg_reg, fun p m sr s h => ?_, execMovToSeg_eq, fun p r m s h => ?_⟩
  · exact (s.linWrite_commit_gives (s.memAddr p m) 2 _ (by decide) h).next
  · intro off seg u
    have loads := fun sr => congrArg finish (s.loadFar_backed p sr r m h)
    exact ⟨loads .ds, loads .es, loads .ss⟩

end Sys2Proof.Machine
end

section
/-! Pushes (O15). -/

namespace Sys2Proof.Machine

/-- A push and a commit on a backed slot. -/
theorem State.push_commit_gives (s : State) (n v : Nat) (hn : n ≤ 2 ^ 20) (h : s.Backed (s.slot n) n) :
    Exec.Gives (s.push n v >>= fun t => .ok t.commit) fun t => s.Pushes t n v := by
  obtain ⟨m, e, stores⟩ := s.push_backed n v hn h
  exact ⟨({ s.setR16 rSP (s.r16 rSP - BitVec.ofNat 16 n) with mem := m }).commit, by rw [e]; rfl,
    State.commit_commits, rfl, rfl, stores⟩

/-- PUSH of an operand that is read before SP moves (R205). -/
theorem execPush_gives (p : Prefixes) (f : StackForm) (s : State) (hr : s.Reaches p (osW p) f.rmOf)
    (hs : s.Backed (s.slot (osW p).bytes) (osW p).bytes) :
    ∃ t, exec (.push p f) s = .next t ∧ s.Pushes t (osW p).bytes (s.operand p (osW p) f.rmOf).toNat := by
  have pushes := (s.push_commit_gives _ (s.operand p (osW p) f.rmOf).toNat (osW p).bytes_le hs).next
  cases f with
  | reg r => exact pushes
  | rm e =>
    show ∃ t, execPush p (.rm e) s = .next t ∧ _
    rw [execPush, s.readRM_reaches p (osW p) e hr]
    exact pushes

/-- Two stores that follow each other. -/
theorem State.Stores.append {s t u : State} {a m n v w : Nat} (h₁ : s.Stores t a m v) (h₂ : t.Stores u (a + m) n w)
    (ht : t.par = s.par) (hu : u.par = t.par) (fits : m + n ≤ s.par.ring) :
    u.Holds a m v ∧ u.Holds (a + m) n w ∧ s.SameOutside u a (m + n) := by
  obtain ⟨holds, outside⟩ := h₁
  obtain ⟨holds', outside'⟩ := h₂
  refine ⟨holds.of_sameOutside outside' hu fun i hi j hj e => ?_, holds', fun b hb => ?_⟩
  · rw [ht, Nat.add_assoc] at e
    have := ring_offset_inj (by omega) (by omega) e
    omega
  · rw [outside' b fun i hi => ?_, outside b fun i hi => hb i (by omega)]
    rw [ht, Nat.add_assoc]
    exact hb (m + i) (by omega)

/-- PUSH of a segment register in a slot of 4 bytes: the word is stored, and the one above it is cleared or left (R207). -/
theorem State.pushSlot4_gives (s : State) (v : Word) (h : s.Backed (s.slot 4) 4) :
    (s.pushSlot4 v).Gives fun t => t.frame = s.frame ∧ t.flags = s.flags ∧
      t.gpr = (s.setR16 rSP (s.r16 rSP - 4)).gpr ∧
      t.Holds (s.slot 4) 2 v.toNat ∧ s.SameOutside t (s.slot 4) 4 ∧
      (t.Holds (s.slot 4 + 2) 2 0 ∨ s.SameOutside t (s.slot 4) 2) := by
  obtain ⟨lowBacked, highBacked⟩ := State.Backed.add (m := 2) (n := 2) h
  let u := s.useDraw.setR16 rSP (s.r16 rSP - 4)
  obtain ⟨m, e, low⟩ := u.linWrite_stores (s.slot 4) 2 v.toNat lowBacked (by decide)
  obtain ⟨m', e', high⟩ := State.linWrite_stores { u with mem := m } (s.slot 4 + 2) 2 0 highBacked (by decide)
  have pushed : s.pushSlot4 v = if s.drawn.testBit 0 then .ok { u with mem := m' } else .ok { u with mem := m } := by
    rw [State.pushSlot4]
    show (u.linWrite (s.slot 4) 2 v.toNat >>= _) = _
    rw [e, Exec.ok_bind, ← e']
    rfl
  rw [pushed]
  split
  · obtain ⟨holds, cleared, outside⟩ := low.append high rfl rfl (le_trans (by decide) (ring_large s.par))
    exact ⟨_, rfl, rfl, rfl, rfl, holds, outside, .inl cleared⟩
  · obtain ⟨holds, outside⟩ := low
    exact ⟨_, rfl, rfl, rfl, rfl, holds, State.SameOutside.mono outside (by decide), .inr outside⟩

/-- Settles O15: every form pushes the value it read before SP moved; only a segment register in a slot of 4 bytes stores less
than the slot. -/
theorem pushResult : Obligations.PushResult := by
  refine ⟨execPush_gives, fun p f s h => ?_, fun p s h => ?_, fun p sr s hos h => ?_, fun p sr s hos h => ?_⟩
  · exact (s.push_commit_gives _ _ (osW p).bytes_le h).next
  · exact (s.push_commit_gives _ _ (osW p).bytes_le h).next
  · show ∃ t, execPushSeg p sr s = .next t ∧ _
    rw [execPushSeg, hos]
    exact (s.push_commit_gives 2 _ (by decide) h).next
  · show ∃ t, execPushSeg p sr s = .next t ∧ _
    rw [execPushSeg, hos]
    refine ((s.pushSlot4_gives (s.sreg sr) h).bind fun t ht => ?_).next
    obtain ⟨frame, rest⟩ := ht
    exact ⟨t.commit, rfl, State.commit_commits frame, rest⟩

end Sys2Proof.Machine
end

section
/-! Pops (O16). -/

namespace Sys2Proof.Machine

/-- The state after a pop of `n` bytes. -/
abbrev State.popped (s : State) (n : Nat) : State := s.setR16 rSP (s.r16 rSP + BitVec.ofNat 16 n)

theorem State.popW_backed (s : State) (w : Width) (h : s.Backed (s.lin s.ss (s.r16 rSP)) w.bytes) :
    s.popW w = .ok (BitVec.ofNat w.bits (s.bytesAt (s.lin s.ss (s.r16 rSP)) w.bytes), s.popped w.bytes) := by
  rw [State.popW, s.pop_backed _ h]
  rfl

/-- POP to a register writes it after SP has gone up (R209). -/
theorem State.popped_setReg_commits (s : State) (n : Nat) (w : Width) (r : BitVec 3) (v : BitVec w.bits) :
    let t := ((s.popped n).setReg w r v).commit
    s.Commits t ∧ t.flags = s.flags ∧ t.mem = s.mem ∧ t.gpr = ((s.popped n).setReg w r v).gpr :=
  ⟨State.commit_commits, by simp, by simp, rfl⟩

/-- Settles O16: each form goes on from the popped value in the state whose SP has gone up. -/
theorem popResult : Obligations.PopResult := by
  intro p s h w v u
  have pop := s.pop_backed w.bytes h
  have popW := s.popW_backed w h
  have register : ∀ (f : StackForm) (r : BitVec 3), f = .reg r ∨ f = .rm (.reg r) →
      exec (.pop p f) s = .next (u.setReg w r (BitVec.ofNat _ v)).commit := by
    intro f r hf
    show execPop p f s = _
    rw [execPop, popW]
    rcases hf with rfl | rfl <;> rfl
  refine ⟨fun r => ⟨_, register (.reg r) r (.inl rfl), s.popped_setReg_commits _ w r _⟩,
    fun r => ⟨_, register (.rm (.reg r)) r (.inr rfl), s.popped_setReg_commits _ w r _⟩,
    fun m hm => ?_, fun sr => ?_, ?_⟩
  · show ∃ t, execPop p (.rm (.mem m)) s = .next t ∧ _
    rw [execPop, popW]
    refine ((u.storeRM_gives p w (.mem m) (BitVec.ofNat _ v) hm).mono fun t ht => ?_).next
    obtain ⟨commits, flags, gpr, stores⟩ := ht
    rw [State.toNat_ofNat_bytesAt] at stores
    exact ⟨commits, flags, gpr, stores⟩
  · show execPopSeg p sr s = _
    rw [execPopSeg, pop]
    cases sr <;> rfl
  · show execPopf p s = _
    rw [execPopf, pop]
    rfl

end Sys2Proof.Machine
end

section
/-! Addresses and extensions (O18), and ports (O19). -/

namespace Sys2Proof.Machine

theorem execXlat_gives (p : Prefixes) (s : State) :
    let a := s.lin (s.dsOr p) (s.r16 rBX + BitVec.ofNat 16 (s.r8 rAL).toNat)
    s.Backed a 1 → ∃ t, exec (.xlat p) s = .next t ∧ s.Commits t ∧ t.flags = s.flags ∧
      s.Writes t p .b8 (.reg rAL) (s.peek (a % s.par.ring)) := by
  rw [BitVec.ofNat_toNat]
  intro a h
  rw [← s.ofNat_bytesAt_one]
  exact (s.loadMoffs_gives p .b8 a h).next

/-- An instruction that reads an operand and writes a value made from it to a register. -/
theorem State.readRM_setReg_gives (s : State) (p : Prefixes) (w w' : Width) (r : BitVec 3) (rm : RM)
    (f : BitVec w.bits → BitVec w'.bits) (h : s.Reaches p w rm) :
    Exec.Gives (s.readRM p w rm >>= fun v => .ok (s.setReg w' r (f v)).commit) fun t =>
      s.Commits t ∧ t.flags = s.flags ∧ s.Writes t p w' (.reg r) (f (s.operand p w rm)) := by
  rw [s.readRM_reaches p w rm h]
  exact s.setReg_commit_gives p w' r _

/-- CBW extends AL to AX, and at operand size 32 AX to EAX (R221). -/
theorem execCbw_gives (p : Prefixes) (s : State) :
    ∃ t, exec (.cbw p) s = .next t ∧ s.Commits t ∧ t.flags = s.flags ∧ t.mem = s.mem ∧
      if p.os32 then t.gpr = (s.setR32 rAX (BitVec.ofInt 32 (s.r16 rAX).toInt)).gpr
      else t.gpr = (s.setR16 rAX (BitVec.ofInt 16 (s.r8 rAL).toInt)).gpr := by
  show ∃ t, execCbw p s = .next t ∧ _
  rw [execCbw]
  split
  · exact ⟨_, rfl, State.commit_commits, rfl, rfl, rfl⟩
  · exact ⟨_, rfl, State.commit_commits, rfl, rfl, rfl⟩

/-- The sign of a value, spread over its width. -/
theorem ofInt_sign {n : Nat} (x : BitVec n) :
    BitVec.ofInt n (if x.toInt < 0 then -1 else 0) = if x.msb then BitVec.allOnes n else 0 := by
  rw [BitVec.msb_eq_toInt]
  by_cases h : x.toInt < 0
  · simp [h, BitVec.neg_one_eq_allOnes, BitVec.ofInt_neg]
  · simp [h]

/-- CWD fills DX with the sign of AX, and at operand size 32 EDX with that of EAX (R222). -/
theorem execCwd_gives (p : Prefixes) (s : State) :
    ∃ t, exec (.cwd p) s = .next t ∧ s.Commits t ∧ t.flags = s.flags ∧
      s.Writes t p (osW p) (.reg rDX) (BitVec.ofInt _ (if (s.reg (osW p) rAX).toInt < 0 then -1 else 0)) := by
  have e : exec (.cwd p) s = finish (.ok (s.setReg (osW p) rDX
      (BitVec.ofInt _ (if (s.reg (osW p) rAX).toInt < 0 then -1 else 0))).commit) := by
    show execCwd p s = _
    rw [ofInt_sign]
    obtain ⟨seg, os32, lock, rep⟩ := p
    cases os32 <;> rfl
  rw [e]
  exact (s.setReg_commit_gives p (osW p) rDX _).next

/-- Settles O18: each instruction writes one register with a value made from an address or an operand. -/
theorem extendAndAddress : Obligations.ExtendAndAddress := by
  intro p s
  refine ⟨fun r m => ?_, execXlat_gives p s, fun r wide rm h => ⟨?_, ?_⟩, execCbw_gives p s, execCwd_gives p s⟩
  · rw [BitVec.ofNat_toNat]
    exact (s.setReg_commit_gives p (osW p) r _).next
  · rw [BitVec.ofNat_toNat]
    exact (s.readRM_setReg_gives p (srcW wide) (osW p) r rm (BitVec.setWidth _) h).next
  · exact (s.readRM_setReg_gives p (srcW wide) (osW p) r rm (BitVec.signExtend _) h).next

/-- A value read at a port fits the width of the access (20_memory.md R121). -/
theorem State.ioRead_lt (s : State) (port : Word) (w : Width) : (s.ioRead port w.bytes).1 < 2 ^ w.bits := by
  have : 2 ^ (8 * w.bytes) = 2 ^ w.bits := by cases w <;> rfl
  rw [← this]
  exact Nat.mod_lt _ (Nat.two_pow_pos _)

/-- A register written after a port read: the log and the counter of the free values stand beside it. -/
theorem State.ioRead_setReg_commit (s : State) (port : Word) (n : Nat) (w : Width) (r : BitVec 3) (v : BitVec w.bits) :
    let t := ((s.ioRead port n).2.setReg w r v).commit
    t = { s.setReg w r v with
      events := s.events ++ [.ioRead port n (s.ioRead port n).1], draws := t.draws, ip := s.ctx.nextIp
      shadow := false } := by
  cases w with
  | b8 =>
    simp only [State.setReg, State.setR8]
    split <;> rfl
  | b16 | b32 => rfl

/-- Settles O19: a port read is the log entry and the free value it draws, and the rest is a write of the accumulator. -/
theorem portResult : Obligations.PortResult := by
  intro p wide q s w
  exact ⟨⟨_, _, rfl, s.ioRead_lt (s.port q) w, s.ioRead_setReg_commit (s.port q) w.bytes w rAX _⟩, rfl⟩

end Sys2Proof.Machine
end

section
/-! PUSHA and POPA (O17). Each is a chain of eight accesses of one slot; an invariant says what the first `k` of them have
done. -/

namespace Sys2Proof.Machine

/-! ### Registers at the operand sizes 16 and 32 -/

theorem State.gpr_ext {s t : State} (h : ∀ r, s.r32 r = t.r32 r) : s.gpr = t.gpr :=
  Vector.ext fun i hi => by
    have := h (BitVec.ofNat 3 i)
    simpa only [State.r32, BitVec.toNat_ofNat, Nat.mod_eq_of_lt (show i < 2 ^ 3 from hi)] using this

/-- A write of what the register holds. -/
theorem State.setR16_r16_gpr (s : State) (i : BitVec 3) : (s.setR16 i (s.r16 i)).gpr = s.gpr :=
  State.gpr_ext fun j => by
    rw [State.r32_setR16]
    split
    · next h =>
      rw [h, State.r16, BitVec.extractLsb'_append_extractLsb'_eq_extractLsb' (by decide)]
      exact BitVec.extractLsb'_eq_self
    · rfl

/-- Of two writes of a register the later one counts. -/
theorem State.setR16_gpr_of_gpr {s t : State} {i : BitVec 3} {v : Word} (h : t.gpr = (s.setR16 i v).gpr) (v' : Word) :
    (t.setR16 i v').gpr = (s.setR16 i v').gpr :=
  State.gpr_ext fun j => by
    rw [State.r32_setR16, State.r32_setR16, State.r32_congr h, State.r32_congr h, State.high_setR16, State.r32_setR16]
    split <;> rfl

theorem State.r32_setReg_of_ne (s : State) {w : Width} (hw : w ≠ .b8) {i j : BitVec 3} (h : j ≠ i) (v : BitVec w.bits) :
    (s.setReg w i v).r32 j = s.r32 j := by
  cases w with
  | b8 => exact absurd rfl hw
  | b16 => exact (s.r32_setR16 i j v).trans (if_neg h)
  | b32 => exact (s.r32_setR32 i j v).trans (if_neg h)

theorem State.reg_of_r32 {s t : State} {w : Width} (hw : w ≠ .b8) {j : BitVec 3} (h : t.r32 j = s.r32 j) :
    t.reg w j = s.reg w j := by
  cases w with
  | b8 => exact absurd rfl hw
  | b16 => exact congrArg (BitVec.extractLsb' 0 16) h
  | b32 => exact h

theorem State.ss_of_frame {s t : State} (h : t.frame = s.frame) : t.ss = s.ss := by simp_all [State.frame]

theorem State.par_of_frame {s t : State} (h : t.frame = s.frame) : t.par = s.par := by simp_all [State.frame]

/-! ### PUSHA (R210) -/

/-- The address of the k-th slot of width w below SP. -/
def State.below (s : State) (w : Width) (k : Nat) : Nat := s.lin s.ss (s.r16 rSP - BitVec.ofNat 16 (k * w.bytes))

/-- The slots below SP share no byte, also where they go around offset FFFFh: their offsets differ modulo 2^16. -/
theorem State.below_disjoint (s : State) (w : Width) {j k i i' : Nat} (hj : j ≤ 8) (hk : k ≤ 8) (ne : j ≠ k)
    (hi : i < w.bytes) (hi' : i' < w.bytes) : (s.below w j + i) % s.par.ring ≠ (s.below w k + i') % s.par.ring := by
  intro e
  simp only [State.below, State.lin, Nat.mod_add_mod, Nat.add_assoc] at e
  have large := ring_large s.par
  have hjo := (s.r16 rSP - BitVec.ofNat 16 (j * w.bytes)).isLt
  have hko := (s.r16 rSP - BitVec.ofNat 16 (k * w.bytes)).isLt
  have hw : w.bytes ≤ 4 := by cases w <;> decide
  have e := ring_offset_inj (by omega) (by omega) e
  rw [BitVec.toNat_sub, BitVec.toNat_sub, BitVec.toNat_ofNat, BitVec.toNat_ofNat] at e
  cases w <;> simp only [Width.bytes] at * <;> omega

/-- `t` is `s` after pushes of the first `k` registers at width `w`, as PUSHA makes them. -/
structure State.PushedRegs (s t : State) (w : Width) (k : Nat) : Prop where
  frame : t.frame = s.frame
  flags : t.flags = s.flags
  gpr : t.gpr = (s.setR16 rSP (s.r16 rSP - BitVec.ofNat 16 (k * w.bytes))).gpr
  holds : ∀ r : BitVec 3, r.toNat < k → t.Holds (s.below w (r.toNat + 1)) w.bytes (s.reg w r).toNat
  outside : ∀ b, (∀ j i, 1 ≤ j → j ≤ k → i < w.bytes → b ≠ (s.below w j + i) % s.par.ring) →
    t.peek b = s.peek b

theorem State.pushedRegs_zero (s : State) (w : Width) : s.PushedRegs s w 0 where
  frame := rfl
  flags := rfl
  gpr := by rw [Nat.zero_mul, BitVec.sub_zero, State.setR16_r16_gpr]
  holds := nofun
  outside _ _ := rfl

namespace State.PushedRegs

variable {s t : State} {w : Width} {k : Nat}

/-- The pushes made so far leave every register but SP as it was. -/
theorem reg_eq (h : s.PushedRegs t w k) (hw : w ≠ .b8) {r : BitVec 3} (hr : r ≠ rSP) : t.reg w r = s.reg w r := by
  apply State.reg_of_r32 hw
  rw [State.r32_congr h.gpr]
  exact (s.r32_setR16 rSP r _).trans (if_neg hr)

theorem sp_eq (h : s.PushedRegs t w k) :
    t.r16 rSP - BitVec.ofNat 16 w.bytes = s.r16 rSP - BitVec.ofNat 16 ((k + 1) * w.bytes) := by
  rw [State.r16_congr h.gpr, State.r16_setR16_self, Nat.succ_mul, BitVec.ofNat_add, sub_sub]

theorem slot_eq (h : s.PushedRegs t w k) : t.slot w.bytes = s.below w (k + 1) := by
  rw [State.slot, h.sp_eq, State.lin, State.par_of_frame h.frame, State.ss_of_frame h.frame]
  rfl

/-- The next push: register number `k` goes to the slot `k + 1` below SP. -/
theorem push (h : s.PushedRegs t w k) (hole : s.par.NoHole) (r : BitVec 3) (hr : r.toNat = k) {v : BitVec w.bits}
    (hv : v = s.reg w r) : (t.pushW w v).Gives fun u => s.PushedRegs u w (k + 1) := by
  have hk : k < 8 := hr ▸ r.isLt
  have par := State.par_of_frame h.frame
  obtain ⟨m, e, holds, outside⟩ :=
    t.push_backed w.bytes v.toNat w.bytes_le (t.backed_of_noHole _ _ (par ▸ hole))
  rw [h.slot_eq] at holds outside
  refine ⟨_, e, h.frame, h.flags, ?_, fun q hq => ?_, fun b hb => ?_⟩
  · rw [h.sp_eq]
    exact State.setR16_gpr_of_gpr h.gpr _
  · rcases Nat.lt_succ_iff_lt_or_eq.mp hq with hq | hq
    · refine (h.holds q hq).of_sameOutside outside rfl fun i hi j hj => ?_
      rw [par]
      exact s.below_disjoint w (by omega) (by omega) (by omega) hi hj
    · obtain rfl : q = r := BitVec.eq_of_toNat_eq (hq.trans hr.symm)
      rw [hq, ← hv]
      exact holds
  · rw [outside b fun i hi => par ▸ hb (k + 1) i (by omega) le_rfl hi]
    exact h.outside b fun j i h1 hj => hb j i h1 (by omega)

/-- The next push, of a register that still holds what it held at the start. -/
theorem push_reg (h : s.PushedRegs t w k) (hole : s.par.NoHole) (hw : w ≠ .b8) (r : BitVec 3) (hr : r.toNat = k)
    (ne : r ≠ rSP) : (t.pushW w (t.reg w r)).Gives fun u => s.PushedRegs u w (k + 1) :=
  h.push hole r hr (h.reg_eq hw ne)

end State.PushedRegs

/-- PUSHA as a chain of eight pushes, each of the register that the invariant asks for. -/
theorem execPusha_gives (p : Prefixes) (s : State) (hole : s.par.NoHole) :
    ∃ t, exec (.pusha p) s = .next t ∧ s.Commits t ∧ s.PushedRegs t (osW p) 8 := by
  have hw := osW_ne_b8 p
  exact Exec.Gives.next <|
    ((s.pushedRegs_zero (osW p)).push_reg hole hw rAX rfl (by decide)).bind fun _ h =>
    (h.push_reg hole hw rCX rfl (by decide)).bind fun _ h =>
    (h.push_reg hole hw rDX rfl (by decide)).bind fun _ h =>
    (h.push_reg hole hw rBX rfl (by decide)).bind fun _ h =>
    (h.push hole rSP rfl rfl).bind fun _ h =>
    (h.push_reg hole hw rBP rfl (by decide)).bind fun _ h =>
    (h.push_reg hole hw rSI rfl (by decide)).bind fun _ h =>
    (h.push_reg hole hw rDI rfl (by decide)).bind fun _ h =>
    ⟨_, rfl, State.commit_commits h.frame, ⟨h.frame, h.flags, h.gpr, h.holds, h.outside⟩⟩

/-! ### POPA (R211) -/

/-- The address of the k-th slot of width w from SP up. -/
def State.above (s : State) (w : Width) (k : Nat) : Nat := s.lin s.ss (s.r16 rSP + BitVec.ofNat 16 (k * w.bytes))

theorem State.bytesAt_congr {s t : State} (hm : t.mem = s.mem) (hp : t.par = s.par) (a n : Nat) :
    t.bytesAt a n = s.bytesAt a n := by
  induction n generalizing a with
  | zero => rfl
  | succ n ih => rw [State.bytesAt, State.bytesAt, ih, State.peek, State.peek, hm, hp]

theorem State.high_setReg (s : State) {w : Width} (hw : w ≠ .b8) {i j : BitVec 3} (h : w = .b16 ∨ j ≠ i)
    (v : BitVec w.bits) : ((s.setReg w i v).r32 j).extractLsb' 16 16 = (s.r32 j).extractLsb' 16 16 := by
  rcases h with rfl | h
  · exact s.high_setR16 i j v
  · rw [s.r32_setReg_of_ne hw h]

/-- `t` is `s` after the first `k` pops at width `w`, as POPA makes them: from DI down, SP skipped. -/
structure State.PoppedRegs (s t : State) (w : Width) (k : Nat) : Prop where
  frame : t.frame = s.frame
  flags : t.flags = s.flags
  mem : t.mem = s.mem
  sp : t.r16 rSP = s.r16 rSP + BitVec.ofNat 16 (k * w.bytes)
  regs : ∀ r : BitVec 3, r ≠ rSP → 7 - r.toNat < k →
    t.reg w r = BitVec.ofNat _ (s.bytesAt (s.above w (7 - r.toNat)) w.bytes)
  high : ∀ r : BitVec 3, w = .b16 ∨ r = rSP → (t.r32 r).extractLsb' 16 16 = (s.r32 r).extractLsb' 16 16

theorem State.poppedRegs_zero (s : State) (w : Width) : s.PoppedRegs s w 0 where
  frame := rfl
  flags := rfl
  mem := rfl
  sp := by rw [Nat.zero_mul, BitVec.add_zero]
  regs := nofun
  high _ _ := rfl

namespace State.PoppedRegs

variable {s t : State} {w : Width} {k : Nat}

/-- The slot that the next pop reads. -/
theorem read_eq (h : s.PoppedRegs t w k) : t.bytesAt (t.lin t.ss (t.r16 rSP)) w.bytes = s.bytesAt (s.above w k) w.bytes := by
  rw [State.bytesAt_congr h.mem (State.par_of_frame h.frame), h.sp, State.lin, State.par_of_frame h.frame,
    State.ss_of_frame h.frame]
  rfl

theorem popped_sp (h : s.PoppedRegs t w k) :
    (t.popped w.bytes).r16 rSP = s.r16 rSP + BitVec.ofNat 16 ((k + 1) * w.bytes) := by
  rw [State.r16_setR16_self, h.sp, Nat.succ_mul, BitVec.ofNat_add, add_assoc]

/-- A register popped before the slot `k` stays when SP goes up. -/
theorem popped_reg (h : s.PoppedRegs t w k) (hw : w ≠ .b8) (r : BitVec 3) (ne : r ≠ rSP) (hr : 7 - r.toNat < k) :
    (t.popped w.bytes).reg w r = BitVec.ofNat _ (s.bytesAt (s.above w (7 - r.toNat)) w.bytes) := by
  rw [← h.regs r ne hr]
  exact State.reg_of_r32 hw ((t.r32_setR16 rSP r _).trans (if_neg ne))

/-- The slot of SP is skipped. -/
theorem skip (h : s.PoppedRegs t w k) (hw : w ≠ .b8) (hk : k = 7 - rSP.toNat) :
    s.PoppedRegs (t.popped w.bytes) w (k + 1) where
  frame := h.frame
  flags := h.flags
  mem := h.mem
  sp := h.popped_sp
  regs r ne hr := h.popped_reg hw r ne <| by
    have : r.toNat ≠ rSP.toNat := fun e => ne (BitVec.eq_of_toNat_eq e)
    have : rSP.toNat = 4 := rfl
    omega
  high r hr := (t.high_setR16 rSP r _).trans (h.high r hr)

/-- The next pop: register number `7 - k` is loaded from the slot `k`. -/
theorem pop (h : s.PoppedRegs t w k) (hole : s.par.NoHole) (hw : w ≠ .b8) (r : BitVec 3) (hk : k = 7 - r.toNat)
    (ne : r ≠ rSP) : (t.popInto w r).Gives fun u => s.PoppedRegs u w (k + 1) := by
  have e : t.popInto w r =
      .ok ((t.popped w.bytes).setReg w r (BitVec.ofNat _ (s.bytesAt (s.above w k) w.bytes))) := by
    rw [State.popInto, t.popW_backed w (t.backed_of_noHole _ _ (State.par_of_frame h.frame ▸ hole)), h.read_eq]
    rfl
  have keeps : ∀ q, q ≠ r → _ := fun q hq => (t.popped w.bytes).r32_setReg_of_ne hw hq
    (BitVec.ofNat _ (s.bytesAt (s.above w k) w.bytes))
  refine ⟨_, e, ?_, ?_, ?_, ?_, fun q hq hlt => ?_, fun q hq => ?_⟩
  · simpa [State.frame] using h.frame
  · simpa using h.flags
  · simpa using h.mem
  · rw [← h.popped_sp, State.r16, keeps rSP ne.symm, State.r16]
  · by_cases hqr : q = r
    · rw [hqr, State.reg_setReg_self, hk]
    · rw [State.reg_of_r32 hw (keeps q hqr)]
      refine h.popped_reg hw q hq ?_
      have : q.toNat ≠ r.toNat := fun e => hqr (BitVec.eq_of_toNat_eq e)
      omega
  · rw [State.high_setReg _ hw (hq.imp_right fun e => e ▸ ne.symm), State.high_setR16]
    exact h.high q hq

end State.PoppedRegs

/-- POPA as a chain of seven pops and the skip of the slot of SP. -/
theorem execPopa_gives (p : Prefixes) (s : State) (hole : s.par.NoHole) :
    ∃ t, exec (.popa p) s = .next t ∧ s.Commits t ∧ s.PoppedRegs t (osW p) 8 := by
  have hw := osW_ne_b8 p
  exact Exec.Gives.next <|
    ((s.poppedRegs_zero (osW p)).pop hole hw rDI rfl (by decide)).bind fun _ h =>
    (h.pop hole hw rSI rfl (by decide)).bind fun _ h =>
    (h.pop hole hw rBP rfl (by decide)).bind fun _ h =>
    ((h.skip hw rfl).pop hole hw rBX rfl (by decide)).bind fun _ h =>
    (h.pop hole hw rDX rfl (by decide)).bind fun _ h =>
    (h.pop hole hw rCX rfl (by decide)).bind fun _ h =>
    (h.pop hole hw rAX rfl (by decide)).bind fun _ h =>
    ⟨_, rfl, State.commit_commits h.frame, ⟨h.frame, h.flags, h.mem, h.sp, h.regs, h.high⟩⟩

/-- Settles O17: the invariants of the two chains, after all eight registers. -/
theorem pushAllPopAll : Obligations.PushAllPopAll := by
  intro p s hole w slot below
  obtain ⟨t, pusha, commits, pushed⟩ := execPusha_gives p s hole
  obtain ⟨u, popa, commits', popped⟩ := execPopa_gives p s hole
  exact ⟨⟨t, pusha, commits, pushed.flags, pushed.gpr, fun r => pushed.holds r r.isLt, pushed.outside⟩,
    ⟨u, popa, commits', popped.flags, popped.mem, popped.sp, popped.high rSP (.inr rfl),
      fun r ne => popped.regs r ne (by omega), fun hw r => popped.high r (.inl hw)⟩⟩

end Sys2Proof.Machine
end

section
/-! ADD, ADC, SUB, SBB and CMP (O1), and the instructions of one operand (O2): the laws of the flags after an addition and after
a subtraction (`Flags.addFlags_afterN`, `Flags.subFlags_afterN`), at each end of an instruction that carries them. -/

namespace Sys2Proof.Machine

theorem addc_false {n : Nat} (a b : BitVec n) : addc a b false = a + b := by simp [addc]

theorem subb_false {n : Nat} (a b : BitVec n) : subb a b false = a - b := by simp [subb]

theorem zero_subb_false {n : Nat} (a : BitVec n) : subb 0 a false = -a := by simp [subb]

/-- An addition, with the sum `r`, into the destination of an ALU form (R261). -/
theorem State.aluWrite_add_gives (s : State) (p : Prefixes) (f : AluForm) (c : Bool)
    (h : s.Reaches p (f.width p) f.rmOf) :
    let a := s.operand p (f.width p) f.dst
    let b := s.source p f
    ∀ r, addc a b c = r →
      (s.aluWrite p f fun a b => (addc a b c, s.flags.addFlags a b c)).Gives fun t =>
        s.Commits t ∧ s.Writes t p (f.width p) f.dst r ∧ s.flags.AfterAdd t.flags a b c r := by
  rintro a b _ rfl
  obtain ⟨t, e, commits, -, writes, flags⟩ := s.aluWrite_reaches p f (fun a b => (addc a b c, s.flags.addFlags a b c)) h
  refine ⟨t, e, commits, writes, ?_⟩
  rw [flags]
  exact Flags.addFlags_afterN (Width.bits_cases _) _ _ _ _

/-- A subtraction, with the difference `r`, into the destination of an ALU form (R262). -/
theorem State.aluWrite_sub_gives (s : State) (p : Prefixes) (f : AluForm) (c : Bool)
    (h : s.Reaches p (f.width p) f.rmOf) :
    let a := s.operand p (f.width p) f.dst
    let b := s.source p f
    ∀ r, subb a b c = r →
      (s.aluWrite p f fun a b => (subb a b c, s.flags.subFlags a b c)).Gives fun t =>
        s.Commits t ∧ s.Writes t p (f.width p) f.dst r ∧ s.flags.AfterSub t.flags a b c r := by
  rintro a b _ rfl
  obtain ⟨t, e, commits, -, writes, flags⟩ := s.aluWrite_reaches p f (fun a b => (subb a b c, s.flags.subFlags a b c)) h
  refine ⟨t, e, commits, writes, ?_⟩
  rw [flags]
  exact Flags.subFlags_afterN (Width.bits_cases _) _ _ _ _

/-- CMP sets the flags of the difference and writes no operand (R269). -/
theorem execCmp_gives (p : Prefixes) (f : AluForm) (s : State) (h : s.Reaches p (f.width p) f.rmOf) :
    let a := s.operand p (f.width p) f.dst
    let b := s.source p f
    ∃ t, exec (.cmp p f) s = .next t ∧ s.Commits t ∧ t.gpr = s.gpr ∧ t.mem = s.mem ∧
      s.flags.AfterSub t.flags a b false (a - b) := by
  intro a b
  show ∃ t, execCmp p f s = .next t ∧ _
  rw [execCmp, s.readRM_reaches p _ _ (s.dst_reaches p f h), s.aluSrc_reaches p f h, ← subb_false]
  exact ⟨_, rfl, State.commit_commits, rfl, rfl, Flags.subFlags_afterN (Width.bits_cases _) _ _ _ _⟩

/-- Settles O1: each instruction is an addition or a subtraction, with the carry or without it. -/
theorem addSubCompareResult : Obligations.AddSubCompareResult := by
  intro p f s h a b c
  exact ⟨(s.aluWrite_add_gives p f false h _ (addc_false a b)).next,
    (s.aluWrite_add_gives p f s.flags.cf h _ rfl).next,
    (s.aluWrite_sub_gives p f false h _ (subb_false a b)).next,
    (s.aluWrite_sub_gives p f s.flags.cf h _ rfl).next,
    execCmp_gives p f s h⟩

/-- INC: the flags of an addition of 1, but for CF (R270). -/
theorem execInc_gives (p : Prefixes) (f : IncForm) (s : State) (h : s.Reaches p (f.width p) f.dst) :
    let a := s.operand p (f.width p) f.dst
    ∃ t, exec (.inc p f) s = .next t ∧ s.Commits t ∧ s.Writes t p (f.width p) f.dst (a + 1) ∧
      t.flags.cf = s.flags.cf ∧ ∃ c, s.flags.AfterAdd { t.flags with cf := c } a 1 false (a + 1) := by
  intro a
  obtain ⟨t, e, commits, -, writes, flags⟩ := s.unary_reaches p _ f.dst (fun a => (addc a 1 false, s.flags.incFlags a)) h
  rw [← addc_false]
  refine ⟨t, congrArg finish e, commits, writes, ?_⟩
  rw [flags]
  exact ⟨rfl, _, Flags.addFlags_afterN (Width.bits_cases _) _ _ _ _⟩

/-- DEC: the flags of a subtraction of 1, but for CF (R271). -/
theorem execDec_gives (p : Prefixes) (f : IncForm) (s : State) (h : s.Reaches p (f.width p) f.dst) :
    let a := s.operand p (f.width p) f.dst
    ∃ t, exec (.dec p f) s = .next t ∧ s.Commits t ∧ s.Writes t p (f.width p) f.dst (a - 1) ∧
      t.flags.cf = s.flags.cf ∧ ∃ c, s.flags.AfterSub { t.flags with cf := c } a 1 false (a - 1) := by
  intro a
  obtain ⟨t, e, commits, -, writes, flags⟩ := s.unary_reaches p _ f.dst (fun a => (subb a 1 false, s.flags.decFlags a)) h
  rw [← subb_false]
  refine ⟨t, congrArg finish e, commits, writes, ?_⟩
  rw [flags]
  exact ⟨rfl, _, Flags.subFlags_afterN (Width.bits_cases _) _ _ _ _⟩

/-- NEG is a subtraction from 0 (R272). -/
theorem execNeg_gives (p : Prefixes) (f : EForm) (s : State) (h : s.Reaches p (f.width p) f.rm) :
    let a := s.operand p (f.width p) f.rm
    ∃ t, exec (.neg p f) s = .next t ∧ s.Commits t ∧ s.Writes t p (f.width p) f.rm (-a) ∧
      s.flags.AfterSub t.flags 0 a false (-a) := by
  intro a
  obtain ⟨t, e, commits, -, writes, flags⟩ :=
    s.unary_reaches p _ f.rm (fun a => (subb 0 a false, s.flags.subFlags 0 a false)) h
  rw [← zero_subb_false]
  refine ⟨t, congrArg finish e, commits, writes, ?_⟩
  rw [flags]
  exact Flags.subFlags_afterN (Width.bits_cases _) _ _ _ _

/-- NOT changes no flag (42_logic_shift_bit.md R323). -/
theorem execNot_gives (p : Prefixes) (f : EForm) (s : State) (h : s.Reaches p (f.width p) f.rm) :
    ∃ t, exec (.not p f) s = .next t ∧ s.Commits t ∧
      s.Writes t p (f.width p) f.rm (~~~s.operand p (f.width p) f.rm) ∧ t.flags = s.flags := by
  obtain ⟨t, e, commits, -, writes, flags⟩ := s.unary_reaches p _ f.rm (fun a => (~~~a, s.flags)) h
  exact ⟨t, congrArg finish e, commits, writes, flags⟩

/-- Settles O2: the four instructions read and write one operand, each with its own value and flags. -/
theorem oneOperandResult : Obligations.OneOperandResult :=
  ⟨fun p f s h => ⟨execInc_gives p f s h, execDec_gives p f s h⟩,
    fun p f s h => ⟨execNeg_gives p f s h, execNot_gives p f s h⟩⟩

end Sys2Proof.Machine
end

section
/-! The accumulator as a whole and by its halves (10_state.md R42, R43). -/

namespace Sys2Proof.Machine

variable (s : State)

theorem State.setR32_setR32 (i : BitVec 3) (v v' : DWord) : (s.setR32 i v).setR32 i v' = s.setR32 i v' := by
  simp [State.setR32]

theorem State.setR16_setR16 (i : BitVec 3) (v v' : Word) : (s.setR16 i v).setR16 i v' = s.setR16 i v' := by
  rw [State.setR16, State.high_setR16]
  exact s.setR32_setR32 i _ _

/-- AX is its two halves. -/
theorem State.r16_rAX : s.r16 rAX = s.r8 rAH ++ s.r8 rAL := by
  show (s.r32 rAX).extractLsb' 0 16 = (s.r32 rAX).extractLsb' 8 8 ++ (s.r32 rAX).extractLsb' 0 8
  exact BitVec.eq_of_getElem_eq fun k hk => by grind

/-- A write of AL is one of AX that keeps AH. -/
theorem State.setR8_rAL (v : Byte) : s.setR8 rAL v = s.setR16 rAX (s.r8 rAH ++ v) := by
  show s.setR32 rAX ((s.r32 rAX).extractLsb' 8 24 ++ v) =
    s.setR32 rAX ((s.r32 rAX).extractLsb' 16 16 ++ ((s.r32 rAX).extractLsb' 8 8 ++ v))
  exact congrArg (s.setR32 rAX) (BitVec.eq_of_getElem_eq fun k hk => by grind)

/-- A write of AH is one of AX that keeps AL. -/
theorem State.setR8_rAH (v : Byte) : s.setR8 rAH v = s.setR16 rAX (v ++ s.r8 rAL) := by
  show s.setR32 rAX ((s.r32 rAX).extractLsb' 16 16 ++ v ++ (s.r32 rAX).extractLsb' 0 8) =
    s.setR32 rAX ((s.r32 rAX).extractLsb' 16 16 ++ (v ++ (s.r32 rAX).extractLsb' 0 8))
  exact congrArg (s.setR32 rAX) (BitVec.eq_of_getElem_eq fun k hk => by grind)

theorem State.setR8_rAL_rAH (l h : Byte) : (s.setR8 rAL l).setR8 rAH h = s.setR16 rAX (h ++ l) := by
  rw [State.setR8_rAH, State.r8_setR8, if_pos rfl, State.setR8_rAL, State.setR16_setR16]

theorem State.setR8_rAH_rAL (h l : Byte) : (s.setR8 rAH h).setR8 rAL l = s.setR16 rAX (h ++ l) := by
  rw [State.setR8_rAL, State.r8_setR8, if_pos rfl, State.setR8_rAH, State.setR16_setR16]

theorem append_and_digit (h l : Byte) : (h ++ l) &&& (0xFF0F : Word) = h ++ (l &&& 0x0F) := by
  have mask : (0xFF0F : Word) = BitVec.allOnes 8 ++ (0x0F : Byte) := rfl
  rw [mask, BitVec.and_append, BitVec.and_allOnes]

/-- AL cut to its low digit: the high digit of AL is cleared in AX. -/
theorem State.setR8_rAL_digit : s.setR8 rAL (s.r8 rAL &&& 0x0F) = s.setR16 rAX (s.r16 rAX &&& 0xFF0F) := by
  rw [State.setR8_rAL, State.r16_rAX]
  exact congrArg (s.setR16 rAX) (append_and_digit _ _).symm

end Sys2Proof.Machine
end

section
/-! MUL and the three IMULs (O3). -/

namespace Sys2Proof.Machine

/-! ### Values of double width (R273) -/

theorem State.setR16_rAX_keeps (s : State) (v : Word) : s.KeepsButDouble (s.setR16 rAX v) .b8 :=
  ⟨fun r hr _ => (s.r32_setR16 rAX r v).trans (if_neg hr), fun _ r => s.high_setR16 rAX r v⟩

/-- What two writes among AX and DX, or EAX and EDX, keep. -/
theorem State.setReg_setReg_keeps (s : State) {w : Width} (hw : w ≠ .b8) {i j : BitVec 3} (hi : i = rAX ∨ i = rDX)
    (hj : j = rAX ∨ j = rDX) (v v' : BitVec w.bits) : s.KeepsButDouble ((s.setReg w i v).setReg w j v') w := by
  refine ⟨fun r ha hd => ?_, fun hw' r => ?_⟩
  · have hd : r ≠ rDX := hd.resolve_left hw
    have other : ∀ k, k = rAX ∨ k = rDX → r ≠ k := by
      rintro k (rfl | rfl)
      · exact ha
      · exact hd
    rw [State.r32_setReg_of_ne _ hw (other j hj), State.r32_setReg_of_ne _ hw (other i hi)]
  · have word : w = .b16 := by cases w <;> simp_all
    rw [State.high_setReg _ hw (.inl word), State.high_setReg _ hw (.inl word)]

section SetDouble

variable (s : State) (w : Width) (v : Nat)

theorem State.setDouble_frame : (s.setDouble w v).frame = s.frame := by cases w <;> rfl

theorem State.setDouble_mem : (s.setDouble w v).mem = s.mem := by cases w <;> rfl

theorem State.setDouble_keeps : s.KeepsButDouble (s.setDouble w v) w := by
  cases w with
  | b8 => exact s.setR16_rAX_keeps _
  | b16 => exact s.setReg_setReg_keeps (w := .b16) (by decide) (.inr rfl) (.inl rfl) _ _
  | b32 => exact s.setReg_setReg_keeps (w := .b32) (by decide) (.inr rfl) (.inl rfl) _ _

/-- The number written is read back modulo the double width. -/
theorem State.setDouble_double : (s.setDouble w v).double w = v % 2 ^ (2 * w.bits) := by
  have ne : rDX ≠ rAX := by decide
  cases w with
  | b8 => exact congrArg BitVec.toNat (s.r16_setR16_self rAX _)
  | b16 =>
    simp only [State.setDouble, State.double, State.r16_setR16, if_neg ne, if_pos, BitVec.toNat_ofNat, Width.bits]
    omega
  | b32 =>
    simp only [State.setDouble, State.double, State.r32_setR32, if_neg ne, if_pos, BitVec.toNat_ofNat, Width.bits]
    omega

end SetDouble

/-! ### Products -/

/-- A signed integer that fits is the value of its bits, and no other integer is. -/
theorem productOverflow_eq (w : Width) (i : Int) : productOverflow w.bits i = decide (¬ FitsSigned w i) := by
  have fits : FitsSigned w i ↔ (BitVec.ofInt w.bits i).toInt = i :=
    ⟨fun ⟨lower, upper⟩ => BitVec.toInt_ofInt_eq_self (by cases w <;> decide) lower upper,
      fun h => h ▸ ⟨BitVec.le_toInt _, BitVec.toInt_lt⟩⟩
  simp [productOverflow, fits, bne, beq_eq_decide, eq_comm]

/-- The product of two signed values fits the double width. -/
theorem toInt_ofInt_mul (w : Width) (a b : BitVec w.bits) :
    (BitVec.ofInt (2 * w.bits) (a.toInt * b.toInt)).toInt = a.toInt * b.toInt := by
  have lower := BitVec.le_toInt_mul_toInt (x := a) (y := b)
  have upper := BitVec.toInt_mul_toInt_le (x := a) (y := b)
  cases w <;> exact BitVec.toInt_ofInt_eq_self (by decide) (by norm_num at *; omega) (by norm_num at *; omega)

/-- The end of MUL and of IMUL with one operand. -/
theorem State.setDouble_gives (s : State) (w : Width) (v : Nat) (ov : Bool) (hv : v < 2 ^ (2 * w.bits)) :
    Exec.Gives (.ok ((s.setDouble w v).setFlags (s.flags.mulFlags s.drawn ov)).useDraw.commit) fun t =>
      s.Commits t ∧ t.mem = s.mem ∧ s.KeepsButDouble t w ∧ t.double w = v ∧
        s.flags.KeepsSystem t.flags ∧ t.flags.cf = ov ∧ t.flags.ofl = t.flags.cf :=
  ⟨_, rfl, State.commit_commits (s.setDouble_frame w v), s.setDouble_mem w v, s.setDouble_keeps w v,
    (s.setDouble_double w v).trans (Nat.mod_eq_of_lt hv), ⟨rfl, rfl, rfl⟩, rfl, rfl⟩

/-- MUL (R273). -/
theorem execMul_gives (p : Prefixes) (f : EForm) (s : State) (h : s.Reaches p (f.width p) f.rm) :
    let w := f.width p
    let a := s.reg w rAX
    let b := s.operand p w f.rm
    ∃ t, exec (.mul p f) s = .next t ∧ s.Commits t ∧ t.mem = s.mem ∧ s.KeepsButDouble t w ∧
      t.double w = a.toNat * b.toNat ∧ s.flags.KeepsSystem t.flags ∧
      t.flags.cf = decide (2 ^ w.bits ≤ a.toNat * b.toNat) ∧ t.flags.ofl = t.flags.cf := by
  intro w a b
  have fits : a.toNat * b.toNat < 2 ^ (2 * w.bits) := Nat.mul_comm 2 w.bits ▸ BitVec.toNat_mul_toNat_lt
  show ∃ t, execMul p f s = .next t ∧ _
  simp only [execMul, s.readRM_reaches p _ _ h, Exec.ok_bind]
  exact (s.setDouble_gives w _ _ fits).next

/-- IMUL with one operand (R274). -/
theorem execImul1_gives (p : Prefixes) (f : EForm) (s : State) (h : s.Reaches p (f.width p) f.rm) :
    let w := f.width p
    let a := s.reg w rAX
    let b := s.operand p w f.rm
    ∃ t, exec (.imul1 p f) s = .next t ∧ s.Commits t ∧ t.mem = s.mem ∧ s.KeepsButDouble t w ∧
      (BitVec.ofNat (2 * w.bits) (t.double w)).toInt = a.toInt * b.toInt ∧ s.flags.KeepsSystem t.flags ∧
      t.flags.cf = decide (¬ FitsSigned w (a.toInt * b.toInt)) ∧ t.flags.ofl = t.flags.cf := by
  intro w a b
  show ∃ t, execImul1 p f s = .next t ∧ _
  simp only [execImul1, s.readRM_reaches p _ _ h, Exec.ok_bind, ← productOverflow_eq]
  refine ((s.setDouble_gives w _ _ (BitVec.isLt _)).mono fun t ht => ?_).next
  obtain ⟨commits, mem, keeps, double, rest⟩ := ht
  refine ⟨commits, mem, keeps, ?_, rest⟩
  rw [double, BitVec.ofNat_toNat, BitVec.setWidth_eq, toInt_ofInt_mul]

/-- The end of IMUL with two or three operands (R275, R276). -/
theorem State.imulInto_gives (s : State) (p : Prefixes) (w : Width) (r : BitVec 3) (a b : BitVec w.bits) :
    Exec.Gives (.ok (s.imulInto w r a b)) fun t =>
      s.Commits t ∧ s.Writes t p w (.reg r) (a * b) ∧ s.flags.KeepsSystem t.flags ∧
        t.flags.cf = decide (¬ FitsSigned w (a.toInt * b.toInt)) ∧ t.flags.ofl = t.flags.cf := by
  have product : BitVec.ofInt w.bits (a.toInt * b.toInt) = a * b := by
    rw [BitVec.ofInt_mul, BitVec.ofInt_toInt, BitVec.ofInt_toInt]
  rw [State.imulInto, product, productOverflow_eq]
  exact ⟨_, rfl, State.commit_commits, ⟨rfl, s.setReg_mem w r _⟩, ⟨rfl, rfl, rfl⟩, rfl, rfl⟩

/-- Settles O3: the product is exact in the double width, and its low half is the product modulo the width. -/
theorem multiplyResult : Obligations.MultiplyResult := by
  refine ⟨fun p f s h => ⟨execMul_gives p f s h, execImul1_gives p f s h⟩, fun p r rm i s h => ⟨?_, ?_⟩⟩
  · show ∃ t, execImul2 p r rm s = .next t ∧ _
    rw [execImul2, s.readRM_reaches p _ _ h]
    exact (s.imulInto_gives p (osW p) r _ _).next
  · show ∃ t, execImul3 p r rm i s = .next t ∧ _
    rw [execImul3, s.readRM_reaches p _ _ h]
    exact (s.imulInto_gives p (osW p) r _ _).next

end Sys2Proof.Machine
end

section
/-! DIV and IDIV, and the divide error (O4). -/

namespace Sys2Proof.Machine

/-! ### Quotient and remainder in their registers (R277) -/

section SetQuotRem

variable (s : State) (w : Width) (q m : BitVec w.bits)

theorem State.setQuotRem_frame : (s.setQuotRem w q m).frame = s.frame := by
  cases w <;> simp [State.setQuotRem, State.frame]

theorem State.setQuotRem_mem : (s.setQuotRem w q m).mem = s.mem := by cases w <;> simp [State.setQuotRem]

theorem State.setQuotRem_keeps : s.KeepsButDouble (s.setQuotRem w q m) w := by
  cases w with
  | b8 =>
    rw [State.setQuotRem, State.setR8_rAL_rAH]
    exact s.setR16_rAX_keeps _
  | b16 => exact s.setReg_setReg_keeps (w := .b16) (by decide) (.inl rfl) (.inr rfl) q m
  | b32 => exact s.setReg_setReg_keeps (w := .b32) (by decide) (.inl rfl) (.inr rfl) q m

theorem State.setQuotRem_quot : (s.setQuotRem w q m).reg w rAX = q := by
  cases w with
  | b8 => exact ((s.setR8 rAL q).r8_setR8 rAH rAL m).trans (s.reg_setReg_self .b8 rAL q)
  | b16 => exact ((s.setR16 rAX q).r16_setR16 rDX rAX m).trans (s.r16_setR16_self rAX q)
  | b32 => exact ((s.setR32 rAX q).r32_setR32 rDX rAX m).trans (s.r32_setR32_self rAX q)

theorem State.setQuotRem_rem : (s.setQuotRem w q m).reg w (remReg w) = m := by
  cases w with
  | b8 => exact (s.setR8 rAL q).reg_setReg_self .b8 rAH m
  | b16 => exact (s.setR16 rAX q).r16_setR16_self rDX m
  | b32 => exact (s.setR32 rAX q).r32_setR32_self rDX m

end SetQuotRem

/-- The end of a division that completes. -/
theorem State.setQuotRem_gives (s : State) (w : Width) (q m : BitVec w.bits) :
    Exec.Gives (.ok ((s.setQuotRem w q m).setFlags (s.flags.undefined s.drawn)).useDraw.commit) fun t =>
      s.Commits t ∧ t.mem = s.mem ∧ s.KeepsButDouble t w ∧ s.flags.KeepsSystem t.flags ∧
        t.reg w rAX = q ∧ t.reg w (remReg w) = m :=
  ⟨_, rfl, State.commit_commits (s.setQuotRem_frame w q m), s.setQuotRem_mem w q m, s.setQuotRem_keeps w q m,
    ⟨rfl, rfl, rfl⟩, s.setQuotRem_quot w q m, s.setQuotRem_rem w q m⟩

/-! ### Division -/

/-- DIV whose quotient exists and fits (R277). -/
theorem execDiv_gives (p : Prefixes) (f : EForm) (s : State) (h : s.Reaches p (f.width p) f.rm) :
    let w := f.width p
    let d := s.operand p w f.rm
    let n := s.double w
    d ≠ 0 → n / d.toNat < 2 ^ w.bits →
      ∃ t, exec (.div p f) s = .next t ∧ s.Commits t ∧ t.mem = s.mem ∧ s.KeepsButDouble t w ∧
        s.flags.KeepsSystem t.flags ∧
        (t.reg w rAX).toNat * d.toNat + (t.reg w (remReg w)).toNat = n ∧ (t.reg w (remReg w)).toNat < d.toNat := by
  intro w d n hd hq
  have positive : 0 < d.toNat := Nat.pos_of_ne_zero fun e => hd (BitVec.eq_of_toNat_eq e)
  have remainder : n % d.toNat < d.toNat := Nat.mod_lt _ positive
  have noError : ¬ (d = 0 ∨ 2 ^ w.bits ≤ n / d.toNat) := not_or.mpr ⟨hd, Nat.not_le.mpr hq⟩
  show ∃ t, execDiv p f s = .next t ∧ _
  simp only [execDiv, s.readRM_reaches p _ _ h, Exec.ok_bind]
  rw [if_neg noError]
  refine ((s.setQuotRem_gives w _ _).mono fun t ht => ?_).next
  obtain ⟨commits, mem, keeps, system, quot, rem⟩ := ht
  refine ⟨commits, mem, keeps, system, ?_⟩
  rw [quot, rem, BitVec.toNat_ofNat, BitVec.toNat_ofNat, Nat.mod_eq_of_lt hq, Nat.mod_eq_of_lt (remainder.trans d.isLt)]
  exact ⟨Nat.div_add_mod' _ _, remainder⟩

theorem execDiv_error (p : Prefixes) (f : EForm) (s : State) (h : s.Reaches p (f.width p) f.rm) :
    let w := f.width p
    let d := s.operand p w f.rm
    d = 0 ∨ 2 ^ w.bits ≤ s.double w / d.toNat → exec (.div p f) s = .next (s.dispatch 0 s.ctx.startIp) := by
  intro w d error
  show execDiv p f s = _
  simp only [execDiv, s.readRM_reaches p _ _ h, Exec.ok_bind]
  rw [if_pos error]
  rfl

theorem signedOverflow_iff (w : Width) (i : Int) : signedOverflow w.bits i = true ↔ ¬ FitsSigned w i := by
  simp only [signedOverflow, FitsSigned, Bool.or_eq_true, decide_eq_true_eq]
  omega

/-- A value smaller in magnitude than a signed value of the width fits it. -/
theorem fitsSigned_of_natAbs_lt {w : Width} {i : Int} {d : BitVec w.bits} (h : i.natAbs < d.toInt.natAbs) :
    FitsSigned w i := by
  have lower := d.le_toInt
  have upper := d.toInt_lt
  constructor <;> omega

/-- IDIV whose quotient exists and fits: it truncates toward zero (R278). -/
theorem execIdiv_gives (p : Prefixes) (f : EForm) (s : State) (h : s.Reaches p (f.width p) f.rm) :
    let w := f.width p
    let d := s.operand p w f.rm
    let m := (BitVec.ofNat (2 * w.bits) (s.double w)).toInt
    d ≠ 0 → FitsSigned w (m.tdiv d.toInt) →
      ∃ t, exec (.idiv p f) s = .next t ∧ s.Commits t ∧ t.mem = s.mem ∧ s.KeepsButDouble t w ∧
        s.flags.KeepsSystem t.flags ∧
        (t.reg w rAX).toInt * d.toInt + (t.reg w (remReg w)).toInt = m ∧
        (t.reg w (remReg w)).toInt.natAbs < d.toInt.natAbs ∧
        ((t.reg w (remReg w)).toInt ≠ 0 → ((t.reg w (remReg w)).toInt < 0 ↔ m < 0)) := by
  intro w d m hd hq
  have nonzero : d.toInt ≠ 0 := fun e => hd (BitVec.eq_of_toInt_eq (by simpa using e))
  have remainder : (m.tmod d.toInt).natAbs < d.toInt.natAbs := by
    rw [Int.natAbs_tmod]
    exact Nat.mod_lt _ (Int.natAbs_pos.mpr nonzero)
  have width : 0 < w.bits := by cases w <;> decide
  have noError : ¬ (d = 0 ∨ signedOverflow w.bits (m.tdiv d.toInt) = true) := by
    rw [signedOverflow_iff]
    exact not_or.mpr ⟨hd, not_not.mpr hq⟩
  show ∃ t, execIdiv p f s = .next t ∧ _
  simp only [execIdiv, s.readRM_reaches p _ _ h, Exec.ok_bind]
  rw [if_neg noError]
  refine ((s.setQuotRem_gives w _ _).mono fun t ht => ?_).next
  obtain ⟨commits, mem, keeps, system, quot, rem⟩ := ht
  obtain ⟨lower, upper⟩ := fitsSigned_of_natAbs_lt remainder
  obtain ⟨lower', upper'⟩ := hq
  refine ⟨commits, mem, keeps, system, ?_⟩
  rw [quot, rem, BitVec.toInt_ofInt_eq_self width lower' upper', BitVec.toInt_ofInt_eq_self width lower upper]
  refine ⟨Int.tdiv_mul_add_tmod _ _, remainder, fun ne => ?_⟩
  have sign := Int.sign_tmod m d.toInt
  rw [if_neg fun dvd => ne (Int.tmod_eq_zero_of_dvd dvd)] at sign
  rw [← Int.sign_eq_neg_one_iff_neg, sign, Int.sign_eq_neg_one_iff_neg]

theorem execIdiv_error (p : Prefixes) (f : EForm) (s : State) (h : s.Reaches p (f.width p) f.rm) :
    let w := f.width p
    let d := s.operand p w f.rm
    d = 0 ∨ ¬ FitsSigned w ((BitVec.ofNat (2 * w.bits) (s.double w)).toInt.tdiv d.toInt) →
      exec (.idiv p f) s = .next (s.dispatch 0 s.ctx.startIp) := by
  intro w d error
  rw [← signedOverflow_iff] at error
  show execIdiv p f s = _
  simp only [execIdiv, s.readRM_reaches p _ _ h, Exec.ok_bind]
  rw [if_pos error]
  rfl

/-- Settles O4: the two divisions complete, or raise the divide error, by one condition; AAM 0 always raises it. -/
theorem divideResult : Obligations.DivideResult :=
  ⟨fun p f s h => ⟨execDiv_gives p f s h, execIdiv_gives p f s h⟩,
    fun p f s h => ⟨execDiv_error p f s h, execIdiv_error p f s h⟩, fun _ _ => rfl⟩

end Sys2Proof.Machine
end

section
/-! The decimal adjustments (O5). -/

namespace Sys2Proof.Machine

/-- The low digit of AL is AL modulo 16. -/
theorem State.lowAdjust_eq (s : State) : s.lowAdjust = (decide (9 < (s.r8 rAL).toNat % 16) || s.flags.af) := by
  have digit : (s.r8 rAL &&& 0x0F).toNat = (s.r8 rAL).toNat % 16 := Nat.and_two_pow_sub_one_eq_mod _ 4
  rw [State.lowAdjust, digit]

/-- The end of DAA and DAS, where AL has been adjusted to `v` (R279, R280). -/
theorem State.adjusted_gives (s : State) (p : Prefixes) {u v : Byte} (hu : u = v) :
    Exec.Gives (.ok (s.adjusted u)) fun t =>
      s.Commits t ∧ s.Writes t p .b8 (.reg rAL) v ∧ t.flags.Shows v ∧ t.flags.cf = s.highAdjust ∧
        t.flags.af = (decide (9 < (s.r8 rAL).toNat % 16) || s.flags.af) ∧ s.flags.KeepsSystem t.flags := by
  subst hu
  exact ⟨_, rfl, State.commit_commits (by simp [State.frame]), ⟨rfl, s.setReg_mem .b8 rAL u⟩, s.flags.setSZP_shows u, rfl,
    s.lowAdjust_eq, rfl, rfl, rfl⟩

theorem State.setR16_r16 (s : State) (i : BitVec 3) : s.setR16 i (s.r16 i) = s :=
  congrArg (fun g => { s with gpr := g }) (s.setR16_r16_gpr i)

/-- The end of AAA and AAS, where AX has been adjusted to `v` (R281, R282). -/
theorem State.asciiAdjusted_gives (s : State) (p : Prefixes) {u : State} {v : Word} (hu : u = s.setR16 rAX v) :
    Exec.Gives (.ok (s.asciiAdjusted u)) fun t =>
      s.Commits t ∧ t.flags.cf = s.lowAdjust ∧ t.flags.af = s.lowAdjust ∧ s.flags.KeepsSystem t.flags ∧
        s.Writes t p .b16 (.reg rAX) (v &&& 0xFF0F) := by
  rw [State.asciiAdjusted, State.setR8_rAL_digit, hu, State.r16_setR16_self, State.setR16_setR16]
  exact ⟨_, rfl, State.commit_commits, rfl, rfl, ⟨rfl, rfl, rfl⟩, rfl, rfl⟩

/-- AAA and AAS: a needed adjustment makes AX `x`, or AH `h` and AL `l`, as P_AAA names (R281, R282). -/
theorem State.asciiAdjust_gives (s : State) (p : Prefixes) (x : Word) (h l : Byte) :
    let lo := decide (9 < (s.r8 rAL).toNat % 16) || s.flags.af
    Exec.Gives (.ok (s.asciiAdjusted
        (if s.lowAdjust then
          match s.par.aaa with
          | .ax => s.setR16 rAX x
          | .ah => (s.setR8 rAL l).setR8 rAH h
        else s))) fun t =>
      s.Commits t ∧ t.flags.cf = lo ∧ t.flags.af = lo ∧ s.flags.KeepsSystem t.flags ∧
        s.Writes t p .b16 (.reg rAX)
          (if lo then
            match s.par.aaa with
            | .ax => x &&& 0xFF0F
            | .ah => h ++ (l &&& 0x0F)
          else s.r16 rAX &&& 0xFF0F) := by
  intro lo
  have low : s.lowAdjust = lo := s.lowAdjust_eq
  rw [← low]
  split
  · cases s.par.aaa with
    | ax => exact s.asciiAdjusted_gives p rfl
    | ah =>
      have adjusted := s.asciiAdjusted_gives p (s.setR8_rAL_rAH l h)
      rwa [append_and_digit] at adjusted
  · exact s.asciiAdjusted_gives p (s.setR16_r16 rAX).symm

/-- The end of AAM and AAD (R283, R284). -/
theorem State.baseAdjusted_gives (s : State) (p : Prefixes) (h l : Byte) :
    Exec.Gives (.ok (s.baseAdjusted h l)) fun t =>
      s.Commits t ∧ s.Writes t p .b16 (.reg rAX) (h ++ l) ∧ t.flags.Shows l ∧ s.flags.KeepsSystem t.flags := by
  rw [State.baseAdjusted, State.setR8_rAH_rAL]
  exact ⟨_, rfl, State.commit_commits, ⟨rfl, rfl⟩, s.flags.setSZP_shows l, rfl, rfl, rfl⟩

/-- AAM divides AL by the base (R283). -/
theorem execAam_gives (p : Prefixes) (s : State) (base : Byte) (h : base ≠ 0) :
    ∃ t, exec (.aam p base) s = .next t ∧ s.Commits t ∧
      s.Writes t p .b16 (.reg rAX) ((s.r8 rAL / base) ++ (s.r8 rAL % base)) ∧ t.flags.Shows (s.r8 rAL % base) ∧
      s.flags.KeepsSystem t.flags := by
  show ∃ t, execAam p base s = .next t ∧ _
  rw [execAam, if_neg h]
  exact (s.baseAdjusted_gives p _ _).next

/-- AAD joins the two digits in AL and clears AH (R284). -/
theorem execAad_gives (p : Prefixes) (s : State) (base : Byte) :
    ∃ t, exec (.aad p base) s = .next t ∧ s.Commits t ∧
      s.Writes t p .b16 (.reg rAX) ((s.r8 rAL + s.r8 rAH * base).setWidth 16) ∧
      t.flags.Shows (s.r8 rAL + s.r8 rAH * base) ∧ s.flags.KeepsSystem t.flags := by
  rw [BitVec.setWidth_eq_append (by decide)]
  exact (s.baseAdjusted_gives p 0 _).next

/-- Settles O5: each instruction is one of three ends, with the value that its rule computes. -/
theorem decimalAdjust : Obligations.DecimalAdjust := by
  intro p s al lo hi sum dif
  have low : s.lowAdjust = lo := s.lowAdjust_eq
  have added := congrArg (fun b : Bool => al + (if b then 6 else 0) + (if hi then 0x60 else 0)) low
  have subtracted := congrArg (fun b : Bool => al - (if b then 6 else 0) - (if hi then 0x60 else 0)) low
  have both : s.r16 rAX - 6 - 0x0100 = s.r16 rAX - 0x0106 := sub_sub _ _ _
  refine ⟨(s.adjusted_gives p added).next, (s.adjusted_gives p subtracted).next, (s.asciiAdjust_gives p _ _ _).next, ?_,
    execAam_gives p s, execAad_gives p s⟩
  rw [← both]
  exact (s.asciiAdjust_gives p _ _ _).next

end Sys2Proof.Machine
end

section
/-! The logical instructions (O6). -/

namespace Sys2Proof.Machine

/-- The counter of the free values is none of what a commit keeps. -/
theorem State.Commits.useDraw {s t : State} (h : s.Commits t) : s.Commits t.useDraw := congrArg State.useDraw h

theorem State.Writes.useDraw {s t : State} {p : Prefixes} {w : Width} {rm : RM} {v : BitVec w.bits}
    (h : s.Writes t p w rm v) : s.Writes t.useDraw p w rm v := by
  cases rm <;> exact h

theorem Flags.logicFlags_after (f : Flags) (d : Nat) {n : Nat} (r : BitVec n) : f.AfterLogic (f.logicFlags d r) r :=
  ⟨f.setSZP_shows r, rfl, rfl, rfl, rfl, rfl⟩

/-- A logical instruction with the result `r` in the destination of an ALU form (42_logic_shift_bit.md R343). -/
theorem State.logicWrite_gives (s : State) (p : Prefixes) (f : AluForm)
    (op : BitVec (f.width p).bits → BitVec (f.width p).bits → BitVec (f.width p).bits)
    (h : s.Reaches p (f.width p) f.rmOf) :
    let r := op (s.operand p (f.width p) f.dst) (s.source p f)
    (s.logicWrite p f op).Gives fun t =>
      s.Commits t ∧ s.Writes t p (f.width p) f.dst r ∧ s.flags.AfterLogic t.flags r := by
  intro r
  obtain ⟨t, e, commits, -, writes, flags⟩ :=
    s.aluWrite_reaches p f (fun a b => (op a b, s.flags.logicFlags s.drawn (op a b))) h
  refine ⟨t.useDraw, by rw [State.logicWrite, e]; rfl, commits.useDraw, writes.useDraw, ?_⟩
  rw [State.useDraw_flags, flags]
  exact s.flags.logicFlags_after s.drawn r

/-- The end of TEST. -/
theorem State.testFlags_gives (s : State) {n : Nat} (r : BitVec n) :
    Exec.Gives (.ok (s.testFlags r)) fun t =>
      s.Commits t ∧ t.gpr = s.gpr ∧ t.mem = s.mem ∧ s.flags.AfterLogic t.flags r :=
  ⟨_, rfl, State.commit_commits, rfl, rfl, s.flags.logicFlags_after s.drawn r⟩

/-- TEST of an operand that is read and a value that is not (R324). -/
theorem State.readRM_testFlags_gives (s : State) (p : Prefixes) (w : Width) (rm : RM) (b : BitVec w.bits)
    (h : s.Reaches p w rm) :
    Exec.Gives (s.readRM p w rm >>= fun a => .ok (s.testFlags (a &&& b))) fun t =>
      s.Commits t ∧ t.gpr = s.gpr ∧ t.mem = s.mem ∧ s.flags.AfterLogic t.flags (s.operand p w rm &&& b) := by
  rw [s.readRM_reaches p w rm h]
  exact s.testFlags_gives _

theorem execTest_gives (p : Prefixes) (f : TestForm) (s : State) (h : s.Reaches p (f.width p) f.dst) :
    ∃ t, exec (.test p f) s = .next t ∧ s.Commits t ∧ t.gpr = s.gpr ∧ t.mem = s.mem ∧
      s.flags.AfterLogic t.flags (s.operand p (f.width p) f.dst &&& s.testSource p f) := by
  cases f with
  | ebGb rm r | evGv rm r | ebIb rm i | evIz rm i => exact (s.readRM_testFlags_gives p _ rm _ h).next
  | alIb i | eaxIz i => exact (s.testFlags_gives _).next

/-- Settles O6: AND, OR and XOR are one ALU write with the flags of its result, and TEST sets these flags without a write. -/
theorem logicResult : Obligations.LogicResult :=
  ⟨fun p f s h =>
    have gives := fun op => (s.logicWrite_gives p f op h).next
    ⟨gives _, gives _, gives _⟩, execTest_gives⟩

end Sys2Proof.Machine
end

section
/-! What the shifts and rotates share: the end of an instruction that writes its operand and sets the flags with a free value,
and the count of 0 (O7). -/

namespace Sys2Proof.Machine

/-- A write of memory, the flags with a free value, and the commit. -/
theorem State.linWrite_setFlags_gives (s : State) (a n v : Nat) (f : Flags) (hn : n ≤ 2 ^ 20) (h : s.Backed a n) :
    Exec.Gives (s.linWrite a n v >>= fun t => .ok (t.setFlags f).useDraw.commit) fun t =>
      s.Commits t ∧ (t.gpr = s.gpr ∧ s.Stores t a n v) ∧ t.flags = f := by
  obtain ⟨m, e, stores⟩ := s.linWrite_stores a n v h hn
  rw [e]
  exact ⟨_, rfl, State.commit_commits, ⟨rfl, stores⟩, rfl⟩

/-- A write of a register, the flags with a free value, and the commit. -/
theorem State.setReg_setFlags_gives (s : State) (w : Width) (r : BitVec 3) (v : BitVec w.bits) (f : Flags) :
    Exec.Gives (.ok ((s.setReg w r v).setFlags f).useDraw.commit) fun t =>
      s.Commits t ∧ (t.gpr = (s.setReg w r v).gpr ∧ t.mem = s.mem) ∧ t.flags = f :=
  ⟨_, rfl, State.commit_commits, ⟨rfl, s.setReg_mem w r v⟩, rfl⟩

/-- A write of an operand, the flags with a free value, and the commit. -/
theorem State.writeRM_setFlags_gives (s : State) (p : Prefixes) (w : Width) (rm : RM) (v : BitVec w.bits) (f : Flags)
    (h : s.Reaches p w rm) :
    Exec.Gives (s.writeRM p w rm v >>= fun t => .ok (t.setFlags f).useDraw.commit) fun t =>
      s.Commits t ∧ s.Writes t p w rm v ∧ t.flags = f := by
  cases rm with
  | reg r => exact s.setReg_setFlags_gives w r v f
  | mem m => exact s.linWrite_setFlags_gives _ _ v.toNat f w.bytes_le h

section Shift

variable (s : State) (p : Prefixes) (e : EForm) (n : ShiftCount)
  (op : BitVec (e.width p).bits → Nat → BitVec (e.width p).bits × Flags) (h : s.Reaches p (e.width p) e.rm)
include h

theorem State.shift_zero (hn : s.shiftCount n = 0) : s.shift p e n op = .ok s.commit := by
  rw [State.shift, s.readRM_reaches p _ _ h, Exec.ok_bind, if_pos hn]

/-- By a count that is not 0, the operation gives the value written and the flags. -/
theorem State.shift_gives (hn : s.shiftCount n ≠ 0) {v : BitVec (e.width p).bits} {f : Flags}
    (hop : op (s.operand p (e.width p) e.rm) (s.shiftCount n) = (v, f)) :
    (s.shift p e n op).Gives fun t => s.Commits t ∧ s.Writes t p (e.width p) e.rm v ∧ t.flags = f := by
  rw [State.shift, s.readRM_reaches p _ _ h, Exec.ok_bind, if_neg hn, hop]
  exact s.writeRM_setFlags_gives p _ e.rm v f h

end Shift

section DblShift

variable (s : State) (p : Prefixes) (rm : RM) (n : DblCount)
  (op : BitVec (osW p).bits → Nat → BitVec (osW p).bits × Flags) (h : s.Reaches p (osW p) rm)
include h

theorem State.dblShift_zero (hn : s.dblCount n = 0) : s.dblShift p rm n op = .ok s.commit := by
  have within : ¬ (osW p).bits < s.dblCount n := by omega
  simp only [State.dblShift, if_neg within, s.readRM_reaches p _ _ h, Exec.ok_bind, if_pos hn]

/-- By a count that is not 0, the operation gives the value written and the flags; beyond the operand size, where the operand is
not read, whatever stands in its place. -/
theorem State.dblShift_gives (hn : s.dblCount n ≠ 0) {v : BitVec (osW p).bits} {f : Flags}
    (hop : ∀ a, (s.dblCount n ≤ (osW p).bits → a = s.operand p (osW p) rm) → op a (s.dblCount n) = (v, f)) :
    (s.dblShift p rm n op).Gives fun t => s.Commits t ∧ s.Writes t p (osW p) rm v ∧ t.flags = f := by
  simp only [State.dblShift, s.readRM_reaches p _ _ h, Exec.ok_bind, if_neg hn]
  split
  · next beyond =>
    rw [hop 0 fun within => absurd beyond (Nat.not_lt.mpr within)]
    exact s.writeRM_setFlags_gives p _ rm v f h
  · rw [hop _ fun _ => rfl]
    exact s.writeRM_setFlags_gives p _ rm v f h

end DblShift

/-- Settles O7: the count is tested before anything is written. -/
theorem shiftByZero : Obligations.ShiftByZero := by
  refine ⟨fun p f n s h hn => ?_, fun p rm r n s h hn => ?_⟩
  · have zero := fun op => congrArg finish (s.shift_zero p f n op h hn)
    exact ⟨zero _, zero _, zero _, zero _, zero _, zero _, zero _⟩
  · have zero := fun op => congrArg finish (s.dblShift_zero p rm n op h hn)
    exact ⟨zero _, zero _⟩

end Sys2Proof.Machine
end

section
/-! Rotates (O8). -/

namespace Sys2Proof.Machine

theorem rotl_mod {n : Nat} (a : BitVec n) (c : Nat) : rotl a (c % n) = a.rotateLeft c := by
  rw [rotl, BitVec.rotateLeft, BitVec.rotateLeftAux]
  split
  · next e => simp [e, BitVec.ushiftRight_eq_zero]
  · rfl

theorem rotr_mod {n : Nat} (a : BitVec n) (c : Nat) : rotr a (c % n) = a.rotateRight c := by
  rw [rotr, BitVec.rotateRight, BitVec.rotateRightAux]
  split
  · next e => simp [e, BitVec.shiftLeft_eq_zero]
  · rfl

/-- A rotate with the result `v` changes CF and OF alone, and OF is `o` for a count of 1. -/
theorem State.rotate_gives (s : State) (p : Prefixes) (e : EForm) (n : ShiftCount)
    (op : BitVec (e.width p).bits → Nat → BitVec (e.width p).bits × Flags) (h : s.Reaches p (e.width p) e.rm)
    (hn : s.shiftCount n ≠ 0) {v : BitVec (e.width p).bits} {c o : Bool}
    (hop : op (s.operand p (e.width p) e.rm) (s.shiftCount n) =
      (v, { s.flags with cf := c, ofl := if s.shiftCount n = 1 then o else s.drawn.testBit 0 })) :
    ∃ t, finish (s.shift p e n op) = .next t ∧ s.Commits t ∧ s.Writes t p (e.width p) e.rm v ∧
      t.flags = { s.flags with cf := c, ofl := t.flags.ofl } ∧ (s.shiftCount n = 1 → t.flags.ofl = o) := by
  obtain ⟨t, e, commits, writes, flags⟩ := (s.shift_gives p e n op h hn hop).next
  exact ⟨t, e, commits, writes, by rw [flags], fun one => by rw [flags]; exact if_pos one⟩

/-- Settles O8: the rotations by the count modulo n, or n + 1, are those of the library, which reduce it themselves. -/
theorem rotateResult : Obligations.RotateResult := by
  intro p f n s h hn w a cnt l r lc rc
  refine ⟨s.rotate_gives p f n _ h hn ?_, s.rotate_gives p f n _ h hn ?_, s.rotate_gives p f n _ h hn ?_,
    s.rotate_gives p f n _ h hn ?_⟩
  · rw [rolOp, rotl_mod]
  · rw [rorOp, rotr_mod]
  · rw [rclOp, Nat.add_comm w.bits, rotl_mod]
  · rw [rcrOp, Nat.add_comm w.bits, rotr_mod]

end Sys2Proof.Machine
end

section
/-! SHL, SHR and SAR (O9). -/

namespace Sys2Proof.Machine

theorem shiftLeft_eq_ofNat {n : Nat} (a : BitVec n) (c : Nat) : a <<< c = BitVec.ofNat n (a.toNat * 2 ^ c) := by
  apply BitVec.eq_of_toNat_eq
  rw [BitVec.toNat_shiftLeft, Nat.shiftLeft_eq, BitVec.toNat_ofNat]

theorem ushiftRight_eq_ofNat {n : Nat} (a : BitVec n) (c : Nat) : a >>> c = BitVec.ofNat n (a.toNat / 2 ^ c) := by
  rw [← Nat.shiftRight_eq_div_pow, ← BitVec.toNat_ushiftRight, BitVec.ofNat_toNat, BitVec.setWidth_eq]

theorem sshiftRight_eq_ofInt {n : Nat} (a : BitVec n) (c : Nat) :
    a.sshiftRight c = BitVec.ofInt n (a.toInt.fdiv (2 ^ c)) := by
  rw [BitVec.sshiftRight_eq, Int.shiftRight_eq_div_pow, Int.fdiv_eq_ediv_of_nonneg _ (by positivity), Nat.cast_pow,
    Nat.cast_ofNat]

/-- A shift with the result `r` shows it in SF, ZF and PF, and sets CF and OF. -/
theorem State.shift_shows_gives (s : State) (p : Prefixes) (e : EForm) (n : ShiftCount)
    (op : BitVec (e.width p).bits → Nat → BitVec (e.width p).bits × Flags) (h : s.Reaches p (e.width p) e.rm)
    (hn : s.shiftCount n ≠ 0) {r : BitVec (e.width p).bits} {c o a : Bool}
    (hop : op (s.operand p (e.width p) e.rm) (s.shiftCount n) =
      (r, { s.flags.setSZP r with cf := c, ofl := o, af := a })) :
    (s.shift p e n op).Gives fun t => s.Commits t ∧ s.Writes t p (e.width p) e.rm r ∧ t.flags.Shows r ∧
      s.flags.KeepsSystem t.flags ∧ t.flags.cf = c ∧ t.flags.ofl = o := by
  refine (s.shift_gives p e n op h hn hop).mono fun t ht => ?_
  obtain ⟨commits, writes, flags⟩ := ht
  rw [flags]
  exact ⟨commits, writes, s.flags.setSZP_shows r, ⟨rfl, rfl, rfl⟩, rfl, rfl⟩

/-- Settles O9: each shift is the arithmetic on the number that the operand stands for. -/
theorem shiftResult : Obligations.ShiftResult := by
  intro p f n s h hn w a cnt l r q
  have hl : a <<< cnt = l := shiftLeft_eq_ofNat a cnt
  have hr : a >>> cnt = r := ushiftRight_eq_ofNat a cnt
  have hq : a.sshiftRight cnt = q := sshiftRight_eq_ofInt a cnt
  refine ⟨((s.shift_shows_gives p f n _ h hn rfl).mono fun t ht => ?_).next,
    ((s.shift_shows_gives p f n _ h hn rfl).mono fun t ht => ?_).next,
    ((s.shift_shows_gives p f n _ h hn rfl).mono fun t ht => ?_).next⟩
  · obtain ⟨commits, writes, shows, system, cf, ofl⟩ := hl ▸ ht
    exact ⟨commits, writes, shows, system, fun inside => cf.trans (if_pos inside), fun one => cf ▸ ofl.trans (if_pos one)⟩
  · obtain ⟨commits, writes, shows, system, cf, ofl⟩ := hr ▸ ht
    exact ⟨commits, writes, shows, system, fun inside => cf.trans (if_pos inside), fun one => ofl.trans (if_pos one)⟩
  · obtain ⟨commits, writes, shows, system, cf, ofl⟩ := hq ▸ ht
    exact ⟨commits, writes, shows, system, cf, fun one => ofl.trans (if_pos one)⟩

end Sys2Proof.Machine
end

section
/-! SHLD and SHRD (O10). -/

namespace Sys2Proof.Machine

/-! ### The two operations, within the operand size and beyond it -/

/-- A number of double width shifted to the right by at most n: the bits of its upper part come in above those of the lower. -/
theorem double_div_two_pow {n c x y : Nat} (hc : c ≤ n) (hy : y < 2 ^ n) :
    (x * 2 ^ n + y) / 2 ^ c = x <<< (n - c) ||| y >>> c := by
  have split : 2 ^ n = 2 ^ c * 2 ^ (n - c) := by rw [← Nat.pow_add, Nat.add_sub_cancel' hc]
  have low : y >>> c < 2 ^ (n - c) := by
    rw [Nat.shiftRight_eq_div_pow]
    exact Nat.div_lt_of_lt_mul (split ▸ hy)
  rw [← Nat.shiftLeft_add_eq_or_of_lt low, split, Nat.mul_left_comm, Nat.mul_add_div (Nat.two_pow_pos c), Nat.shiftLeft_eq,
    Nat.shiftRight_eq_div_pow]

theorem ushiftRight_or_shiftLeft {n c : Nat} (a b : BitVec n) (hc : c ≤ n) :
    a >>> c ||| b <<< (n - c) = BitVec.ofNat n ((b.toNat * 2 ^ n + a.toNat) / 2 ^ c) := by
  rw [double_div_two_pow hc a.isLt, BitVec.ofNat_or, BitVec.or_comm, ← BitVec.toNat_ushiftRight, BitVec.ofNat_toNat,
    BitVec.setWidth_eq]
  rfl

/-- A shift to the left by c is one to the right by n - c, of which the upper part is taken. -/
theorem shiftLeft_or_ushiftRight {n c : Nat} (a b : BitVec n) (hc : c ≤ n) :
    a <<< c ||| b >>> (n - c) = BitVec.ofNat n ((a.toNat * 2 ^ n + b.toNat) * 2 ^ c / 2 ^ n) := by
  have split : 2 ^ n = 2 ^ (n - c) * 2 ^ c := by rw [← Nat.pow_add, Nat.sub_add_cancel hc]
  have right : (a.toNat * 2 ^ n + b.toNat) * 2 ^ c / 2 ^ n = (a.toNat * 2 ^ n + b.toNat) / 2 ^ (n - c) := by
    conv_lhs => rw [split, Nat.mul_div_mul_right _ _ (Nat.two_pow_pos c), ← split]
  rw [right, ← ushiftRight_or_shiftLeft b a (Nat.sub_le n c), Nat.sub_sub_self hc, BitVec.or_comm]

section Ops

variable {n : Nat} (f : Flags) (d : Nat) (a b : BitVec n) {c : Nat}

theorem shldOp_beyond (hc : n < c) : shldOp f d a b c = (BitVec.ofNat n (d >>> 6), f.undefined d) := if_pos hc

theorem shrdOp_beyond (hc : n < c) : shrdOp f d a b c = (BitVec.ofNat n (d >>> 6), f.undefined d) := if_pos hc

theorem shldOp_within (hc : c ≤ n) :
    let r := BitVec.ofNat n ((a.toNat * 2 ^ n + b.toNat) * 2 ^ c / 2 ^ n)
    shldOp f d a b c = (r, { f.setSZP r with
      cf := a.getLsbD (n - c), ofl := if c = 1 then r.msb ^^ a.msb else d.testBit 0, af := d.testBit 2 }) := by
  rw [shldOp, if_neg (Nat.not_lt.mpr hc), shiftLeft_or_ushiftRight a b hc]

theorem shrdOp_within (hc : c ≤ n) :
    let r := BitVec.ofNat n ((b.toNat * 2 ^ n + a.toNat) / 2 ^ c)
    shrdOp f d a b c = (r, { f.setSZP r with
      cf := a.getLsbD (c - 1), ofl := if c = 1 then r.msb ^^ a.msb else d.testBit 0, af := d.testBit 2 }) := by
  rw [shrdOp, if_neg (Nat.not_lt.mpr hc), ushiftRight_or_shiftLeft a b hc]

end Ops

/-- A double shift within the operand size shows its result `r` and sets CF and OF; beyond it, all but TF, IF and DF is open. -/
theorem State.dblShift_shows_gives (s : State) (p : Prefixes) (rm : RM) (n : DblCount)
    (op : BitVec (osW p).bits → Nat → BitVec (osW p).bits × Flags) (h : s.Reaches p (osW p) rm) (hn : s.dblCount n ≠ 0)
    {r u : BitVec (osW p).bits} {c o free af : Bool} {d : Nat}
    (within : s.dblCount n ≤ (osW p).bits → op (s.operand p (osW p) rm) (s.dblCount n) =
      (r, { s.flags.setSZP r with cf := c, ofl := if s.dblCount n = 1 then o else free, af := af }))
    (beyond : ∀ a, (osW p).bits < s.dblCount n → op a (s.dblCount n) = (u, s.flags.undefined d)) :
    ∃ t v, finish (s.dblShift p rm n op) = .next t ∧ s.Commits t ∧ s.Writes t p (osW p) rm v ∧
      s.flags.KeepsSystem t.flags ∧ (s.dblCount n ≤ (osW p).bits → v = r ∧ t.flags.Shows r ∧ t.flags.cf = c ∧
        (s.dblCount n = 1 → t.flags.ofl = o)) := by
  by_cases hc : s.dblCount n ≤ (osW p).bits
  · obtain ⟨t, e, commits, writes, flags⟩ :=
      (s.dblShift_gives p rm n op h hn fun a ha => ha hc ▸ within hc).next
    refine ⟨t, r, e, commits, writes, ?_⟩
    rw [flags]
    exact ⟨⟨rfl, rfl, rfl⟩, fun _ => ⟨rfl, s.flags.setSZP_shows r, rfl, fun one => if_pos one⟩⟩
  · obtain ⟨t, e, commits, writes, flags⟩ :=
      (s.dblShift_gives p rm n op h hn fun a _ => beyond a (Nat.lt_of_not_le hc)).next
    refine ⟨t, u, e, commits, writes, ?_⟩
    rw [flags]
    exact ⟨⟨rfl, rfl, rfl⟩, fun inside => absurd inside hc⟩

/-- Settles O10: each operation shifts the two operands as one number of double width. -/
theorem doubleShiftResult : Obligations.DoubleShiftResult := fun p rm _ n s h hn =>
  ⟨s.dblShift_shows_gives p rm n _ h hn (shldOp_within _ _ _ _) fun _ => shldOp_beyond _ _ _ _,
    s.dblShift_shows_gives p rm n _ h hn (shrdOp_within _ _ _ _) fun _ => shrdOp_beyond _ _ _ _⟩

end Sys2Proof.Machine
end

section
/-! BT, BTS, BTR and BTC (O11): each is a read, and a write, at the place that holds the bit, a register or a linear address. -/

namespace Sys2Proof.Machine

/-! ### The operand of a bit test by its place -/

/-- An access at the place touches only backed memory, as `State.Reaches` says of an r/m operand. -/
def State.ReachesLoc (s : State) (w : Width) : BitLoc → Prop
  | .reg _ => True
  | .lin a => s.Backed a w.bytes

/-- What the place holds, as `State.operand`. -/
def State.locOperand (s : State) (w : Width) : BitLoc → BitVec w.bits
  | .reg r => s.reg w r
  | .lin a => BitVec.ofNat w.bits (s.bytesAt a w.bytes)

/-- Only the place changes, and holds `v`, as `State.Writes`. -/
def State.WritesLoc (s t : State) (w : Width) (v : BitVec w.bits) : BitLoc → Prop
  | .reg r => t.gpr = (s.setReg w r v).gpr ∧ t.mem = s.mem
  | .lin a => t.gpr = s.gpr ∧ s.Stores t a w.bytes v.toNat

/-- The place of an r/m operand. -/
def State.rmLoc (s : State) (p : Prefixes) : RM → BitLoc
  | .reg r => .reg r
  | .mem m => .lin (s.memAddr p m)

section Places

variable (s : State) (w : Width) (l : BitLoc) (h : s.ReachesLoc w l)
include h

theorem State.readLoc_reaches : s.readLoc w l = .ok (s.locOperand w l) := by
  cases l with
  | reg r => rfl
  | lin a => exact s.linReadW_backed w a h

theorem State.writeLoc_setFlags_gives (v : BitVec w.bits) (f : Flags) :
    Exec.Gives (s.writeLoc w v l >>= fun t => .ok (t.setFlags f).useDraw.commit) fun t =>
      s.Commits t ∧ s.WritesLoc t w v l ∧ t.flags = f := by
  cases l with
  | reg r => exact s.setReg_setFlags_gives w r v f
  | lin a => exact s.linWrite_setFlags_gives a _ v.toNat f w.bytes_le h

end Places

theorem Flags.bitFlags_after (f : Flags) (d : Nat) (b : Bool) : f.AfterBit (f.bitFlags d b) b := ⟨rfl, rfl, rfl, rfl, rfl⟩

/-! ### The four instructions, by the place and the bit number -/

section BitTests

variable {p : Prefixes} {rm : RM} {i : BitIndex} {s : State} {l : BitLoc} {k : Nat} (hl : s.bitLoc p rm i = (l, k))
  (h : s.ReachesLoc (osW p) l)
include hl h

theorem execBt_gives :
    ∃ t, exec (.bt p rm i) s = .next t ∧ s.Commits t ∧ t.gpr = s.gpr ∧ t.mem = s.mem ∧
      s.flags.AfterBit t.flags ((s.locOperand (osW p) l).getLsbD k) := by
  refine Exec.Gives.next ?_
  simp only [hl, s.readLoc_reaches _ l h, Exec.ok_bind]
  exact ⟨_, rfl, State.commit_commits, rfl, rfl, s.flags.bitFlags_after _ _⟩

theorem State.bitModify_gives (op : BitVec (osW p).bits → BitVec (osW p).bits → BitVec (osW p).bits) :
    let v := s.locOperand (osW p) l
    (s.bitModify p rm i op).Gives fun t => s.Commits t ∧ s.WritesLoc t (osW p) (op v (BitVec.ofNat _ (2 ^ k))) l ∧
      s.flags.AfterBit t.flags (v.getLsbD k) := by
  simp only [State.bitModify, hl, s.readLoc_reaches _ l h, Exec.ok_bind]
  refine (s.writeLoc_setFlags_gives _ l h _ _).mono fun t ht => ?_
  obtain ⟨commits, writes, flags⟩ := ht
  exact ⟨commits, writes, flags ▸ s.flags.bitFlags_after _ _⟩

end BitTests

/-! ### The place of an operand -/

/-- The bit number stays within the operand, but for a register bit number of a memory operand (R335). -/
theorem State.bitLoc_eq_rmLoc (s : State) (p : Prefixes) (rm : RM) (i : BitIndex) (hi : rm.isMem = true → ∃ b, i = .imm b) :
    s.bitLoc p rm i = (s.rmLoc p rm, s.bitNumber (osW p) i) := by
  cases rm with
  | reg r => cases i <;> rfl
  | mem m =>
    obtain ⟨b, rfl⟩ := hi rfl
    rfl

/-- A signed bit number beyond the operand (R335). -/
theorem State.bitLoc_mem_reg (s : State) (p : Prefixes) (m : Mem) (x : BitVec 3) :
    let k := (s.reg (osW p) x).toInt
    s.bitLoc p (.mem m) (.reg x) =
      (.lin (s.lin (s.seg p m) (s.ea m + BitVec.ofInt 16 ((osW p).bytes * k.fdiv (osW p).bits))),
        (k.fmod (osW p).bits).toNat) := by
  intro k
  rw [Int.fdiv_eq_ediv_of_nonneg _ (Int.natCast_nonneg _), Int.fmod_eq_emod_of_nonneg _ (Int.natCast_nonneg _)]
  rfl

/-- Settles O11: the two cases differ in the place and the bit number alone. -/
theorem bitTestResult : Obligations.BitTestResult := by
  refine ⟨fun p rm i s h hi => ?_, fun p m x s => ?_⟩
  · have loc := s.bitLoc_eq_rmLoc p rm i hi
    have reaches : s.ReachesLoc (osW p) (s.rmLoc p rm) := by cases rm <;> exact h
    have bt := execBt_gives loc reaches
    have modify := fun op => (State.bitModify_gives loc reaches op).next
    cases rm <;> exact ⟨bt, modify _, modify _, modify _⟩
  · intro w k a h
    have loc := s.bitLoc_mem_reg p m x
    have modify := fun op => (State.bitModify_gives loc h op).next
    simp only [State.WritesLoc, and_assoc] at modify
    exact ⟨execBt_gives loc h, modify _, modify _, modify _⟩

end Sys2Proof.Machine
end

section
/-! BSF, BSR and SETcc (O12). -/

namespace Sys2Proof.Machine

section Bits

variable {n : Nat} {v : BitVec n} {i : Nat}

theorem lowestBit_eq_some (h : lowestBit v = some i) : v.getLsbD i = true ∧ ∀ j, j < i → v.getLsbD j = false := by
  obtain ⟨bit, -, below⟩ := List.find?_range_eq_some.mp h
  exact ⟨bit, fun j hj => by simpa using below j hj⟩

/-- The bits above the one found are those that the search has passed: the numbers after it in the falling list are less. -/
theorem highestBit_eq_some (h : highestBit v = some i) : v.getLsbD i = true ∧ ∀ j, i < j → v.getLsbD j = false := by
  obtain ⟨bit, passed, rest, split, clear⟩ := List.find?_eq_some_iff_append.mp h
  refine ⟨bit, fun j hj => ?_⟩
  rcases Nat.lt_or_ge j n with inside | outside
  · have falling : (passed ++ i :: rest).Pairwise (· > ·) := split ▸ List.pairwise_reverse.mpr List.pairwise_lt_range
    have listed : j ∈ passed ++ i :: rest := split ▸ List.mem_reverse.mpr (List.mem_range.mpr inside)
    obtain ⟨-, tail, -⟩ := List.pairwise_append.mp falling
    have notAfter : j ∉ i :: rest := fun after => by
      rcases List.mem_cons.mp after with rfl | after
      · exact Nat.lt_irrefl _ hj
      · exact Nat.lt_asymm hj (List.rel_of_pairwise_cons tail after)
    simpa using clear j ((List.mem_append.mp listed).resolve_right notAfter)
  · exact BitVec.getLsbD_of_ge v j outside

/-- A search through all bits finds none just in 0. -/
theorem find?_bit_isNone (v : BitVec n) {l : List Nat} (hl : ∀ k, k < n → k ∈ l) :
    (l.find? fun k => v.getLsbD k).isNone = decide (v = 0) := by
  rw [Bool.eq_iff_iff, Option.isNone_iff_eq_none, List.find?_eq_none, decide_eq_true_iff]
  constructor
  · intro none
    refine BitVec.eq_of_getLsbD_eq fun k hk => ?_
    simpa using none k (hl k hk)
  · rintro rfl
    simp

theorem lowestBit_isNone (v : BitVec n) : (lowestBit v).isNone = decide (v = 0) :=
  find?_bit_isNone v fun _ hk => List.mem_range.mpr hk

theorem highestBit_isNone (v : BitVec n) : (highestBit v).isNone = decide (v = 0) :=
  find?_bit_isNone v fun _ hk => List.mem_reverse.mpr (List.mem_range.mpr hk)

end Bits

/-- The end of a bit scan of `v` whose search, if it finds a bit, finds one of which `Q` holds (R340). -/
theorem State.scanned_gives (s : State) (p : Prefixes) (w : Width) (r : BitVec 3) {v : BitVec w.bits} {i : Option Nat}
    {Q : Nat → Prop} (absent : i.isNone = decide (v = 0)) (found : ∀ k, i = some k → v.getLsbD k = true ∧ Q k) :
    ∃ t x, finish (.ok (s.scanned w r i)) = .next t ∧ s.Commits t ∧ s.Writes t p w (.reg r) x ∧
      s.flags.KeepsSystem t.flags ∧ t.flags.zf = decide (v = 0) ∧ (v ≠ 0 → v.getLsbD x.toNat = true ∧ Q x.toNat) := by
  refine ⟨s.scanned w r i, _, rfl, State.commit_commits, ⟨rfl, s.setReg_mem w r _⟩, ⟨rfl, rfl, rfl⟩, absent, fun nonzero => ?_⟩
  cases i with
  | none => exact absurd (of_decide_eq_true absent.symm) nonzero
  | some k =>
    obtain ⟨bit, holds⟩ := found k rfl
    have number : (BitVec.ofNat w.bits k).toNat = k :=
      Nat.mod_eq_of_lt ((BitVec.lt_of_getLsbD bit).trans Nat.lt_two_pow_self)
    rw [Option.getD_some, number]
    exact ⟨bit, holds⟩

theorem execBsf_gives (p : Prefixes) (r : BitVec 3) (rm : RM) (s : State) (h : s.Reaches p (osW p) rm) :
    let v := s.operand p (osW p) rm
    ∃ t x, exec (.bsf p r rm) s = .next t ∧ s.Commits t ∧ s.Writes t p (osW p) (.reg r) x ∧ s.flags.KeepsSystem t.flags ∧
      t.flags.zf = decide (v = 0) ∧ (v ≠ 0 → v.getLsbD x.toNat = true ∧ ∀ i, i < x.toNat → v.getLsbD i = false) := by
  show ∃ t x, execBsf p r rm s = .next t ∧ _
  rw [execBsf, s.readRM_reaches p _ rm h]
  exact s.scanned_gives p _ r (lowestBit_isNone _) fun _ => lowestBit_eq_some

theorem execBsr_gives (p : Prefixes) (r : BitVec 3) (rm : RM) (s : State) (h : s.Reaches p (osW p) rm) :
    let v := s.operand p (osW p) rm
    ∃ t x, exec (.bsr p r rm) s = .next t ∧ s.Commits t ∧ s.Writes t p (osW p) (.reg r) x ∧ s.flags.KeepsSystem t.flags ∧
      t.flags.zf = decide (v = 0) ∧ (v ≠ 0 → v.getLsbD x.toNat = true ∧ ∀ i, x.toNat < i → v.getLsbD i = false) := by
  show ∃ t x, execBsr p r rm s = .next t ∧ _
  rw [execBsr, s.readRM_reaches p _ rm h]
  exact s.scanned_gives p _ r (highestBit_isNone _) fun _ => highestBit_eq_some

/-- Settles O12: a scan ends with the first bit of its search, and SETcc is a store of one byte. -/
theorem bitScanAndSet : Obligations.BitScanAndSet :=
  ⟨fun p r rm s h => ⟨execBsf_gives p r rm s h, execBsr_gives p r rm s h⟩,
    fun p _ rm s h => (s.storeRM_gives p .b8 rm _ h).next⟩

end Sys2Proof.Machine
end

section
/-! One iteration of a string instruction (O20): what its reads and its write give where they are backed, and where the index
registers stand then. -/

namespace Sys2Proof.Machine

/-- An instruction in its byte form or in that of the operand size, both of which run `r` at their width. -/
theorem exec_at_width {p : Prefixes} {w : Width} (hw : w = .b8 ∨ w = osW p) {i j : Instr} {s : State}
    (r : Width → Exec State) (hi : exec i s = finish (r .b8)) (hj : exec j s = finish (r (osW p))) :
    exec (if w = .b8 then i else j) s = finish (r w) := by
  rcases hw with rfl | rfl
  · exact hi
  · rw [if_neg (osW_ne_b8 p)]
    exact hj

section Iterations

variable {s : State} {p : Prefixes} {w : Width}

/-- Without a repeat prefix a string instruction, at each of its widths, is one iteration and a commit (R380). -/
theorem exec_string_once {iter : Width → State → Exec State} {u : State} (h : iter w s = .ok u) (hr : p.rep = none)
    (hw : w = .b8 ∨ w = osW p) {i j : Instr} {stop : State → Bool}
    (hi : exec i s = finish (s.string p (iter .b8) stop)) (hj : exec j s = finish (s.string p (iter (osW p)) stop)) :
    exec (if w = .b8 then i else j) s = .next u.commit := by
  rw [exec_at_width hw (fun v => s.string p (iter v) stop) hi hj, State.string, hr]
  exact congrArg (fun r => finish (r >>= fun v => .ok v.commit)) h

theorem Exec.Gives.exec_string_once {P : State → Prop} {iter : Width → State → Exec State}
    (h : (iter w s).Gives fun u => P u.commit) (hr : p.rep = none) (hw : w = .b8 ∨ w = osW p) {i j : Instr}
    {stop : State → Bool} (hi : exec i s = finish (s.string p (iter .b8) stop))
    (hj : exec j s = finish (s.string p (iter (osW p)) stop)) :
    ∃ t, exec (if w = .b8 then i else j) s = .next t ∧ P t := by
  obtain ⟨u, e, hu⟩ := h
  exact ⟨_, Machine.exec_string_once e hr hw hi hj, hu⟩

/-- The value of width `w` at the string source. -/
def State.strSrcVal (s : State) (p : Prefixes) (w : Width) : BitVec w.bits :=
  BitVec.ofNat w.bits (s.bytesAt (s.strSrc p) w.bytes)

/-- The value of width `w` at the string destination. -/
def State.strDstVal (s : State) (w : Width) : BitVec w.bits := BitVec.ofNat w.bits (s.bytesAt s.strDst w.bytes)

theorem State.readSrc (hs : s.Backed (s.strSrc p) w.bytes) : s.linReadW w (s.strSrc p) = .ok (s.strSrcVal p w) :=
  s.linReadW_backed w _ hs

theorem State.readDst (hd : s.Backed s.strDst w.bytes) : s.linReadW w s.strDst = .ok (s.strDstVal w) :=
  s.linReadW_backed w _ hd

theorem State.movsIter_gives (hs : s.Backed (s.strSrc p) w.bytes) (hd : s.Backed s.strDst w.bytes) :
    (State.movsIter p w s).Gives fun u => s.Commits u.commit ∧ u.flags = s.flags ∧
      u.gpr = ((s.stepSi w).stepDi w).gpr ∧ s.Stores u s.strDst w.bytes (s.strSrcVal p w).toNat := by
  obtain ⟨m, written, stores⟩ := s.linWrite_stores s.strDst w.bytes (s.strSrcVal p w).toNat hd w.bytes_le
  rw [State.movsIter, State.readSrc hs, Exec.ok_bind, written]
  exact ⟨_, rfl, State.commit_commits rfl, rfl, rfl, stores⟩

theorem State.cmpsIter_gives (hs : s.Backed (s.strSrc p) w.bytes) (hd : s.Backed s.strDst w.bytes) :
    (State.cmpsIter p w s).Gives fun u => s.Commits u.commit ∧ u.mem = s.mem ∧ u.gpr = ((s.stepSi w).stepDi w).gpr ∧
      s.flags.AfterSub u.flags (s.strSrcVal p w) (s.strDstVal w) false (s.strSrcVal p w - s.strDstVal w) := by
  rw [State.cmpsIter, State.readSrc hs, Exec.ok_bind, State.readDst hd, ← subb_false]
  exact ⟨_, rfl, State.commit_commits rfl, rfl, rfl, Flags.subFlags_afterN (Width.bits_cases w) _ _ _ _⟩

theorem State.scasIter_gives (hd : s.Backed s.strDst w.bytes) :
    (State.scasIter w s).Gives fun u => s.Commits u.commit ∧ u.mem = s.mem ∧ u.gpr = (s.stepDi w).gpr ∧
      s.flags.AfterSub u.flags (s.reg w rAX) (s.strDstVal w) false (s.reg w rAX - s.strDstVal w) := by
  rw [State.scasIter, State.readDst hd, ← subb_false]
  exact ⟨_, rfl, State.commit_commits rfl, rfl, rfl, Flags.subFlags_afterN (Width.bits_cases w) _ _ _ _⟩

theorem State.lodsIter_gives (hs : s.Backed (s.strSrc p) w.bytes) :
    (State.lodsIter p w s).Gives fun u => s.Commits u.commit ∧ u.flags = s.flags ∧ u.mem = s.mem ∧
      let v := s.setReg w rAX (s.strSrcVal p w)
      u.gpr = (v.setR16 rSI (v.r16 rSI + s.strStep w)).gpr := by
  rw [State.lodsIter, State.readSrc hs, Exec.ok_bind]
  refine ⟨_, rfl, State.commit_commits ?_, s.setReg_flags w rAX _, s.setReg_mem w rAX _, ?_⟩
  · rw [s.setReg_eq]
    rfl
  · rw [State.stepSi, State.strStep, s.setReg_flags, State.strStep]

theorem State.stosIter_gives (hd : s.Backed s.strDst w.bytes) :
    (State.stosIter w s).Gives fun u => s.Commits u.commit ∧ u.flags = s.flags ∧ u.gpr = (s.stepDi w).gpr ∧
      s.Stores u s.strDst w.bytes (s.reg w rAX).toNat := by
  obtain ⟨m, written, stores⟩ := s.linWrite_stores s.strDst w.bytes (s.reg w rAX).toNat hd w.bytes_le
  rw [State.stosIter, written]
  exact ⟨_, rfl, State.commit_commits rfl, rfl, rfl, stores⟩

/-- The port is read before the store, and its value is what is stored (R387). -/
theorem State.insIter_gives (hd : s.Backed s.strDst w.bytes) :
    let v := (s.ioRead (s.r16 rDX) w.bytes).1
    (State.insIter w s).Gives fun u => u.commit = { s.stepDi w with
        mem := u.mem, events := s.events ++ [.ioRead (s.r16 rDX) w.bytes v], draws := u.draws, ip := s.ctx.nextIp
        shadow := false } ∧
      s.Stores u s.strDst w.bytes v := by
  intro v
  obtain ⟨m, written, stores⟩ := (s.ioRead (s.r16 rDX) w.bytes).2.linWrite_stores s.strDst w.bytes v hd w.bytes_le
  refine ⟨State.stepDi { (s.ioRead (s.r16 rDX) w.bytes).2 with mem := m } w, ?_, rfl, stores⟩
  rw [State.insIter]
  exact congrArg (· >>= fun u => .ok (u.stepDi w)) written

theorem State.outsIter_backed (hs : s.Backed (s.strSrc p) w.bytes) :
    State.outsIter p w s = .ok ((s.ioWrite (s.r16 rDX) w.bytes (s.bytesAt (s.strSrc p) w.bytes)).stepSi w) := by
  rw [State.outsIter, State.readSrc hs, Exec.ok_bind, State.strSrcVal, s.toNat_ofNat_bytesAt]

end Iterations

/-- Settles O20: each instruction is its iteration, at the width of its form, and a commit. -/
theorem stringStepResult : Obligations.StringStepResult := by
  refine ⟨fun p s w hr hw => ⟨fun hs hd => ?_, fun hs hd => ?_, fun hd => ?_, fun hs => ?_, fun hd => ?_⟩,
    fun p s w hr hw => ⟨fun hd => ?_, fun hs => ?_⟩⟩
  · exact (State.movsIter_gives hs hd).exec_string_once hr hw rfl rfl
  · exact (State.cmpsIter_gives hs hd).exec_string_once hr hw rfl rfl
  · exact (State.scasIter_gives hd).exec_string_once hr hw rfl rfl
  · exact (State.lodsIter_gives hs).exec_string_once hr hw rfl rfl
  · exact (State.stosIter_gives hd).exec_string_once hr hw rfl rfl
  · obtain ⟨u, e, frame, stores⟩ := State.insIter_gives hd
    exact ⟨_, _, exec_string_once e hr hw rfl rfl, s.ioRead_lt _ w, frame, stores⟩
  · exact exec_string_once (State.outsIter_backed hs) hr hw rfl rfl

end Sys2Proof.Machine
end

section
/-! The repeat prefixes (O21). A string instruction is one iteration, or the loop of it; an iteration leaves the count and the
place of the instruction as they are, or ends in an AddressFault, and that only where memory has a hole. -/

namespace Sys2Proof.Machine

/-! ### How an iteration ends -/

/-- `t` is `s` halted with an AddressFault, but for memory, the event log and the counter of the free values; memory has a
hole. -/
def State.AddressFaults (s t : State) : Prop :=
  ¬ s.par.NoHole ∧ ∃ a, t = { s with
    mem := t.mem, events := t.events, draws := t.draws, run := .faulted (.addressFault a) s.ctx.startCs s.ctx.startIp }

/-- A piece of an instruction goes on with a value of which `P` holds, or ends in an AddressFault of `s`. -/
def Exec.GivesOrFaults {α : Type} (s : State) (P : α → Prop) : Exec α → Prop
  | .ok v => P v
  | .error t => s.AddressFaults t

theorem Exec.GivesOrFaults.bind {α β : Type} {s : State} {P : α → Prop} {Q : β → Prop} {r : Exec α} {k : α → Exec β}
    (hr : r.GivesOrFaults s P) (hk : ∀ v, P v → (k v).GivesOrFaults s Q) : Exec.GivesOrFaults s Q (r >>= k) := by
  cases r with
  | ok v => exact hk v hr
  | error t => exact hr

theorem Exec.GivesOrFaults.gives {α : Type} {s : State} {P : α → Prop} {r : Exec α} (hr : r.GivesOrFaults s P)
    (hole : s.par.NoHole) : r.Gives P := by
  cases r with
  | ok v => exact ⟨v, rfl, hr⟩
  | error t => exact absurd hole hr.1

theorem State.linReadW_givesOrFaults (s : State) (w : Width) (a : Nat) :
    (s.linReadW w a).GivesOrFaults s fun _ => True := by
  by_cases hole : s.par.NoHole
  · rw [s.linReadW_backed w a (s.backed_of_noHole a _ hole)]
    trivial
  · rw [State.linReadW]
    rcases s.linRead_cases a w.bytes with e | ⟨b, e⟩ <;> rw [e]
    · trivial
    · exact ⟨hole, b, rfl⟩

theorem State.linWrite_givesOrFaults (s : State) (a n v : Nat) :
    (s.linWrite a n v).GivesOrFaults s fun t => ∃ m, t = { s with mem := m } := by
  by_cases hole : s.par.NoHole
  · obtain ⟨m, e⟩ := s.linWrite_backed a n v (s.backed_of_noHole a n hole)
    rw [e]
    exact ⟨m, rfl⟩
  · rcases s.linWrite_cases a n v with ⟨m, e⟩ | ⟨m, b, e⟩ <;> rw [e]
    · exact ⟨m, rfl⟩
    · exact ⟨hole, b, rfl⟩

/-- `t` is as `s` in all that the loop and the end of the instruction look at: the count, IP, the shadow, the run state, the
parameters and the step's own names. An update of anything else is `{}`. -/
structure State.InLoop (s t : State) : Prop where
  count : t.r16 rCX = s.r16 rCX := by rfl
  ip : t.ip = s.ip := by rfl
  shadow : t.shadow = s.shadow := by rfl
  run : t.run = s.run := by rfl
  par : t.par = s.par := by rfl
  ctx : t.ctx = s.ctx := by rfl

theorem State.InLoop.stepSi {s t : State} (h : s.InLoop t) (w : Width) : s.InLoop (t.stepSi w) :=
  { h with count := (t.r16_setR16 rSI rCX _).trans h.count }

theorem State.InLoop.stepDi {s t : State} (h : s.InLoop t) (w : Width) : s.InLoop (t.stepDi w) :=
  { h with count := (t.r16_setR16 rDI rCX _).trans h.count }

/-- A write of the accumulator leaves the count. -/
theorem State.r16_rCX_setReg_rAX (s : State) (w : Width) (v : BitVec w.bits) :
    (s.setReg w rAX v).r16 rCX = s.r16 rCX := by
  cases w with
  | b8 => exact congrArg (BitVec.extractLsb' 0 16) (s.r32_setR8 rAX rCX v)
  | b16 => exact s.r16_setR16 rAX rCX v
  | b32 => exact congrArg (BitVec.extractLsb' 0 16) (s.r32_setR32 rAX rCX v)

theorem State.inLoop_setReg_rAX (s : State) (w : Width) (v : BitVec w.bits) : s.InLoop (s.setReg w rAX v) :=
  ⟨s.r16_rCX_setReg_rAX w v, s.setReg_ip w _ v, s.setReg_shadow w _ v, s.setReg_run w _ v, s.setReg_par w _ v,
    s.setReg_ctx w _ v⟩

/-- An iteration stays in the loop, or ends in an AddressFault. -/
def Iterates (iter : State → Exec State) : Prop := ∀ s, (iter s).GivesOrFaults s s.InLoop

theorem State.movsIter_iterates (p : Prefixes) (w : Width) : Iterates (State.movsIter p w) := fun s =>
  (s.linReadW_givesOrFaults w _).bind fun _ _ => (s.linWrite_givesOrFaults _ _ _).bind fun _ ⟨_, e⟩ =>
    e ▸ State.InLoop.stepDi (.stepSi {} w) w

theorem State.cmpsIter_iterates (p : Prefixes) (w : Width) : Iterates (State.cmpsIter p w) := fun s =>
  (s.linReadW_givesOrFaults w _).bind fun _ _ => (s.linReadW_givesOrFaults w _).bind fun _ _ =>
    State.InLoop.stepDi (.stepSi {} w) w

theorem State.scasIter_iterates (w : Width) : Iterates (State.scasIter w) := fun s =>
  (s.linReadW_givesOrFaults w _).bind fun _ _ => State.InLoop.stepDi {} w

theorem State.lodsIter_iterates (p : Prefixes) (w : Width) : Iterates (State.lodsIter p w) := fun s =>
  (s.linReadW_givesOrFaults w _).bind fun v _ => (s.inLoop_setReg_rAX w v).stepSi w

theorem State.stosIter_iterates (w : Width) : Iterates (State.stosIter w) := fun s =>
  (s.linWrite_givesOrFaults _ _ _).bind fun _ ⟨_, e⟩ => e ▸ State.InLoop.stepDi {} w

/-- The port access stays where the store faults: an AddressFault of the state that has it is one of `s`. -/
theorem State.insIter_iterates (w : Width) : Iterates (State.insIter w) := fun s =>
  have store : Exec.GivesOrFaults s _ _ :=
    (s.ioRead (s.r16 rDX) w.bytes).2.linWrite_givesOrFaults s.strDst w.bytes (s.ioRead (s.r16 rDX) w.bytes).1
  store.bind fun _ ⟨_, e⟩ => e ▸ State.InLoop.stepDi {} w

theorem State.outsIter_iterates (p : Prefixes) (w : Width) : Iterates (State.outsIter p w) := fun s =>
  (s.linReadW_givesOrFaults w _).bind fun _ _ => State.InLoop.stepSi {} w

/-! ### The fourteen instructions -/

/-- What ends a repeated string instruction before its count does (R381). -/
def earlyStop (compares : Bool) (r : Rep) (s : State) : Bool := compares && s.flags.zf != decide (r = .rep)

theorem zfStop_rep (p : Prefixes) (r : Rep) : zfStop { p with rep := some r } = earlyStop true r := by
  funext s
  cases r <;> simp [zfStop, earlyStop]

/-- The instruction `mk` at the prefixes `p`, whatever its repeat prefix, is made of the iteration `iter`: alone, or as a loop. -/
structure IsString (mk : Prefixes → Instr) (compares : Bool) (p : Prefixes) (iter : State → Exec State) : Prop where
  iterates : Iterates iter
  once : ∀ s, exec (mk { p with rep := none }) s = finish (iter s >>= fun u => .ok u.commit)
  loop : ∀ r s, exec (mk { p with rep := some r }) s =
    finish (repLoop iter (earlyStop compares r) (s.r16 rCX).toNat s >>= fun u => .ok u.commit)

theorem IsString.of_noStop {mk : Prefixes → Instr} {p : Prefixes} {iter : State → Exec State} (hi : Iterates iter)
    (h : ∀ r s, exec (mk { p with rep := r }) s = finish (s.string { p with rep := r } iter noStop)) :
    ∃ iter, IsString mk false p iter :=
  ⟨iter, hi, h none, fun r => h (some r)⟩

theorem IsString.of_zfStop {mk : Prefixes → Instr} {p : Prefixes} {iter : State → Exec State} (hi : Iterates iter)
    (h : ∀ r s, exec (mk { p with rep := r }) s =
      finish (s.string { p with rep := r } iter (zfStop { p with rep := r }))) :
    ∃ iter, IsString mk true p iter :=
  ⟨iter, hi, h none, fun r s => by rw [← zfStop_rep p]; exact h (some r) s⟩

/-- None of the fourteen iterations looks at the repeat prefix. -/
theorem isString_of_mem (p : Prefixes) : ∀ si ∈ stringInstrs, ∃ iter, IsString si.1 si.2 p iter := by
  simp only [stringInstrs, List.forall_mem_cons]
  exact ⟨IsString.of_noStop (State.movsIter_iterates p .b8) fun _ _ => rfl,
    IsString.of_noStop (State.movsIter_iterates p (osW p)) fun _ _ => rfl,
    IsString.of_zfStop (State.cmpsIter_iterates p .b8) fun _ _ => rfl,
    IsString.of_zfStop (State.cmpsIter_iterates p (osW p)) fun _ _ => rfl,
    IsString.of_zfStop (State.scasIter_iterates .b8) fun _ _ => rfl,
    IsString.of_zfStop (State.scasIter_iterates (osW p)) fun _ _ => rfl,
    IsString.of_noStop (State.lodsIter_iterates p .b8) fun _ _ => rfl,
    IsString.of_noStop (State.lodsIter_iterates p (osW p)) fun _ _ => rfl,
    IsString.of_noStop (State.stosIter_iterates .b8) fun _ _ => rfl,
    IsString.of_noStop (State.stosIter_iterates (osW p)) fun _ _ => rfl,
    IsString.of_noStop (State.insIter_iterates .b8) fun _ _ => rfl,
    IsString.of_noStop (State.insIter_iterates (osW p)) fun _ _ => rfl,
    IsString.of_noStop (State.outsIter_iterates p .b8) fun _ _ => rfl,
    IsString.of_noStop (State.outsIter_iterates p (osW p)) fun _ _ => rfl, nofun⟩

/-! ### The loop -/

/-- Where memory has no hole the loop completes, and without an early stop it takes the count to 0. -/
theorem repLoop_gives {iter : State → Exec State} (hi : Iterates iter) (stop : State → Bool) {n : Nat} {s : State}
    (hole : s.par.NoHole) (hn : (s.r16 rCX).toNat = n) :
    (repLoop iter stop n s).Gives fun t =>
      t.run = s.run ∧ t.ctx = s.ctx ∧ ((∀ u, stop u = false) → t.r16 rCX = 0) := by
  induction n generalizing s with
  | zero => exact ⟨s, rfl, rfl, rfl, fun _ => BitVec.eq_of_toNat_eq hn⟩
  | succ n ih =>
    refine ((hi s).gives hole).bind fun u frame => ?_
    have left : (u.countCx.r16 rCX).toNat = n := by
      rw [State.countCx, State.r16_setR16_self, frame.count]
      bv_omega
    show Exec.Gives (if stop u.countCx then .ok u.countCx else repLoop iter stop n u.countCx) _
    split
    · next stops => exact ⟨_, rfl, frame.run, frame.ctx, fun never => absurd stops (by simp [never])⟩
    · refine (ih (s := u.countCx) (frame.par ▸ hole) left).mono fun t ht => ?_
      obtain ⟨run, ctx, zero⟩ := ht
      exact ⟨run.trans frame.run, ctx.trans frame.ctx, zero⟩

/-- One iteration of the loop, where the count is not 0. -/
theorem repLoop_count {iter : State → Exec State} (stop : State → Bool) {s : State} (h : s.r16 rCX ≠ 0) :
    repLoop iter stop (s.r16 rCX).toNat s = iter s >>= fun u =>
      if stop u.countCx then .ok u.countCx else repLoop iter stop (s.r16 rCX - 1).toNat u.countCx := by
  have count : (s.r16 rCX).toNat = (s.r16 rCX - 1).toNat + 1 := by bv_omega
  rw [count, repLoop]
  rfl

section

variable {mk : Prefixes → Instr} {compares : Bool} {p : Prefixes} {iter : State → Exec State} {s : State}

/-- With CX = 0 nothing happens but the advance of IP. -/
theorem IsString.loop_zero (h : IsString mk compares p iter) (r : Rep) (zero : s.r16 rCX = 0) :
    exec (mk { p with rep := some r }) s = .next s.commit := by
  rw [h.loop, zero]
  rfl

theorem IsString.loop_noHole (h : IsString mk compares p iter) (r : Rep) (hole : s.par.NoHole) :
    ∃ t, exec (mk { p with rep := some r }) s = .next t ∧ t.run = s.run ∧ t.ip = s.ctx.nextIp ∧ t.shadow = false ∧
      (compares = false → t.r16 rCX = 0) := by
  rw [h.loop]
  refine ((repLoop_gives h.iterates (earlyStop compares r) hole rfl).bind fun t ht => ?_).next
  obtain ⟨run, ctx, zero⟩ := ht
  exact ⟨_, rfl, run, congrArg StepCtx.nextIp ctx, rfl, fun never => zero fun u => by simp [earlyStop, never]⟩

/-- After an iteration that goes on the instruction is done, or is repeated from the state that is left. -/
theorem IsString.loop_ok (h : IsString mk compares p iter) (r : Rep) (nonzero : s.r16 rCX ≠ 0) {u : State}
    (e : iter s = .ok u) (count : u.r16 rCX = s.r16 rCX) :
    exec (mk { p with rep := some r }) s =
      if u.countCx.r16 rCX = 0 ∨ (compares = true ∧ u.countCx.flags.zf ≠ decide (r = .rep)) then .next u.countCx.commit
      else exec (mk { p with rep := some r }) u.countCx := by
  have left : s.r16 rCX - 1 = u.countCx.r16 rCX := by rw [State.countCx, State.r16_setR16_self, count]
  have stop : earlyStop compares r u.countCx = true ↔ compares = true ∧ u.countCx.flags.zf ≠ decide (r = .rep) := by
    simp [earlyStop]
  rw [h.loop, repLoop_count _ nonzero, e, Exec.ok_bind, left]
  by_cases early : earlyStop compares r u.countCx = true
  · rw [if_pos early, if_pos (.inr (stop.mp early))]
    rfl
  · rw [if_neg early, ← h.loop]
    split
    · next done => exact h.loop_zero r (done.resolve_right (mt stop.mpr early))
    · rfl

/-- An iteration that ends the instruction ends the repeated one, in the same state. -/
theorem IsString.loop_error (h : IsString mk compares p iter) (r : Rep) (nonzero : s.r16 rCX ≠ 0) {t : State}
    (e : iter s = .error t) : exec (mk { p with rep := some r }) s = .next t := by
  rw [h.loop, repLoop_count _ nonzero, e]
  rfl

/-- What the instruction without a repeat prefix ends in, by how its iteration ends. -/
theorem IsString.once_cases (h : IsString mk compares p iter) {t : State}
    (e : exec (mk { p with rep := none }) s = .next t) :
    (∃ u, iter s = .ok u ∧ t = u.commit ∧ s.InLoop u) ∨ (iter s = .error t ∧ s.AddressFaults t) := by
  have ends := h.iterates s
  rw [h.once] at e
  cases result : iter s with
  | ok u =>
    rw [result] at e ends
    exact .inl ⟨u, rfl, (Host.Outcome.next.inj e).symm, ends⟩
  | error v =>
    rw [result] at e ends
    obtain rfl : v = t := Host.Outcome.next.inj e
    exact .inr ⟨rfl, ends⟩

end

/-- Settles O21: each of the fourteen is the loop of an iteration, which goes on or ends in an AddressFault; where it goes on,
the state that is left differs from that of the instruction without the prefix by the commit and the count. -/
theorem repeatResult : Obligations.RepeatResult := by
  intro p s r si mem
  obtain ⟨iter, h⟩ := isString_of_mem p si mem
  refine ⟨h.loop_noHole r, h.loop_zero r, fun nonzero t e running => ?_, fun nonzero running t e stopped => ?_⟩
  · rcases h.once_cases e with ⟨u, ok, rfl, same⟩ | ⟨-, -, a, faulted⟩
    · have left : { u.commit.setR16 rCX (s.r16 rCX - 1) with ip := s.ip, shadow := s.shadow } = u.countCx := by
        rw [← same.count, ← same.ip, ← same.shadow]
        rfl
      intro v
      rw [show v = u.countCx from left]
      exact h.loop_ok r nonzero ok same.count
    · rw [faulted] at running
      cases running
  · rcases h.once_cases e with ⟨u, -, rfl, same⟩ | ⟨error, -, faulted⟩
    · exact absurd (same.run.trans running) stopped
    · exact ⟨h.loop_error r nonzero error, faulted⟩

end Sys2Proof.Machine
end

section
/-! Targets: the jumps and the conditional jumps to one (O22, O24), and the halt of every transfer to one above FFFFh (O23). -/

namespace Sys2Proof.Machine

/-! ### Targets (R410) -/

section Targets

variable {s : State} {n : Nat} {t : BitVec n}

theorem State.checkTarget_of_le (h : t.toNat ≤ 0xFFFF) : s.checkTarget t = .ok (BitVec.ofNat 16 t.toNat) := by
  rw [State.checkTarget, if_neg (Nat.not_lt.mpr h), BitVec.ofNat_toNat]

/-- A target above FFFFh halts the run, whatever was to follow. -/
theorem State.checkTarget_beyond (h : 0xFFFF < t.toNat) (k : Word → Exec State) :
    finish (s.checkTarget t >>= k) = .next (s.halt (.unsupportedFeature .ipBeyond)) := by
  rw [State.checkTarget, if_pos h]
  rfl

theorem State.setIp_of_le (h : t.toNat ≤ 0xFFFF) : s.setIp t = .ok (s.jump s.cs (BitVec.ofNat 16 t.toNat)) := by
  rw [State.setIp, State.checkTarget_of_le h]
  rfl

end Targets

/-- The sum at operand size is the sum of the integers, modulo 2^w (30_encoding.md R157). -/
theorem State.relTarget_eq (s : State) (p : Prefixes) (r : Rel) :
    s.relTarget (osW p) (relDisp (osW p) r) = s.target p r := by
  cases r with
  | jb d =>
    rw [State.relTarget, State.target, BitVec.ofInt_add, BitVec.ofInt_natCast, BitVec.ofNat_toNat]
    rfl
  | jz d =>
    rw [State.relTarget, State.target, BitVec.ofNat_add, BitVec.ofNat_toNat, BitVec.ofNat_toNat]
    rfl

/-- An immediate that the operand size can hold keeps its value. -/
theorem toNat_immZ {p : Prefixes} {i : DWord} (h : izOk p i = true) : (immZ (osW p) i).toNat = i.toNat := by
  obtain ⟨seg, os32, lock, rep⟩ := p
  cases os32 with
  | true => exact congrArg BitVec.toNat (BitVec.setWidth_eq i)
  | false =>
    have small : i.toNat < 2 ^ 16 := by simpa [izOk] using h
    exact (BitVec.toNat_setWidth 16 i).trans (Nat.mod_eq_of_lt small)

/-! ### Jumps -/

/-- Settles O22: the target is at or below FFFFh, so its check answers it, and the rest is the jump. -/
theorem jumpResult : Obligations.JumpResult := by
  intro p s
  refine ⟨fun d => ?_, fun rm reaches h => ?_, fun off seg fits h => ?_, fun m backed h => ?_⟩
  · intro target h
    show execJmpRel p d s = _
    rw [execJmpRel, s.relTarget_eq, State.setIp_of_le h]
    rfl
  · show execJmpInd p rm s = _
    rw [execJmpInd, s.readRM_reaches p _ rm reaches, Exec.ok_bind, State.setIp_of_le h]
    rfl
  · show execJmpFar p off seg s = _
    rw [← toNat_immZ fits] at h ⊢
    rw [execJmpFar, State.checkTarget_of_le h]
    rfl
  · show execJmpFarInd p m s = _
    rw [← s.toNat_ofNat_bytesAt] at h ⊢
    rw [execJmpFarInd, s.readFar_backed _ _ backed, Exec.ok_bind]
    exact congrArg (fun r => finish (r >>= _)) (State.checkTarget_of_le h)

/-- A conditional jump goes to its target, or past the instruction. -/
theorem State.branch_eq {u : State} {p : Prefixes} {r : Rel} {taken : Bool}
    (h : taken = true → (u.target p r).toNat ≤ 0xFFFF) :
    finish (u.branch (osW p) taken (relDisp (osW p) r)) = .next { u with
      ip := if taken then BitVec.ofNat 16 (u.target p r).toNat else u.ctx.nextIp, shadow := false } := by
  rw [State.branch, u.relTarget_eq]
  cases taken with
  | true =>
    rw [if_pos rfl, State.setIp_of_le (h rfl)]
    rfl
  | false => rfl

theorem State.branch_beyond {u : State} {p : Prefixes} {r : Rel} {taken : Bool} (ht : taken = true)
    (h : 0xFFFF < (u.target p r).toNat) :
    finish (u.branch (osW p) taken (relDisp (osW p) r)) = .next (u.halt (.unsupportedFeature .ipBeyond)) := by
  rw [State.branch, if_pos ht, u.relTarget_eq]
  exact State.checkTarget_beyond h _

/-- CX counted down is not 0 where it was not 1. -/
theorem State.countCx_ne_zero (s : State) : (s.countCx.r16 rCX != 0) = decide (s.r16 rCX ≠ 1) := by
  have : s.r16 rCX - 1 = 0 ↔ s.r16 rCX = 1 := sub_eq_zero
  rw [State.countCx, State.r16_setR16_self, bne, beq_eq_decide, ← decide_not, decide_eq_decide, this]

/-- Settles O24: each instruction is a branch, in the state whose CX is counted down for a LOOP. -/
theorem conditionalJumps : Obligations.ConditionalJumps := by
  intro p s goes u more
  have count := s.countCx_ne_zero
  refine ⟨fun cc d h => ?_, fun cc z h => ?_, fun d => ⟨fun h => ?_, fun h => ?_, fun h => ?_, fun h => ?_⟩⟩
  · exact State.branch_eq (r := .jb d) h
  · exact State.branch_eq (r := .jz z) h
  · show execJcxz p d s = _
    rw [execJcxz, beq_eq_decide]
    exact State.branch_eq (r := .jb d) h
  · show execLoop p d s = _
    rw [execLoop, count]
    exact State.branch_eq (u := s.countCx) (r := .jb d) h
  · show execLoope p d s = _
    rw [execLoope, count]
    exact State.branch_eq (u := s.countCx) (r := .jb d) h
  · show execLoopne p d s = _
    rw [execLoopne, count]
    exact State.branch_eq (u := s.countCx) (r := .jb d) h

/-- Settles O23: the check of the target comes before anything is written, but for the count of a LOOP. -/
theorem targetBeyondHalts : Obligations.TargetBeyondHalts := by
  intro p s os32 beyond
  refine ⟨fun d h => ?_, fun d h => ⟨?_, fun cc taken => ?_⟩, fun d h => ?_, fun rm reaches h => ?_, fun off seg h => ?_,
    fun m backed h => ?_⟩
  · rw [← s.relTarget_eq] at h
    exact State.checkTarget_beyond h _
  · rw [← s.relTarget_eq] at h
    exact State.checkTarget_beyond h _
  · exact State.branch_beyond (r := .jz d) taken h
  · intro u
    have loops : s.r16 rCX ≠ 1 → (s.countCx.r16 rCX != 0) = true := fun ne => by
      rw [s.countCx_ne_zero, decide_eq_true ne]
    have goes {taken : Bool} (ht : taken = true) := State.branch_beyond (u := s.countCx) (r := .jb d) ht h
    refine ⟨fun cc taken => State.branch_beyond (r := .jb d) taken h,
      fun zero => State.branch_beyond (r := .jb d) (beq_iff_eq.mpr zero) h,
      fun ne => ⟨goes (loops ne), fun zf => goes ?_, fun zf => goes ?_⟩⟩
    · rw [loops ne, zf]
      rfl
    · rw [loops ne, zf]
      rfl
  · have read := s.readRM_reaches p _ rm reaches
    constructor
    · show execJmpInd p rm s = _
      rw [execJmpInd, read]
      exact State.checkTarget_beyond h _
    · show execCallInd p rm s = _
      rw [execCallInd, read]
      exact State.checkTarget_beyond h _
  · have fits : izOk p off = true := by rw [izOk, os32, Bool.true_or]
    rw [← toNat_immZ fits] at h
    exact ⟨State.checkTarget_beyond h _, State.checkTarget_beyond h _⟩
  · have read := s.readFar_backed _ _ backed
    rw [← s.toNat_ofNat_bytesAt] at h
    constructor
    · show execJmpFarInd p m s = _
      rw [execJmpFarInd, read]
      exact State.checkTarget_beyond h _
    · show execCallFarInd p m s = _
      rw [execCallFarInd, read]
      exact State.checkTarget_beyond h _

end Sys2Proof.Machine
end

section
/-! Calls (O25): the check of the target, the pushes, and the jump. -/

namespace Sys2Proof.Machine

/-- A jump at the end of an instruction that changed only what `Jumps` leaves open. -/
theorem State.jump_jumps {s u : State} (c i : Word) (h : u.frame = s.frame) (hf : u.flags = s.flags) :
    s.Jumps (u.jump c i) c i := by
  obtain ⟨⟩ := s
  obtain ⟨⟩ := u
  simp only [State.frame, Prod.mk.injEq] at h
  simp_all [State.Jumps, State.jump]

theorem two_le_osW_bytes (p : Prefixes) : 2 ≤ (osW p).bytes := by
  unfold osW Width.ofOs
  split <;> decide

/-- A word fits the operand size. -/
theorem toNat_setWidth_osW (v : Word) (p : Prefixes) : (v.setWidth (osW p).bits).toNat = v.toNat := by
  rw [BitVec.toNat_setWidth, ← Width.pow_bytes]
  have small : v.toNat < 256 ^ 2 := v.isLt
  exact Nat.mod_eq_of_lt (small.trans_le (Nat.pow_le_pow_right (by decide) (two_le_osW_bytes p)))

/-- A near call: the return address is pushed, and the call jumps (R421). -/
theorem State.callNear_gives (s : State) (p : Prefixes) (hole : s.par.NoHole) {t : BitVec (osW p).bits}
    (h : t.toNat ≤ 0xFFFF) :
    (s.callNear (osW p) t).Gives fun u => s.Jumps u s.cs (BitVec.ofNat 16 t.toNat) ∧
      u.gpr = (s.setR16 rSP (s.r16 rSP - BitVec.ofNat 16 (osW p).bytes)).gpr ∧
      s.Stores u (s.slot (osW p).bytes) (osW p).bytes s.ctx.nextIp.toNat := by
  obtain ⟨m, e, stores⟩ := s.push_backed _ s.ctx.nextIp.toNat (osW p).bytes_le (s.backed_of_noHole _ _ hole)
  rw [State.callNear, State.checkTarget_of_le h, Exec.ok_bind, State.pushW, toNat_setWidth_osW, e]
  exact ⟨_, rfl, rfl, rfl, stores⟩

/-- The push of CS by a far call, in a slot of operand size (R423). -/
def State.pushCs (s : State) (p : Prefixes) : Exec State := if p.os32 then s.pushSlot4 s.cs else s.push 2 s.cs.toNat

theorem State.callFarTo_eq (s : State) (p : Prefixes) (off : BitVec (osW p).bits) (seg : Word) :
    s.callFarTo p off seg = s.checkTarget off >>= fun ip => s.pushCs p >>= fun u =>
      u.pushW (osW p) (u.ctx.nextIp.setWidth (osW p).bits) >>= fun v => .ok (v.jump seg ip) := by
  rw [State.callFarTo]
  unfold State.pushCs
  split <;> rfl

theorem State.pushCs_gives (s : State) (p : Prefixes) (hole : s.par.NoHole) :
    (s.pushCs p).Gives fun t => t.frame = s.frame ∧ t.flags = s.flags ∧
      t.gpr = (s.setR16 rSP (s.r16 rSP - BitVec.ofNat 16 (osW p).bytes)).gpr ∧
      t.Holds (s.slot (osW p).bytes) 2 s.cs.toNat ∧ s.SameOutside t (s.slot (osW p).bytes) (osW p).bytes ∧
      (osW p = .b32 → t.Holds (s.slot 4 + 2) 2 0 ∨ s.SameOutside t (s.slot 4) 2) := by
  obtain ⟨seg, os32, lock, rep⟩ := p
  cases os32 with
  | true =>
    refine (s.pushSlot4_gives s.cs (s.backed_of_noHole _ _ hole)).mono fun t ht => ?_
    obtain ⟨frame, flags, gpr, holds, outside, upper⟩ := ht
    exact ⟨frame, flags, gpr, holds, outside, fun _ => upper⟩
  | false =>
    obtain ⟨m, e, holds, outside⟩ := s.push_backed 2 s.cs.toNat (by decide) (s.backed_of_noHole _ _ hole)
    exact ⟨_, e, rfl, rfl, rfl, holds, outside, nofun⟩

/-- The two slots of a far call share no byte. -/
theorem State.slot_disjoint (s : State) (w : Width) {i j : Nat} (hi : i < w.bytes) (hj : j < w.bytes) :
    (s.slot w.bytes + i) % s.par.ring ≠ (s.slot (2 * w.bytes) + j) % s.par.ring := by
  have := s.below_disjoint w (j := 1) (k := 2) (by decide) (by decide) (by decide) hi hj
  rwa [State.below, Nat.one_mul] at this

/-- The push of the return address leaves the word above a pushed CS cleared or unchanged. -/
theorem State.upperWord_of_push {s t u : State} (ht : t.par = s.par) (hu : u.par = t.par)
    (upper : t.Holds (s.slot 4 + 2) 2 0 ∨ s.SameOutside t (s.slot 4) 2) (outside : t.SameOutside u (s.slot 8) 4) :
    u.Holds (s.slot 4 + 2) 2 0 ∨
      ∀ i, i < 2 → u.peek ((s.slot 4 + 2 + i) % s.par.ring) = s.peek ((s.slot 4 + 2 + i) % s.par.ring) := by
  have above {i : Nat} (hi : i < 2) : ∀ j, j < 4 → (s.slot 4 + 2 + i) % s.par.ring ≠ (s.slot 8 + j) % s.par.ring := by
    have fits : 2 + i < 4 := Nat.add_lt_add_left hi 2
    rw [Nat.add_assoc]
    exact fun j hj => s.slot_disjoint .b32 fits hj
  refine upper.imp (fun cleared => cleared.of_sameOutside outside hu fun i hi => ht ▸ above hi) fun kept i hi => ?_
  refine (outside _ (ht ▸ above hi)).trans (kept _ fun j hj e => ?_)
  have large := ring_large s.par
  rw [Nat.add_assoc] at e
  have := ring_offset_inj (by omega) (by omega) e
  omega

/-- A far call: CS and the return address are pushed, and the call jumps (R423). -/
theorem State.callFarTo_gives (s : State) (p : Prefixes) (hole : s.par.NoHole) {off : BitVec (osW p).bits} (seg : Word)
    (h : off.toNat ≤ 0xFFFF) :
    (s.callFarTo p off seg).Gives fun u => s.FarCalls u (osW p) seg (BitVec.ofNat 16 off.toNat) := by
  rw [State.callFarTo_eq, State.checkTarget_of_le h, Exec.ok_bind]
  refine (s.pushCs_gives p hole).bind fun t ht => ?_
  obtain ⟨frame, flags, gpr, holds, outside, upper⟩ := ht
  have par := State.par_of_frame frame
  have ctx : t.ctx = s.ctx := by simp_all [State.frame]
  have sp : t.r16 rSP - BitVec.ofNat 16 (osW p).bytes = s.r16 rSP - BitVec.ofNat 16 (2 * (osW p).bytes) := by
    rw [State.r16_congr gpr, State.r16_setR16_self, Nat.two_mul, BitVec.ofNat_add, sub_sub]
  have slot : t.slot (osW p).bytes = s.slot (2 * (osW p).bytes) := by
    rw [State.slot, sp, State.lin, par, State.ss_of_frame frame]
    rfl
  obtain ⟨m, e, holds', outside'⟩ :=
    t.push_backed _ s.ctx.nextIp.toNat (osW p).bytes_le (t.backed_of_noHole _ _ (par ▸ hole))
  rw [slot] at holds' outside'
  rw [State.pushW, ctx, toNat_setWidth_osW, e]
  have two : 2 ≤ (osW p).bytes := two_le_osW_bytes p
  refine ⟨_, rfl, State.jump_jumps _ _ frame flags, ?_, ?_, holds', fun b hb => ?_, fun hw => ?_⟩
  · rw [sp]
    exact State.setR16_gpr_of_gpr gpr _
  · exact holds.of_sameOutside outside' rfl fun i hi j hj => par ▸ s.slot_disjoint _ (by omega) hj
  · exact (outside' b fun i hi => par ▸ (hb i hi).2).trans (outside b fun i hi => (hb i hi).1)
  · rw [hw] at outside'
    exact State.upperWord_of_push par rfl (upper hw) outside'

/-- Settles O25: the target's check answers it, and the rest is a near or a far call. -/
theorem callResult : Obligations.CallResult := by
  intro p s hole w
  refine ⟨fun d h => ?_, fun rm h => ?_, fun off seg fits h => ?_, fun m h => ?_⟩
  · rw [← s.relTarget_eq] at h ⊢
    exact (s.callNear_gives p hole h).next
  · have reaches : s.Reaches p w rm := by
      cases rm with
      | reg r => trivial
      | mem m => exact s.backed_of_noHole _ _ hole
    show ∃ t, execCallInd p rm s = .next t ∧ _
    rw [execCallInd, s.readRM_reaches p w rm reaches]
    exact (s.callNear_gives p hole h).next
  · rw [← toNat_immZ fits] at h ⊢
    exact (s.callFarTo_gives p hole seg h).next
  · show ∃ t, execCallFarInd p m s = .next t ∧ _
    rw [execCallFarInd, s.readFar_backed w _ (s.backed_of_noHole _ _ hole)]
    have target := s.toNat_ofNat_bytesAt w (s.memAddr p m)
    rw [← target] at h
    rw [← congrArg (BitVec.ofNat 16) target]
    exact (s.callFarTo_gives p hole _ h).next

end Sys2Proof.Machine
end

section
/-! Returns (O26), each of which is its pops and then the check of the target, and the instructions that take an interrupt (O27). -/

namespace Sys2Proof.Machine

/-! ### Returns (R425, R426, R430) -/

/-- The number that `n` bytes hold on the stack, `d` bytes above SP. -/
def State.stackAt (s : State) (d n : Nat) : Nat := s.bytesAt (s.lin s.ss (s.r16 rSP + BitVec.ofNat 16 d)) n

theorem State.stackAt_zero (s : State) (n : Nat) : s.stackAt 0 n = s.bytesAt (s.lin s.ss (s.r16 rSP)) n := by
  rw [State.stackAt, BitVec.add_zero]

theorem State.popped_popped (s : State) (d n : Nat) : (s.popped d).popped n = s.popped (d + n) := by
  unfold State.popped
  rw [State.r16_setR16_self, State.setR16_setR16, BitVec.ofNat_add, add_assoc]

/-- A pop that follows pops of `d` bytes. -/
theorem State.pop_popped {s : State} (hole : s.par.NoHole) (d n : Nat) :
    (s.popped d).pop n = .ok (s.stackAt d n, s.popped (d + n)) := by
  have value : (s.popped d).bytesAt ((s.popped d).lin (s.popped d).ss ((s.popped d).r16 rSP)) n = s.stackAt d n := by
    rw [State.bytesAt_congr (s.setR16_mem rSP _) (s.setR16_par rSP _), State.r16_setR16_self]
    rfl
  rw [← s.popped_popped, ← value]
  exact (s.popped d).pop_backed n ((s.popped d).backed_of_noHole _ _ hole)

/-- The first pop of a return: its target, which is checked when all has been popped. -/
theorem State.popW_target {s : State} (hole : s.par.NoHole) (w : Width) :
    s.popW w = .ok (BitVec.ofNat w.bits (s.stackAt 0 w.bytes), s.popped w.bytes) := by
  rw [s.popW_backed w (s.backed_of_noHole _ _ hole), s.stackAt_zero]

theorem State.release_popped (s : State) (d : Nat) (n : Option Word) :
    (s.popped d).release n = s.setR16 rSP (s.r16 rSP + BitVec.ofNat 16 d + n.getD 0) := by
  cases n with
  | none => exact congrArg (s.setR16 rSP) (BitVec.add_zero _).symm
  | some n => rw [State.release, State.r16_setR16_self, State.setR16_setR16, Option.getD_some]

/-- RET is its pop, and then the check of the target. -/
theorem execRet_eq {s : State} (hole : s.par.NoHole) (p : Prefixes) (n : Option Word) :
    let w := osW p
    exec (.ret p n) s = finish ((s.popped w.bytes).checkTarget (BitVec.ofNat w.bits (s.stackAt 0 w.bytes)) >>= fun ip =>
      .ok (((s.popped w.bytes).release n).jump s.cs ip)) := by
  intro w
  show execRet p n s = _
  rw [execRet, State.popW_target hole]
  cases n <;> rfl

/-- RETF is its two pops, and then the check of the target. -/
theorem execRetf_eq {s : State} (hole : s.par.NoHole) (p : Prefixes) (n : Option Word) :
    let w := osW p
    let u := s.popped (2 * w.bytes)
    exec (.retf p n) s = finish (u.checkTarget (BitVec.ofNat w.bits (s.stackAt 0 w.bytes)) >>= fun ip =>
      .ok ((u.release n).jump (BitVec.ofNat 16 (s.stackAt w.bytes w.bytes)) ip)) := by
  intro w u
  show execRetf p n s = _
  rw [execRetf, State.popW_target hole, Exec.ok_bind]
  show finish ((s.popped w.bytes).pop w.bytes >>= _) = _
  rw [State.pop_popped hole, ← Nat.two_mul]
  rfl

/-- IRET is its three pops, and then the check of the target. -/
theorem execIret_eq {s : State} (hole : s.par.NoHole) (p : Prefixes) :
    let w := osW p
    let u := s.popped (3 * w.bytes)
    exec (.iret p) s = finish (u.checkTarget (BitVec.ofNat w.bits (s.stackAt (0 * w.bytes) w.bytes)) >>= fun ip =>
      .ok (u.returnTo (BitVec.ofNat 16 (s.stackAt (1 * w.bytes) w.bytes)) ip
        (BitVec.ofNat 16 (s.stackAt (2 * w.bytes) w.bytes)))) := by
  intro w u
  show execIret p s = _
  rw [execIret, State.popW_target hole, Exec.ok_bind]
  show finish ((s.popped w.bytes).pop w.bytes >>= _) = _
  rw [State.pop_popped hole, Exec.ok_bind]
  show finish ((s.popped (w.bytes + w.bytes)).pop w.bytes >>= _) = _
  rw [State.pop_popped hole, ← Nat.two_mul, ← Nat.succ_mul, Nat.zero_mul, Nat.one_mul]
  rfl

/-- Settles O26: a return goes on from what it popped if the check of the target answers, and halts there otherwise. -/
theorem returnResult : Obligations.ReturnResult := by
  refine ⟨fun p n s hole => ?_, fun p s hole => ?_⟩
  · intro w at1 at2 ip cs
    have target : (BitVec.ofNat w.bits (s.stackAt 0 w.bytes)).toNat = ip := by
      rw [State.stackAt_zero, State.toNat_ofNat_bytesAt]
    rw [execRet_eq hole, execRetf_eq hole, ← target]
    refine ⟨fun h => ⟨?_, ?_⟩, fun h => ⟨State.checkTarget_beyond h _, State.checkTarget_beyond h _⟩⟩
    · rw [State.checkTarget_of_le h, State.release_popped]
      rfl
    · rw [State.checkTarget_of_le h, State.release_popped]
      rfl
  · intro w item u
    have target : (BitVec.ofNat w.bits (s.stackAt (0 * w.bytes) w.bytes)).toNat = item 0 := s.toNat_ofNat_bytesAt w _
    rw [execIret_eq hole, ← target]
    refine ⟨fun h => ?_, fun h => State.checkTarget_beyond h _⟩
    rw [State.checkTarget_of_le h]
    rfl

/-! ### Interrupts (R427 to R429, R433) -/

/-- Two values that stand one after the other in memory, read as one number: the low one. -/
theorem State.ofNat_bytesAt_pair (s : State) (w : Width) (a : Nat) :
    BitVec.ofNat w.bits (s.bytesAt a (2 * w.bytes)) = BitVec.ofNat w.bits (s.bytesAt a w.bytes) := by
  apply BitVec.eq_of_toNat_eq
  rw [BitVec.toNat_ofNat, BitVec.toNat_ofNat, Nat.two_mul, s.bytesAt_add, w.pow_bytes, Nat.add_mul_mod_self_left]

/-- Two values that stand one after the other in memory, read as one number: the high one. -/
theorem State.bytesAt_pair_div (s : State) (w : Width) (a : Nat) :
    s.bytesAt a (2 * w.bytes) / 2 ^ w.bits = s.bytesAt (a + w.bytes) w.bytes := by
  rw [Nat.two_mul, s.bytesAt_add, w.pow_bytes, Nat.add_mul_div_left _ _ (Nat.two_pow_pos _),
    Nat.div_eq_of_lt (w.pow_bytes ▸ s.bytesAt_lt a _), Nat.zero_add]

/-- BOUND reads its two bounds and compares. -/
theorem execBound_eq {p : Prefixes} {s : State} {m : Mem} (r : BitVec 3)
    (h : s.Backed (s.memAddr p m) (2 * (osW p).bytes)) :
    let a := s.memAddr p m
    let lo := (BitVec.ofNat (osW p).bits (s.bytesAt a (osW p).bytes)).toInt
    let hi := (BitVec.ofNat (osW p).bits (s.bytesAt (a + (osW p).bytes) (osW p).bytes)).toInt
    let i := (s.reg (osW p) r).toInt
    exec (.bound p r m) s = finish (if i < lo ∨ hi < i then raiseFault s 5 else .ok s.commit) := by
  intro a lo hi i
  show execBound p r m s = _
  simp only [execBound, s.linRead_backed _ _ h, Exec.ok_bind, s.ofNat_bytesAt_pair, s.bytesAt_pair_div, a, lo, hi, i]

/-- Settles O27: the interrupts of INT, INT3 and INTO are dispatched as they stand; BOUND's is decided by its comparison. -/
theorem softwareInterrupts : Obligations.SoftwareInterrupts := by
  intro p s
  refine ⟨fun r m h => ?_, fun v => rfl, rfl, fun o => ?_, fun o => ?_⟩
  · intro a lo hi i
    rw [execBound_eq r h]
    refine ⟨fun ⟨above, below⟩ => ?_, fun outside => ?_⟩
    · rw [if_neg (not_or.mpr ⟨not_lt.mpr above, not_lt.mpr below⟩)]
      rfl
    · rw [if_pos outside]
      rfl
  · show execInto p s = _
    rw [execInto, o]
    rfl
  · show execInto p s = _
    rw [execInto, o]
    rfl

end Sys2Proof.Machine
end

section
/-! ENTER and LEAVE (O28). The pushes of ENTER fill the slots of the new frame one after the other; an invariant says what the
words pushed so far have done, and another which words they are. -/

namespace Sys2Proof.Machine

/-- What a range holds depends on its bytes alone. -/
theorem State.bytesAt_eq_of_peek {s t : State} (hp : t.par = s.par) {a n : Nat}
    (h : ∀ i, i < n → t.peek ((a + i) % s.par.ring) = s.peek ((a + i) % s.par.ring)) : t.bytesAt a n = s.bytesAt a n := by
  induction n generalizing a with
  | zero => rfl
  | succ n ih =>
    have first : t.peek (a % s.par.ring) = s.peek (a % s.par.ring) := h 0 (Nat.succ_pos n)
    have rest := ih (a := a + 1) fun i hi => by
      rw [Nat.add_right_comm, Nat.add_assoc]
      exact h (i + 1) (Nat.succ_lt_succ hi)
    rw [State.bytesAt, State.bytesAt, hp, first, rest]

/-! ### The words of the new frame -/

/-- The address of the j-th word of the new frame: the saved BP is word 0. -/
def State.frameWord (s : State) (j : Nat) : Nat := s.lin s.ss (s.r16 rSP - 2 - BitVec.ofNat 16 (2 * j))

/-- The words of the new frame share no byte: their offsets differ modulo 2^16 by an even number. -/
theorem State.frameWord_disjoint (s : State) {j k i i' : Nat} (hj : j < 32) (hk : k < 32) (ne : j ≠ k) (hi : i < 2)
    (hi' : i' < 2) : (s.frameWord j + i) % s.par.ring ≠ (s.frameWord k + i') % s.par.ring := by
  intro e
  simp only [State.frameWord, State.lin, Nat.mod_add_mod, Nat.add_assoc] at e
  have large := ring_large s.par
  generalize s.r16 rSP - 2 = top at e
  have hjo := (top - BitVec.ofNat 16 (2 * j)).isLt
  have hko := (top - BitVec.ofNat 16 (2 * k)).isLt
  have e := ring_offset_inj (by omega) (by omega) e
  rw [BitVec.toNat_sub, BitVec.toNat_sub, BitVec.toNat_ofNat, BitVec.toNat_ofNat] at e
  omega

/-- Writes of two registers commute. -/
theorem State.setR16_comm (s : State) {i j : BitVec 3} (ne : i ≠ j) (v w : Word) :
    (s.setR16 i v).setR16 j w = (s.setR16 j w).setR16 i v := by
  have gpr : ((s.setR16 i v).setR16 j w).gpr = ((s.setR16 j w).setR16 i v).gpr := State.gpr_ext fun r => by
    simp only [State.r32_setR16, ne, ne.symm, if_false]
    split
    · next h => rw [if_neg (h ▸ ne.symm)]
    · rfl
  exact congrArg (fun g => { s with gpr := g }) gpr

/-- `t` is `s` after pushes of these words, from SP down; BP may have changed. -/
structure State.PushedWords (s t : State) (words : List Nat) : Prop where
  frame : t.frame = s.frame
  flags : t.flags = s.flags
  gpr : t.gpr = ((s.setR16 rBP (t.r16 rBP)).setR16 rSP (s.r16 rSP - BitVec.ofNat 16 (2 * words.length))).gpr
  holds : ∀ j v, words[j]? = some v → t.Holds (s.frameWord j) 2 v
  outside : ∀ b, (∀ j i, j < words.length → i < 2 → b ≠ (s.frameWord j + i) % s.par.ring) → t.peek b = s.peek b

theorem State.pushedWords_nil (s : State) : s.PushedWords s [] where
  frame := rfl
  flags := rfl
  gpr := by
    rw [State.setR16_r16, List.length_nil, Nat.mul_zero, BitVec.sub_zero, State.setR16_r16]
  holds := nofun
  outside _ _ := rfl

namespace State.PushedWords

variable {s t : State} {words : List Nat}

theorem sp_eq (h : s.PushedWords t words) : t.r16 rSP = s.r16 rSP - BitVec.ofNat 16 (2 * words.length) := by
  rw [State.r16_congr h.gpr, State.r16_setR16_self]

theorem slot_eq (h : s.PushedWords t words) : t.slot 2 = s.frameWord words.length := by
  rw [State.slot, h.sp_eq, sub_right_comm, State.lin, State.par_of_frame h.frame, State.ss_of_frame h.frame]
  rfl

/-- The general registers after a write of SP, of which the later one counts, and after a write of BP. -/
theorem gpr_setSp (h : s.PushedWords t words) (v : Word) :
    (t.setR16 rSP v).gpr = ((s.setR16 rBP (t.r16 rBP)).setR16 rSP v).gpr :=
  State.setR16_gpr_of_gpr h.gpr v

theorem setBp (h : s.PushedWords t words) (v : Word) : s.PushedWords (t.setR16 rBP v) words where
  frame := h.frame
  flags := h.flags
  gpr := by
    rw [State.r16_setR16_self]
    refine (State.setReg_gpr_congr h.gpr .b16 rBP v).trans ?_
    show (State.setR16 _ rBP v).gpr = _
    rw [State.setR16_comm _ (by decide), State.setR16_setR16]
  holds := h.holds
  outside := h.outside

/-- The next push fills the next word of the frame. -/
theorem push (h : s.PushedWords t words) (hole : s.par.NoHole) (short : words.length < 32) (v : Nat) :
    (t.push 2 v).Gives fun u => s.PushedWords u (words ++ [v]) ∧ u.r16 rBP = t.r16 rBP := by
  have par := State.par_of_frame h.frame
  obtain ⟨m, e, holds, outside⟩ := t.push_backed 2 v (by decide) (t.backed_of_noHole _ _ (par ▸ hole))
  rw [h.slot_eq] at holds outside
  have bp : (t.setR16 rSP (t.r16 rSP - BitVec.ofNat 16 2)).r16 rBP = t.r16 rBP :=
    (t.r16_setR16 rSP rBP _).trans (if_neg (by decide))
  refine ⟨_, e, ⟨h.frame, h.flags, ?_, fun j w hw => ?_, fun b hb => ?_⟩, bp⟩
  · rw [List.length_append, List.length_singleton, Nat.mul_add, BitVec.ofNat_add, ← sub_sub, ← h.sp_eq]
    exact bp.symm ▸ h.gpr_setSp _
  · by_cases old : j < words.length
    · rw [List.getElem?_append_left old] at hw
      refine (h.holds j w hw).of_sameOutside outside rfl fun i hi i' hi' => ?_
      rw [par]
      exact s.frameWord_disjoint (by omega) short (by omega) hi hi'
    · obtain ⟨rfl, rfl⟩ : j = words.length ∧ w = v := by
        rw [List.getElem?_append_right (by omega), List.getElem?_singleton] at hw
        split at hw
        · next zero => exact ⟨by omega, (Option.some.inj hw).symm⟩
        · cases hw
      exact holds
  · rw [List.length_append] at hb
    rw [outside b fun i hi => par ▸ hb _ i (Nat.lt_succ_self _) hi]
    exact h.outside b fun j i hj => hb j i (Nat.lt_succ_of_lt hj)

end State.PushedWords

/-! ### The frame pointers (R431) -/

/-- The address of the k-th frame pointer below BP. -/
def State.framePointer (s : State) (k : Nat) : Nat := s.lin s.ss (s.r16 rBP - BitVec.ofNat 16 (2 * k))

/-- The k-th frame pointer overlaps no word that ENTER has pushed before it reads the pointer. -/
def State.PointerClear (s : State) (k : Nat) : Prop :=
  ∀ j i h, j < k → i < 2 → h < 2 → (s.framePointer k + i) % s.par.ring ≠ (s.frameWord j + h) % s.par.ring

/-- `t` is `s` after ENTER has saved BP and copied the first `k` frame pointers: these words have been pushed. -/
structure State.Nested (s t : State) (words : List Nat) (k : Nat) : Prop where
  pushed : s.PushedWords t words
  length : words.length = k + 1
  bp : t.r16 rBP = s.r16 rBP - BitVec.ofNat 16 (2 * k)
  saved : words[0]? = some (s.r16 rBP).toNat
  copied : ∀ j, 1 ≤ j → j ≤ k → s.PointerClear j → words[j]? = some (s.bytesAt (s.framePointer j) 2)

/-- The first push of ENTER saves BP. -/
theorem State.nested_zero {s : State} (hole : s.par.NoHole) :
    (s.push 2 (s.r16 rBP).toNat).Gives fun t => ∃ words, s.Nested t words 0 :=
  (s.pushedWords_nil.push hole (by decide) _).mono fun _ ⟨pushed, bp⟩ =>
    ⟨_, pushed, rfl, bp.trans (BitVec.sub_zero _).symm, rfl, fun j h1 h0 => by omega⟩

/-- What ENTER reads at a frame pointer that no word of the new frame has overwritten. -/
theorem State.Nested.read_eq {s t : State} {words : List Nat} {k : Nat} (h : s.Nested t words k)
    (clear : s.PointerClear (k + 1)) : t.bytesAt (s.framePointer (k + 1)) 2 = s.bytesAt (s.framePointer (k + 1)) 2 :=
  State.bytesAt_eq_of_peek (State.par_of_frame h.pushed.frame) fun i hi =>
    h.pushed.outside _ fun j i' hj hi' => clear j i i' (h.length ▸ hj) hi hi'

/-- The state in which ENTER reads the next frame pointer: BP has gone down by a word. -/
abbrev State.nextPointer (t : State) : State := t.setR16 rBP (t.r16 rBP - 2)

section Copy

variable {s t : State} {words : List Nat} {k : Nat}

theorem State.Nested.nextPointer_bp (h : s.Nested t words k) :
    t.nextPointer.r16 rBP = s.r16 rBP - BitVec.ofNat 16 (2 * (k + 1)) := by
  rw [State.r16_setR16_self, h.bp, Nat.mul_add, BitVec.ofNat_add, ← sub_sub]
  rfl

theorem State.Nested.read_pointer (h : s.Nested t words k) (hole : s.par.NoHole) :
    t.nextPointer.memRead t.ss (t.nextPointer.r16 rBP) 2 = .ok (t.bytesAt (s.framePointer (k + 1)) 2) := by
  have par := State.par_of_frame h.pushed.frame
  have address : t.nextPointer.lin t.ss (t.nextPointer.r16 rBP) = s.framePointer (k + 1) := by
    rw [h.nextPointer_bp, State.ss_of_frame h.pushed.frame, State.lin, State.setR16_par, par]
    rfl
  rw [State.memRead, State.linRead_backed _ _ _ (State.backed_of_noHole _ _ _ (par ▸ hole)), address,
    State.bytesAt_congr (t.setR16_mem rBP _) (t.setR16_par rBP _)]

theorem State.Nested.push_pointer (h : s.Nested t words k) (hole : s.par.NoHole) (short : k < 31) :
    (t.nextPointer.push 2 (t.bytesAt (s.framePointer (k + 1)) 2)).Gives fun u => ∃ words, s.Nested u words (k + 1) := by
  have length := h.length
  refine ((h.pushed.setBp _).push hole (by omega) _).mono fun u ⟨pushed, bp⟩ =>
    ⟨_, pushed, ?_, bp.trans h.nextPointer_bp, ?_, fun j h1 hj clear => ?_⟩
  · rw [List.length_append, length, List.length_singleton]
  · rw [List.getElem?_append_left (by omega)]
    exact h.saved
  · rcases Nat.lt_or_eq_of_le hj with old | rfl
    · rw [List.getElem?_append_left (by omega)]
      exact h.copied j h1 (Nat.le_of_lt_succ old) clear
    · rw [← h.read_eq clear, List.getElem?_append_right length.le, length, Nat.sub_self]
      rfl

end Copy

/-- The loop of ENTER copies one frame pointer after the other. -/
theorem State.Nested.copyFrames {s : State} (hole : s.par.NoHole) (m : Nat) {t : State} {words : List Nat} {k : Nat}
    (h : s.Nested t words k) (short : k + m ≤ 31) :
    (State.copyFrames m t).Gives fun u => ∃ words, s.Nested u words (k + m) := by
  induction m generalizing t words k with
  | zero => exact ⟨t, rfl, words, h⟩
  | succ m ih =>
    show Exec.Gives (t.nextPointer.memRead t.ss (t.nextPointer.r16 rBP) 2 >>= fun v =>
      t.nextPointer.push 2 v >>= State.copyFrames m) _
    rw [h.read_pointer hole, Exec.ok_bind, Nat.add_comm m, ← Nat.add_assoc]
    exact (h.push_pointer hole (by omega)).bind fun u ⟨words, nested⟩ => ih nested (by omega)

/-! ### ENTER and LEAVE -/

/-- What ENTER has pushed when it makes room, at nesting level `n`. -/
structure State.Entered (s t : State) (words : List Nat) (n : Nat) : Prop where
  pushed : s.PushedWords t words
  length : words.length = n + 1
  saved : words[0]? = some (s.r16 rBP).toNat
  copied : ∀ j, 1 ≤ j → j < n → s.PointerClear j → words[j]? = some (s.bytesAt (s.framePointer j) 2)
  nested : n ≠ 0 → words[n]? = some (s.r16 rSP - 2).toNat

/-- The pushes of ENTER after that of BP: the frame pointers, and then the frame. -/
theorem State.Nested.nestFrames {s t : State} {words : List Nat} (h : s.Nested t words 0) (hole : s.par.NoHole) {n : Nat}
    (hn : n < 32) : (t.nestFrames n (s.r16 rSP - 2)).Gives fun u => ∃ words, s.Entered u words n := by
  cases n with
  | zero => exact ⟨t, rfl, words, h.pushed, h.length, h.saved, nofun, fun ne => absurd rfl ne⟩
  | succ m =>
    show Exec.Gives (State.copyFrames m t >>= fun u => u.push 2 _) _
    refine (h.copyFrames hole m (by omega)).bind fun u ⟨words, nested⟩ => ?_
    have length := nested.length
    refine (nested.pushed.push hole (by omega) _).mono fun v ⟨pushed, _⟩ =>
      ⟨_, pushed, ?_, ?_, fun j h1 hj clear => ?_, fun _ => ?_⟩
    · rw [List.length_append, length, Nat.zero_add, List.length_singleton]
    · rw [List.getElem?_append_left (by omega)]
      exact nested.saved
    · rw [List.getElem?_append_left (by omega)]
      exact nested.copied j h1 (by omega) clear
    · rw [← Nat.zero_add m, ← length]
      exact List.getElem?_concat_length

/-- The end of ENTER: BP becomes the frame, and SP makes room (R431). -/
abbrev State.makeRoom (u : State) (frame size : Word) : State :=
  let v := u.setR16 rBP frame
  v.setR16 rSP (v.r16 rSP - size)

theorem State.Entered.makeRoom_gpr {s t : State} {words : List Nat} {n : Nat} (h : s.Entered t words n)
    (frame size : Word) : (t.makeRoom frame size).gpr =
      ((s.setR16 rBP frame).setR16 rSP (s.r16 rSP - 2 - BitVec.ofNat 16 (2 * n) - size)).gpr := by
  have pushed := h.pushed.setBp frame
  have sp : (t.setR16 rBP frame).r16 rSP = s.r16 rSP - 2 - BitVec.ofNat 16 (2 * n) := by
    rw [pushed.sp_eq, h.length, Nat.mul_add, BitVec.ofNat_add, ← sub_sub, sub_right_comm]
    rfl
  rw [pushed.gpr_setSp, State.r16_setR16_self, sp]

/-- ENTER at operand size 16 is a push of BP, the pushes of the nested frame, and room (R431). -/
theorem execEnter_gives {p : Prefixes} {s : State} (hole : s.par.NoHole) (hp : p.os32 = false) (size : Word)
    (level : Byte) :
    ∃ u words, s.Entered u words (level.toNat % 32) ∧
      exec (.enter p size level) s = .next (u.makeRoom (s.r16 rSP - 2) size).commit := by
  obtain ⟨t, saves, words, nested⟩ := State.nested_zero hole
  have frame : t.r16 rSP = s.r16 rSP - 2 := by
    rw [nested.pushed.sp_eq, nested.length]
    rfl
  obtain ⟨u, nests, entered⟩ := nested.nestFrames hole (Nat.mod_lt level.toNat (by decide : 0 < 32))
  obtain ⟨words, entered⟩ := entered
  refine ⟨u, words, entered, ?_⟩
  show execEnter p size level s = _
  rw [execEnter, hp, saves]
  show finish (t.nestFrames (level.toNat % 32) (t.r16 rSP) >>= fun v => .ok (v.makeRoom (t.r16 rSP) size).commit) = _
  rw [frame, nests]
  rfl

/-- Settles O28: ENTER's words are those that the invariant of its pushes lists, and LEAVE is a pop. -/
theorem frameResult : Obligations.FrameResult := by
  intro p s hole
  refine ⟨fun size level hp => ?_, fun size level hp => ?_, ?_⟩
  · intro n frame
    obtain ⟨u, words, entered, enters⟩ := execEnter_gives hole hp size level
    have gpr := entered.makeRoom_gpr frame size
    obtain ⟨pushed, length, saved, copied, nested⟩ := entered
    refine ⟨_, enters, State.commit_commits pushed.frame, pushed.flags, gpr, ?_, fun ne => pushed.holds n _ (nested ne),
      fun k h1 hk => ?_, fun b hb => ?_⟩
    · have first := pushed.holds 0 _ saved
      rwa [State.frameWord, Nat.mul_zero, BitVec.sub_zero] at first
    · intro old clear
      exact pushed.holds k _ (copied k h1 hk clear)
    · exact pushed.outside b fun j i hj hi => hb j i (by omega) hi
  · show execEnter p size level s = _
    rw [execEnter, hp]
    rfl
  · intro v
    show execLeave p s = _
    have pops := (s.setR16 rSP (s.r16 rBP)).popW_backed (osW p) (State.backed_of_noHole _ _ _ hole)
    rw [execLeave, pops, State.r16_setR16_self, State.popped, State.r16_setR16_self, State.setR16_setR16,
      State.bytesAt_congr (s.setR16_mem rSP _) (s.setR16_par rSP _)]
    rfl

end Sys2Proof.Machine
end

section
/-! Processor control (O29): an instruction that writes a flag or none, and one that the core lacks, each have one end. -/

namespace Sys2Proof.Machine

/-! ### Flags, NOP and WAIT (R460 to R467, R469) -/

/-- An instruction that only writes the flags ends at the next instruction. -/
theorem State.finish_commitFlags (s : State) (f : Flags) :
    finish (.ok (s.commitFlags f)) = .next { s with flags := f, ip := s.ctx.nextIp, shadow := false } := rfl

/-- An instruction that changes nothing is one that writes the flags back as they stand. -/
theorem State.commit_eq_commitFlags (s : State) : s.commit = s.commitFlags s.flags := rfl

/-! ### What the core lacks (R471, R472) -/

/-- A halt of the run is a next state, the one before the instruction but for the run. -/
theorem State.finish_haltWith (s : State) (r : HaltReason) :
    ∃ t, finish (haltWith s r) = .next t ∧ s.HaltsAs t r := ⟨s.halt r, rfl, rfl⟩

/-- Settles O29: the flag instructions differ in the flags they write, NOP and WAIT write none, HLT stops such a commit, and the
unsupported rows differ in the feature they name. -/
theorem processorControl : Obligations.ProcessorControl := by
  refine ⟨fun p s => ?_, fun p s => ?_⟩
  · intro done
    have writes (f : Flags) : finish (.ok (s.commitFlags f)) = .next (done f) := s.finish_commitFlags f
    have nothing : finish (.ok s.commit) = .next (done s.flags) := s.commit_eq_commitFlags ▸ writes s.flags
    have stops : exec (.hlt p) s = .next { done s.flags with run := .halted } := rfl
    exact ⟨writes _, writes _, writes _, writes _, writes _, writes _, writes _, nothing, nothing, stops⟩
  · have fsGs := s.finish_haltWith (.unsupportedFeature .fsGs)
    have protectedMode := s.finish_haltWith (.unsupportedFeature .protectedMode)
    exact ⟨fsGs, fsGs, fsGs, fsGs, fsGs, fsGs, protectedMode, fun _ => protectedMode⟩

end Sys2Proof.Machine
end

section
/-! The values of the FPU: the fields of an extended value, its class in terms of them, and the rational that it stands for
(46_fpu_model.md R500 to R503). -/

namespace Sys2Proof.Machine

/-! ### Fields -/

theorem F80.exp_lt (x : F80) : x.exp < 2 ^ 15 := BitVec.isLt _

theorem F80.sig_lt (x : F80) : x.sig < 2 ^ 64 := BitVec.isLt _

/-- A bit of the significand. -/
theorem F80.testBit_sig (x : F80) {k : Nat} (hk : k < 64) : x.sig.testBit k = x.getLsbD k := by
  rw [F80.sig, BitVec.testBit_toNat, BitVec.getLsbD_extractLsb', Nat.zero_add]
  simp [hk]

/-- A bit of the exponent. -/
theorem F80.testBit_exp (x : F80) {k : Nat} (hk : k < 15) : x.exp.testBit k = x.getLsbD (64 + k) := by
  rw [F80.exp, BitVec.testBit_toNat, BitVec.getLsbD_extractLsb']
  simp [hk]

@[simp] theorem F80.mk_neg (neg : Bool) (exp sig : Nat) : (F80.mk neg exp sig).neg = neg := by
  rw [F80.neg, F80.mk, BitVec.getLsbD_append, BitVec.getLsbD_append]
  simp

@[simp] theorem F80.mk_exp (neg : Bool) (exp sig : Nat) : (F80.mk neg exp sig).exp = exp % 2 ^ 15 := by
  rw [F80.exp, F80.mk, BitVec.extractLsb'_append_eq_of_le (by decide), BitVec.extractLsb'_append_eq_right, BitVec.toNat_ofNat]

@[simp] theorem F80.mk_sig (neg : Bool) (exp sig : Nat) : (F80.mk neg exp sig).sig = sig % 2 ^ 64 := by
  rw [F80.sig, F80.mk, BitVec.extractLsb'_append_eq_right, BitVec.toNat_ofNat]

/-- A value is its three fields. -/
theorem F80.ext_fields {x y : F80} (hn : x.neg = y.neg) (he : x.exp = y.exp) (hs : x.sig = y.sig) : x = y := by
  apply BitVec.eq_of_getLsbD_eq
  intro k hk
  rcases Nat.lt_or_ge k 64 with h | h
  · rw [← x.testBit_sig h, ← y.testBit_sig h, hs]
  · rcases Nat.lt_or_ge k 79 with h' | h'
    · obtain ⟨j, rfl⟩ := Nat.exists_eq_add_of_le h
      rw [← x.testBit_exp (by omega), ← y.testBit_exp (by omega), he]
    · obtain rfl : k = 79 := by omega
      exact hn

/-- The explicit integer bit. -/
theorem F80.integerBit (x : F80) : x.getLsbD 63 = decide (2 ^ 63 ≤ x.sig) := by
  rw [← x.testBit_sig (by decide), Nat.testBit_eq_decide_div_mod_eq]
  have := x.sig_lt
  congr 1
  exact propext (by omega)

/-! ### Classes (R502) -/

/-- The class by exponent and significand. -/
theorem F80.cls_eq (x : F80) : x.cls =
    if x.exp = 0 then (if x.sig = 0 then .zero else .denormal)
    else if x.sig < 2 ^ 63 then .unsupported
    else if x.exp < 0x7FFF then .normal
    else if x.sig = 2 ^ 63 then .infinity
    else if x.getLsbD 62 then .qnan
    else .snan := by
  simp only [F80.cls, x.integerBit, decide_eq_false_iff_not, Nat.not_le]

theorem F80.cls_zero_iff (x : F80) : x.cls = .zero ↔ x.exp = 0 ∧ x.sig = 0 := by
  rw [x.cls_eq]
  split_ifs <;> simp_all

theorem F80.cls_denormal_iff (x : F80) : x.cls = .denormal ↔ x.exp = 0 ∧ x.sig ≠ 0 := by
  rw [x.cls_eq]
  split_ifs <;> simp_all

theorem F80.cls_normal_iff (x : F80) : x.cls = .normal ↔ x.exp ≠ 0 ∧ x.exp < 0x7FFF ∧ 2 ^ 63 ≤ x.sig := by
  rw [x.cls_eq]
  split_ifs <;> simp_all

/-- A finite value is below the exponent of the infinities, and its integer bit may be clear with the exponent 0 alone. -/
theorem F80.finite_iff (x : F80) : x.Finite ↔ x.exp < 0x7FFF ∧ (x.exp = 0 ∨ 2 ^ 63 ≤ x.sig) := by
  rw [F80.Finite, x.cls_zero_iff, x.cls_denormal_iff, x.cls_normal_iff]
  omega

theorem F80.Finite.nonzero_iff {x : F80} (h : x.Finite) : x.FiniteNonzero ↔ x.sig ≠ 0 := by
  have := x.finite_iff.mp h
  rw [F80.FiniteNonzero, x.cls_denormal_iff, x.cls_normal_iff]
  omega

theorem F80.Finite.zero_iff {x : F80} (h : x.Finite) : x.cls = .zero ↔ x.sig = 0 := by
  have := x.finite_iff.mp h
  rw [x.cls_zero_iff]
  omega

theorem F80.FiniteNonzero.finite {x : F80} (h : x.FiniteNonzero) : x.Finite := Or.inr h

theorem F80.FiniteNonzero.sig_ne {x : F80} (h : x.FiniteNonzero) : x.sig ≠ 0 := h.finite.nonzero_iff.mp h

/-! ### Signs -/

/-- A magnitude with a sign. -/
def signed (neg : Bool) (y : ℚ) : ℚ := if neg then -y else y

@[simp] theorem signed_zero (neg : Bool) : signed neg 0 = 0 := by cases neg <;> simp [signed]

@[simp] theorem abs_signed (neg : Bool) (y : ℚ) : |signed neg y| = |y| := by cases neg <;> simp [signed]

theorem signed_mul (a b : Bool) (x y : ℚ) : signed a x * signed b y = signed (a != b) (x * y) := by
  cases a <;> cases b <;> simp [signed]

theorem signed_div (a b : Bool) (x y : ℚ) : signed a x / signed b y = signed (a != b) (x / y) := by
  cases a <;> cases b <;> simp [signed, neg_div, div_neg]

theorem signed_mul_right (a : Bool) (x y : ℚ) : signed a (x * y) = signed a x * y := by
  cases a <;> simp [signed]

theorem signed_eq_mul (neg : Bool) (y : ℚ) : (if neg then -1 else 1) * y = signed neg y := by
  cases neg <;> simp [signed]

/-- The sign of a positive magnitude. -/
theorem signed_lt_zero {neg : Bool} {y : ℚ} (hy : 0 < y) : neg = decide (signed neg y < 0) := by
  cases neg <;> simp [signed, hy, hy.le]

theorem signed_ne_zero {neg : Bool} {y : ℚ} (hy : 0 < y) : signed neg y ≠ 0 := by
  cases neg <;> simp [signed, hy.ne']

/-- A real is its magnitude with its sign. -/
theorem signed_decide_abs (x : ℚ) : signed (decide (x < 0)) |x| = x := by
  rcases lt_or_ge x 0 with h | h
  · simp [signed, h, abs_of_neg h]
  · simp [signed, h.not_gt, abs_of_nonneg h]

/-! ### Leading bits -/

/-- A nonzero magnitude is at least the power of its leading bit. -/
theorem Approx.two_zpow_top_le {a : Approx} (hm : a.m ≠ 0) : (2 : ℚ) ^ a.top ≤ a.m * 2 ^ a.e := by
  rw [Approx.top, zpow_add₀ two_ne_zero, zpow_natCast]
  gcongr
  exact_mod_cast Nat.log2_self_le hm

theorem Approx.succ_le_two_zpow_top (a : Approx) : ((a.m : ℚ) + 1) * 2 ^ a.e ≤ 2 ^ (a.top + 1) := by
  rw [Approx.top, add_right_comm, zpow_add₀ two_ne_zero]
  gcongr
  exact_mod_cast Nat.lt_log2_self (n := a.m)

/-- An approximation of at least 67 bits, or an exact one of a nonzero real, has a leading bit. -/
theorem Approx.Is.m_ne {a : Approx} {x : ℚ} (h : a.Is x) (hx : x ≠ 0) : a.m ≠ 0 := by
  rintro hm
  unfold Approx.Is at h
  split at h
  · obtain ⟨-, -, hm'⟩ := h
    rw [hm] at hm'
    exact absurd hm' (by decide)
  · exact hx (by rw [h, hm]; simp)

/-- An approximation lies between its magnitude and the next one. -/
theorem Approx.Is.bounds {a : Approx} {x : ℚ} (h : a.Is x) : (a.m : ℚ) * 2 ^ a.e ≤ x ∧ x < ((a.m : ℚ) + 1) * 2 ^ a.e := by
  have pos : (0 : ℚ) < 2 ^ a.e := by positivity
  unfold Approx.Is at h
  split at h
  · exact ⟨h.1.le, h.2.1⟩
  · exact ⟨h.ge, by rw [h, add_mul, one_mul]; exact lt_add_of_pos_right _ pos⟩

/-- An approximation has the leading bit of what it stands for. -/
theorem Approx.Is.top_bounds {a : Approx} {x : ℚ} (h : a.Is x) (hx : x ≠ 0) : 2 ^ a.top ≤ x ∧ x < 2 ^ (a.top + 1) := by
  have hm := h.m_ne hx
  obtain ⟨lo, hi⟩ := h.bounds
  exact ⟨(Approx.two_zpow_top_le hm).trans lo, hi.trans_le a.succ_le_two_zpow_top⟩

/-- The leading bit of a positive rational is one place alone. -/
theorem log_eq_of_zpow_bounds {x : ℚ} {t : Int} (lo : 2 ^ t ≤ x) (hi : x < 2 ^ (t + 1)) : Int.log 2 x = t := by
  have pos : 0 < x := lt_of_lt_of_le (by positivity) lo
  have one := (Int.zpow_le_iff_le_log (b := 2) (by decide) pos).mp (by exact_mod_cast lo)
  have two := (Int.lt_zpow_iff_log_lt (b := 2) (by decide) pos).mp (by exact_mod_cast hi)
  omega

/-! ### Exact values (R503) -/

theorem F80.rat_eq (x : F80) : x.rat = signed x.neg (x.sig * 2 ^ x.val.exp) := by
  rw [F80.rat, mul_assoc, signed_eq_mul]

theorem F80.abs_rat (x : F80) : |x.rat| = x.sig * 2 ^ x.val.exp := by
  rw [x.rat_eq, abs_signed, abs_of_nonneg (by positivity)]

theorem F80.rat_eq_zero_iff (x : F80) : x.rat = 0 ↔ x.sig = 0 := by
  rw [← abs_eq_zero, x.abs_rat, mul_eq_zero, Nat.cast_eq_zero, or_iff_left (zpow_ne_zero _ two_ne_zero)]

theorem F80.Finite.rat_eq_zero {x : F80} (h : x.Finite) : x.rat = 0 ↔ x.cls = .zero := by
  rw [x.rat_eq_zero_iff, h.zero_iff]

theorem F80.FiniteNonzero.rat_ne {x : F80} (h : x.FiniteNonzero) : x.rat ≠ 0 := mt x.rat_eq_zero_iff.mp h.sig_ne

/-- The sign of a nonzero value is that of its rational. -/
theorem F80.neg_eq_of_rat_ne {x : F80} (h : x.rat ≠ 0) : x.neg = decide (x.rat < 0) := by
  have pos : (0 : ℚ) < x.sig * 2 ^ x.val.exp := x.abs_rat ▸ abs_pos.mpr h
  rw [x.rat_eq]
  exact signed_lt_zero pos

/-- A value is an exact approximation of its magnitude. -/
theorem F80.approx_is (x : F80) : Approx.Is ⟨x.sig, x.val.exp, false⟩ |x.rat| := x.abs_rat

/-- The leading bit of a nonzero value. -/
theorem F80.top_bounds {x : F80} (h : x.rat ≠ 0) : 2 ^ x.val.top ≤ |x.rat| ∧ |x.rat| < 2 ^ (x.val.top + 1) :=
  x.approx_is.top_bounds (abs_ne_zero.mpr h)

theorem F80.log_abs_rat {x : F80} (h : x.rat ≠ 0) : Int.log 2 |x.rat| = x.val.top := by
  obtain ⟨lo, hi⟩ := F80.top_bounds h
  exact log_eq_of_zpow_bounds lo hi

end Sys2Proof.Machine
end

section
/-! Rounding at a given exponent (46_fpu_model.md R507, O30): the discarded part as a fraction of the last place, what
`roundAt` reads of it, and the selection by it. -/

namespace Sys2Proof.Machine

/-! ### The discarded part -/

/-- What an approximation leaves out is a fraction of its last place, nonzero where it is sticky. -/
theorem Approx.Is.fraction {a : Approx} {x : ℚ} (h : a.Is x) :
    ∃ t : ℚ, x = (a.m + t) * 2 ^ a.e ∧ 0 ≤ t ∧ t < 1 ∧ (a.sticky = true ↔ t ≠ 0) := by
  have pos : (0 : ℚ) < 2 ^ a.e := by positivity
  unfold Approx.Is at h
  split at h
  · next sticky =>
    obtain ⟨lo, hi, -⟩ := h
    rw [← lt_div_iff₀ pos] at lo
    rw [← div_lt_iff₀ pos] at hi
    refine ⟨x / 2 ^ a.e - a.m, ?_, by linarith, by linarith, iff_of_true sticky (by linarith [lo] : _ < _).ne'⟩
    field_simp
    ring
  · next plain => exact ⟨0, by rw [h, add_zero], le_rfl, one_pos, by simp [plain]⟩

/-- The comparison of the discarded part with one half is that of the fraction of 2^sh that it is. -/
theorem halfCmp_eq {rem sh : Nat} {sticky : Bool} {t : ℚ} (hsh : 0 < sh) (h0 : 0 ≤ t) (h1 : t < 1)
    (ht : sticky = true ↔ t ≠ 0) : halfCmp rem sh sticky = compare (2 * ((rem + t) / 2 ^ sh)) 1 := by
  obtain ⟨j, rfl⟩ := Nat.exists_eq_succ_of_ne_zero hsh.ne'
  have pos : (0 : ℚ) < 2 ^ j := by positivity
  have half : 2 * (((rem : ℚ) + t) / 2 ^ (j + 1)) = (rem + t) / 2 ^ j := by rw [pow_succ]; field_simp
  have nat : compare (2 * rem) (2 ^ (j + 1)) = compare rem (2 ^ j) := by
    simp only [compare, compareOfLessAndEq, pow_succ]
    congr 1
    · exact propext (by omega)
    · congr 1
      exact propext (by omega)
  rw [half, halfCmp, nat]
  rcases lt_trichotomy rem (2 ^ j) with h | h | h
  · have le : (rem : ℚ) + 1 ≤ 2 ^ j := by exact_mod_cast h
    rw [compare_lt_iff_lt.mpr h, eq_comm, compare_lt_iff_lt, div_lt_one pos]
    linarith
  · rw [h, compare_eq_iff_eq.mpr rfl]
    push_cast
    cases sticky with
    | true =>
      have : t ≠ 0 := ht.mp rfl
      rw [if_pos rfl, eq_comm, compare_gt_iff_gt, one_lt_div pos]
      exact lt_add_of_pos_right _ (lt_of_le_of_ne h0 this.symm)
    | false =>
      obtain rfl : t = 0 := by simpa using ht
      rw [add_zero, div_self pos.ne', compare_eq_iff_eq.mpr rfl]
      rfl
  · have gt : (2 : ℚ) ^ j < rem := by exact_mod_cast h
    rw [compare_gt_iff_gt.mpr h, eq_comm, compare_gt_iff_gt, one_lt_div pos]
    linarith

/-- The discarded part of an approximation rounded at a higher exponent, as a fraction of the last place that is kept. -/
theorem Approx.Is.discarded {a : Approx} {x : ℚ} {q : Int} (h : a.Is x) (hq : a.e < q) :
    ∃ f : ℚ, x = ((a.m / 2 ^ (q - a.e).toNat : Nat) + f) * 2 ^ q ∧ 0 ≤ f ∧ f < 1 ∧
      ((a.m % 2 ^ (q - a.e).toNat != 0 || a.sticky) = true ↔ f ≠ 0) ∧
      halfCmp (a.m % 2 ^ (q - a.e).toNat) (q - a.e).toNat a.sticky = compare (2 * f) 1 := by
  obtain ⟨t, hx, h0, h1, ht⟩ := h.fraction
  obtain ⟨sh, rfl⟩ : ∃ sh : Nat, q = a.e + sh := ⟨(q - a.e).toNat, by omega⟩
  rw [add_sub_cancel_left, Int.toNat_natCast]
  have pos : (0 : ℚ) < 2 ^ sh := by positivity
  have split : (a.m : ℚ) = 2 ^ sh * (a.m / 2 ^ sh : Nat) + (a.m % 2 ^ sh : Nat) := by
    exact_mod_cast (Nat.div_add_mod a.m (2 ^ sh)).symm
  have small : ((a.m % 2 ^ sh : Nat) : ℚ) + 1 ≤ 2 ^ sh := by exact_mod_cast Nat.mod_lt a.m (Nat.two_pow_pos sh)
  have nonneg : (0 : ℚ) ≤ (a.m % 2 ^ sh : Nat) := Nat.cast_nonneg _
  refine ⟨((a.m % 2 ^ sh : Nat) + t) / 2 ^ sh, ?_, by positivity, ?_, ?_, halfCmp_eq (by omega) h0 h1 ht⟩
  · rw [hx, zpow_add₀ two_ne_zero, zpow_natCast]
    nth_rewrite 1 [split]
    field_simp
    ring
  · rw [div_lt_one pos]
    linarith
  · rw [Bool.or_eq_true, ht, bne_iff_ne, div_ne_zero_iff, and_iff_left pos.ne']
    constructor
    · rintro (h | h) e
      · exact h (by exact_mod_cast (by linarith : ((a.m % 2 ^ sh : Nat) : ℚ) = 0))
      · exact h (by linarith)
    · intro h
      by_contra! none
      exact h (by rw [none.1, none.2]; simp)

/-! ### The selection -/

/-- In units of the last place, `d` is the way from a magnitude to the one that RC selects, which is `k` (R507). -/
def SelectsStep (rc : Rc) (neg : Bool) (k : Nat) (d : ℚ) : Prop :=
  match rc with
  | .nearest => 2 * |d| ≤ 1 ∧ (2 * |d| = 1 → k % 2 = 0)
  | .down => if neg then 0 ≤ d else d ≤ 0
  | .up => if neg then d ≤ 0 else 0 ≤ d
  | .zero => d ≤ 0

/-- `r` is the multiple of 2^q that RC selects for the magnitude `x`, at the way `d` from it, and says truly how it differs. -/
structure Rounded.Steps (rc : Rc) (neg : Bool) (r : Rounded) (q : Int) (x d : ℚ) : Prop where
  at_q : r.q = q
  way : r.k * 2 ^ q - x = d * 2 ^ q
  small : |d| < 1
  inexact : r.inexact = true ↔ d ≠ 0
  above : r.above = true ↔ 0 < d
  selects : SelectsStep rc neg r.k d

/-- At or below the exponent of an exact magnitude nothing is discarded. -/
theorem roundAt_of_le (rc : Rc) (neg : Bool) {a : Approx} {q : Int} {x : ℚ} (h : a.Is x) (hs : a.sticky = false)
    (hq : q ≤ a.e) : (roundAt rc neg a q).Steps rc neg q x 0 := by
  have split : (2 : ℚ) ^ a.e = 2 ^ (a.e - q).toNat * 2 ^ q := by
    rw [← zpow_natCast, ← zpow_add₀ two_ne_zero]
    congr 1
    omega
  have hx : x = a.m * 2 ^ a.e := by rwa [Approx.Is, hs, if_neg (by decide)] at h
  rw [roundAt, if_pos hq]
  refine ⟨rfl, ?_, by simp, by simp [hs], by simp, ?_⟩
  · rw [hx, split]
    push_cast
    ring
  · cases rc <;> simp [SelectsStep]

/-- The value below, or with `up` the one above, in units of the last place: `f` is discarded, and perhaps 1 is added. -/
theorem step_spec {up : Bool} {f : ℚ} (h0 : 0 ≤ f) (h1 : f < 1) (hup : up = true → f ≠ 0) :
    let d : ℚ := (if up then 1 else 0) - f
    |d| < 1 ∧ (f ≠ 0 ↔ d ≠ 0) ∧ (up = true ↔ 0 < d) := by
  cases up with
  | false => simp [abs_of_nonneg h0, h1, h0]
  | true =>
    have pos : 0 < f := lt_of_le_of_ne h0 (hup rfl).symm
    have : (1 : ℚ) - f ≠ 0 := by linarith
    simp [abs_of_pos (sub_pos.mpr h1), pos, h1, pos.ne', this]

/-- `roundsUp` selects as R507 says, by the fraction that is discarded. -/
theorem roundsUp_spec (rc : Rc) (neg : Bool) (k : Nat) {f : ℚ} (h0 : 0 ≤ f) (h1 : f < 1) :
    let up := roundsUp rc neg (k.testBit 0) (compare (2 * f) 1) (decide (f ≠ 0))
    (up = true → f ≠ 0) ∧ SelectsStep rc neg (if up then k + 1 else k) ((if up then 1 else 0) - f) := by
  cases rc with
  | nearest =>
    rcases lt_trichotomy (2 * f) 1 with h | h | h
    · simp only [compare_lt_iff_lt.mpr h, roundsUp, SelectsStep, Bool.false_eq_true, if_false, zero_sub, abs_neg,
        abs_of_nonneg h0]
      exact ⟨nofun, h.le, fun e => absurd e h.ne⟩
    · obtain rfl : f = 1 / 2 := by linarith
      simp only [compare_eq_iff_eq.mpr h, roundsUp, SelectsStep, Nat.testBit_zero]
      refine ⟨fun _ => by norm_num, ?_⟩
      rcases Nat.mod_two_eq_zero_or_one k with e | e
      · norm_num [e]
      · norm_num [e, abs_of_pos]
        omega
    · simp only [compare_gt_iff_gt.mpr h, roundsUp, SelectsStep, if_true]
      rw [abs_of_pos (by linarith)]
      exact ⟨fun _ => by linarith, by linarith, fun e => by linarith⟩
  | down | up =>
    rcases h0.eq_or_lt' with rfl | pos
    · simp [roundsUp, SelectsStep]
    · cases neg <;> simp [roundsUp, SelectsStep, pos.ne', h1.le, h0]
  | zero => simp [roundsUp, SelectsStep, h0]

/-- Above the exponent of a magnitude the fraction that is discarded decides. -/
theorem roundAt_of_lt (rc : Rc) (neg : Bool) {a : Approx} {q : Int} {x : ℚ} (h : a.Is x) (hq : a.e < q) :
    ∃ d, (roundAt rc neg a q).Steps rc neg q x d := by
  obtain ⟨f, hx, h0, h1, inexact, half⟩ := h.discarded hq
  have inexact : (a.m % 2 ^ (q - a.e).toNat != 0 || a.sticky) = decide (f ≠ 0) := by
    rw [Bool.eq_iff_iff, inexact, decide_eq_true_iff]
  obtain ⟨up, selects⟩ := roundsUp_spec rc neg (a.m / 2 ^ (q - a.e).toNat) h0 h1
  obtain ⟨small, ne, above⟩ := step_spec h0 h1 up
  rw [roundAt, if_neg hq.not_ge]
  simp only [half, inexact]
  refine ⟨_, rfl, ?_, small, (decide_eq_true_iff).trans ne, above, selects⟩
  rw [hx]
  split <;> push_cast <;> ring

/-- A magnitude rounded to a multiple of 2^q, exact or known between two neighbours. -/
theorem roundAt_steps (rc : Rc) (neg : Bool) {a : Approx} {q : Int} {x : ℚ} (h : a.Is x)
    (hs : a.sticky = true → a.e < q) : ∃ d, (roundAt rc neg a q).Steps rc neg q x d := by
  rcases le_or_gt q a.e with hq | hq
  · exact ⟨0, roundAt_of_le rc neg h (Bool.eq_false_iff.mpr fun e => (hs e).not_ge hq) hq⟩
  · exact roundAt_of_lt rc neg h hq

/-- Settles O30: nothing is discarded at or below the exponent of an exact magnitude, and above it the fraction that is discarded
decides as R507 says. -/
theorem roundingCorrect : Obligations.RoundingCorrect := by
  intro rc neg a q x hx hs r y
  obtain ⟨d, at_q, way, small, inexact, above, selects⟩ := roundAt_steps rc neg hx hs
  have pos : (0 : ℚ) < 2 ^ q := by positivity
  have way : y - x = d * 2 ^ q := way
  have low : x ≤ y ↔ 0 ≤ d := by rw [← sub_nonneg, way, mul_nonneg_iff_of_pos_right pos]
  have high : y ≤ x ↔ d ≤ 0 := by rw [← sub_nonpos, way, ← not_lt, mul_pos_iff_of_pos_right pos, not_lt]
  rw [way, abs_mul, abs_of_pos pos]
  refine ⟨at_q, mul_lt_of_lt_one_left pos small, ?_, ?_, ?_⟩
  · rw [inexact, ← sub_ne_zero (a := y), way, mul_ne_zero_iff_right pos.ne']
  · rw [above, ← sub_pos (a := y), way, mul_pos_iff_of_pos_right pos]
  · cases rc with
    | nearest =>
      obtain ⟨near, tie⟩ := selects
      rw [← mul_assoc]
      exact ⟨mul_le_of_le_one_left pos.le near, fun e => tie ((mul_eq_right₀ pos.ne').mp e)⟩
    | down | up =>
      simp only [low, high]
      exact selects
    | zero => exact high.mpr selects

end Sys2Proof.Machine
end

section
/-! The operation tables on finite operands (46_fpu_model.md R526 to R528, R530, 48_fpu_compare_trans_control.md R640, O31): what
an outcome stands for, a value as a multiple of a lower power of two, the quotient and the square root with their sticky rest. -/

namespace Sys2Proof.Machine

/-! ### Fixed values and the sign flipped -/

theorem F80.zero_cls (neg : Bool) : (F80.zero neg).cls = .zero := by
  rw [F80.cls_zero_iff, F80.zero, F80.mk_exp, F80.mk_sig]
  exact ⟨rfl, rfl⟩

theorem F80.zero_finite (neg : Bool) : (F80.zero neg).Finite := Or.inl (F80.zero_cls neg)

@[simp] theorem F80.zero_neg (neg : Bool) : (F80.zero neg).neg = neg := F80.mk_neg _ _ _

theorem F80.zero_rat (neg : Bool) : (F80.zero neg).rat = 0 := (F80.zero_finite neg).rat_eq_zero.mpr (F80.zero_cls neg)

/-- The bits of a value whose sign is replaced. -/
theorem F80.getLsbD_mk_sign (x : F80) (neg : Bool) {k : Nat} (hk : k < 80) :
    (F80.mk neg x.exp x.sig).getLsbD k = if k = 79 then neg else x.getLsbD k := by
  split
  · next h => exact h ▸ F80.mk_neg neg x.exp x.sig
  · rcases Nat.lt_or_ge k 64 with h | h
    · rw [← F80.testBit_sig _ h, ← F80.testBit_sig _ h, F80.mk_sig, Nat.mod_eq_of_lt x.sig_lt]
    · obtain ⟨j, rfl⟩ := Nat.exists_eq_add_of_le h
      rw [← F80.testBit_exp _ (by omega), ← F80.testBit_exp _ (by omega), F80.mk_exp, Nat.mod_eq_of_lt x.exp_lt]

/-- The bits of the mask of the sign. -/
theorem F80.getLsbD_signMask {k : Nat} (hk : k < 80) : (1#80 <<< 79).getLsbD k = decide (k = 79) := by
  rw [BitVec.getLsbD_shiftLeft, BitVec.getLsbD_one, Bool.eq_iff_iff]
  simp
  omega

theorem F80.flip_eq (x : F80) : x.flip = F80.mk (!x.neg) x.exp x.sig := by
  apply BitVec.eq_of_getLsbD_eq
  intro k hk
  rw [x.getLsbD_mk_sign _ hk, F80.flip, BitVec.getLsbD_xor, F80.getLsbD_signMask hk]
  split
  · next h => simp [h, F80.neg]
  · next h => simp [h]

@[simp] theorem F80.flip_neg (x : F80) : x.flip.neg = !x.neg := by rw [F80.flip_eq, F80.mk_neg]

@[simp] theorem F80.flip_exp (x : F80) : x.flip.exp = x.exp := by
  rw [F80.flip_eq, F80.mk_exp, Nat.mod_eq_of_lt x.exp_lt]

@[simp] theorem F80.flip_sig (x : F80) : x.flip.sig = x.sig := by
  rw [F80.flip_eq, F80.mk_sig, Nat.mod_eq_of_lt x.sig_lt]

theorem F80.flip_rat (x : F80) : x.flip.rat = -x.rat := by
  rw [F80.rat_eq, F80.rat_eq, F80.val, F80.val, F80.flip_exp, F80.flip_sig, F80.flip_neg]
  cases x.neg <;> simp [signed]

theorem F80.flip_finite {x : F80} (h : x.Finite) : x.flip.Finite := by
  rw [F80.finite_iff] at h ⊢
  rwa [F80.flip_exp, F80.flip_sig]

/-! ### What an outcome stands for -/

theorem F80.isInf_eq (x : F80) : x.isInf = decide (x.cls = .infinity) := rfl

theorem F80.isZero_eq (x : F80) : x.isZero = decide (x.cls = .zero) := rfl

theorem F80.Finite.isInf_eq_false {x : F80} (h : x.Finite) : x.isInf = false := by
  rcases h with h | h | h <;> simp [F80.isInf, h]

theorem Calc.zero_is (neg : Bool) : (Calc.exact (F80.zero neg)).Is 0 := ⟨F80.zero_finite neg, F80.zero_rat neg, rfl, rfl⟩

/-- A positive magnitude with a sign. -/
theorem Calc.real_is (neg : Bool) {a : Approx} {y : ℚ} (h : a.Is y) (hy : 0 < y) : (Calc.real neg a).Is (signed neg y) := by
  refine ⟨signed_ne_zero hy, signed_lt_zero hy, ?_⟩
  rwa [abs_signed, abs_of_pos hy]

/-- An exact magnitude with a sign. -/
theorem Calc.exact_real_is (neg : Bool) {m : Nat} (e : Int) (hm : m ≠ 0) :
    (Calc.real neg ⟨m, e, false⟩).Is (signed neg (m * 2 ^ e)) :=
  Calc.real_is neg rfl (by have := Nat.pos_of_ne_zero hm; positivity)

/-! ### Sums and comparisons -/

/-- A value as a multiple of a power of two at or below its exponent. -/
theorem F80.scaled_mul (x : F80) {e : Int} (h : e ≤ x.val.exp) : (x.val.scaled e : ℚ) * 2 ^ e = x.rat := by
  have split : (2 : ℚ) ^ x.val.exp = 2 ^ (x.val.exp - e).toNat * 2 ^ e := by
    rw [← zpow_natCast, ← zpow_add₀ two_ne_zero]
    congr 1
    omega
  rw [ExactVal.scaled, F80.rat, split]
  push_cast
  have : x.val.mant = x.sig := rfl
  rw [this, mul_assoc, mul_assoc, mul_assoc]
  rfl

/-- An integer multiple of 2^e, as a signed magnitude. -/
theorem signed_natAbs (t e : Int) : signed (decide (t < 0)) (t.natAbs * 2 ^ e) = t * 2 ^ e := by
  rw [signed_mul_right, Nat.cast_natAbs, Int.cast_abs, ← signed_decide_abs (t : ℚ)]
  simp

theorem addCalc_is (rc : Rc) {a b : F80} (ha : a.Finite) (hb : b.Finite) : (addCalc rc a b).Is (a.rat + b.rat) := by
  have sum : a.rat + b.rat = ((a.val.scaled (min a.val.exp b.val.exp) + b.val.scaled (min a.val.exp b.val.exp) : Int) : ℚ) *
      2 ^ min a.val.exp b.val.exp := by
    rw [Int.cast_add, add_mul, a.scaled_mul (min_le_left _ _), b.scaled_mul (min_le_right _ _)]
  rw [sum, addCalc, ha.isInf_eq_false, hb.isInf_eq_false]
  simp only [Bool.and_self, Bool.false_eq_true, if_false]
  split
  · next h => rw [h, Int.cast_zero, zero_mul]; exact Calc.zero_is _
  · next h => rw [← signed_natAbs]; exact Calc.exact_real_is _ _ (Int.natAbs_ne_zero.mpr h)

theorem subCalc_is (rc : Rc) {a b : F80} (ha : a.Finite) (hb : b.Finite) : (subCalc rc a b).Is (a.rat - b.rat) := by
  rw [sub_eq_add_neg, ← b.flip_rat]
  exact addCalc_is rc ha (F80.flip_finite hb)

/-- Integers compare as their multiples of one power of two do. -/
theorem compare_mul_zpow (m n e : Int) : compare m n = compare ((m : ℚ) * 2 ^ e) (n * 2 ^ e) := by
  have pos : (0 : ℚ) < 2 ^ e := by positivity
  rcases lt_trichotomy m n with h | h | h
  · rw [compare_lt_iff_lt.mpr h, eq_comm, compare_lt_iff_lt]
    exact mul_lt_mul_of_pos_right (by exact_mod_cast h) pos
  · rw [h, compare_eq_iff_eq.mpr rfl, compare_eq_iff_eq.mpr rfl]
  · rw [compare_gt_iff_gt.mpr h, eq_comm, compare_gt_iff_gt]
    exact mul_lt_mul_of_pos_right (by exact_mod_cast h) pos

theorem fCompare_eq {a b : F80} (ha : a.Finite) (hb : b.Finite) : fCompare a b = compare a.rat b.rat := by
  rw [fCompare, ha.isInf_eq_false, hb.isInf_eq_false]
  simp only [Bool.or_self, Bool.false_eq_true, if_false]
  rw [compare_mul_zpow, a.scaled_mul (min_le_left _ _), b.scaled_mul (min_le_right _ _)]

/-! ### Products and quotients -/

theorem mulCalc_is (rc : Rc) {a b : F80} (ha : a.Finite) (hb : b.Finite) : (mulCalc rc a b).Is (a.rat * b.rat) := by
  rw [mulCalc, ha.isInf_eq_false, hb.isInf_eq_false]
  simp only [Bool.or_self, Bool.false_eq_true, if_false, F80.isZero_eq, Bool.or_eq_true, decide_eq_true_eq]
  split
  · next h =>
    rw [← ha.rat_eq_zero, ← hb.rat_eq_zero, ← mul_eq_zero] at h
    rw [h]
    exact Calc.zero_is _
  · next h =>
    rw [ha.zero_iff, hb.zero_iff, ← mul_eq_zero] at h
    have : a.rat * b.rat = signed (a.neg != b.neg) ((a.sig * b.sig : Nat) * 2 ^ (a.val.exp + b.val.exp)) := by
      rw [a.rat_eq, b.rat_eq, signed_mul, zpow_add₀ two_ne_zero]
      push_cast
      ring_nf
    rw [this]
    exact Calc.exact_real_is _ _ h

/-- The quotient of two positive numbers, scaled, with its rest as sticky. -/
theorem ratio_is {n m : Nat} (e : Int) (hn : n ≠ 0) (hm : m ≠ 0) : (ratio n m e).Is (n / m * 2 ^ e) := by
  set s := 67 + Nat.log2 m with hs
  set k := n <<< s / m
  have mpos : (0 : ℚ) < m := by exact_mod_cast Nat.pos_of_ne_zero hm
  have num : ((n <<< s : Nat) : ℚ) = m * k + (n <<< s % m : Nat) := by exact_mod_cast (Nat.div_add_mod _ _).symm
  have value : (n : ℚ) / m * 2 ^ e = (n <<< s : Nat) / m * 2 ^ (e - s) := by
    rw [Nat.shiftLeft_eq, zpow_sub₀ two_ne_zero, zpow_natCast]
    push_cast
    field_simp
  have pos : (0 : ℚ) < 2 ^ (e - s) := by positivity
  have rest : (n <<< s % m : Nat) < m := Nat.mod_lt _ (Nat.pos_of_ne_zero hm)
  rw [value, num, Approx.Is, ratio]
  simp only [bne_iff_ne]
  split
  · next sticky =>
    have rpos : (0 : ℚ) < (n <<< s % m : Nat) := by exact_mod_cast Nat.pos_of_ne_zero sticky
    have rlt : ((n <<< s % m : Nat) : ℚ) < m := by exact_mod_cast rest
    refine ⟨mul_lt_mul_of_pos_right ?_ pos, mul_lt_mul_of_pos_right ?_ pos, ?_⟩
    · rw [lt_div_iff₀ mpos]; linarith
    · rw [div_lt_iff₀ mpos]; linarith
    · rw [Nat.le_div_iff_mul_le (Nat.pos_of_ne_zero hm), Nat.shiftLeft_eq]
      calc 2 ^ 66 * m ≤ 2 ^ 66 * 2 ^ (Nat.log2 m + 1) := Nat.mul_le_mul_left _ Nat.lt_log2_self.le
        _ = 1 * 2 ^ s := by rw [← pow_add, one_mul, hs]; congr 1; omega
        _ ≤ n * 2 ^ s := Nat.mul_le_mul_right _ (Nat.pos_of_ne_zero hn)
  · next h =>
    rw [not_not] at h
    rw [h, Nat.cast_zero, add_zero, mul_div_cancel_left₀ _ mpos.ne']

theorem divCalc_is (rc : Rc) {a b : F80} (ha : a.Finite) (hb : b.Finite) (h0 : b.rat ≠ 0) :
    (divCalc rc a b).Is (a.rat / b.rat) := by
  have hbz : b.isZero = false := decide_eq_false (mt hb.rat_eq_zero.mpr h0)
  rw [divCalc, ha.isInf_eq_false, hb.isInf_eq_false, hbz]
  simp only [Bool.false_eq_true, if_false, F80.isZero_eq, decide_eq_true_eq]
  split
  · next h => rw [ha.rat_eq_zero.mpr h, zero_div]; exact Calc.zero_is _
  · next h =>
    have hs : a.sig ≠ 0 := mt ha.zero_iff.mpr h
    have hbs : b.sig ≠ 0 := mt b.rat_eq_zero_iff.mpr h0
    have : a.rat / b.rat = signed (a.neg != b.neg) (a.sig / b.sig * 2 ^ (a.val.exp - b.val.exp)) := by
      rw [a.rat_eq, b.rat_eq, signed_div, zpow_sub₀ two_ne_zero, mul_div_mul_comm]
    rw [this]
    have := Nat.pos_of_ne_zero hs
    have := Nat.pos_of_ne_zero hbs
    exact Calc.real_is _ (ratio_is _ hs hbs) (by positivity)

/-! ### Square roots -/

/-- The integer square root of a number that the fuel suffices for. -/
theorem isqrt_eq_sqrt {fuel n : Nat} (h : n < 4 ^ fuel) : isqrt fuel n = Nat.sqrt n := by
  induction fuel generalizing n with
  | zero =>
    obtain rfl : n = 0 := by simpa using h
    rfl
  | succ fuel ih =>
    have lo := Nat.sqrt_le (n / 4)
    have hi := Nat.succ_le_succ_sqrt (n / 4)
    rw [isqrt, ih (by rw [pow_succ] at h; omega), Nat.eq_sqrt]
    generalize Nat.sqrt (n / 4) = r at lo hi
    have four : ∀ k : Nat, 2 * k * (2 * k) = 4 * (k * k) := fun k => by ring
    have lo' := four r
    have hi' := four (r + 1)
    split
    · next up => exact ⟨up, by rw [show 2 * r + 1 + 1 = 2 * (r + 1) by ring]; omega⟩
    · next down => exact ⟨by omega, by omega⟩

/-- The square root of m * 2^e is the integer square root of m, scaled by an even power of two. -/
theorem sqrtApprox_spec {m : Nat} (e : Int) (hm : m ≠ 0) (hlt : m < 2 ^ 64) :
    let p := sqrtApprox m e
    2 ^ 66 ≤ p.m ∧ ((p.m : ℚ) * 2 ^ p.e) ^ 2 ≤ m * 2 ^ e ∧ m * 2 ^ e < (((p.m : ℚ) + 1) * 2 ^ p.e) ^ 2 ∧
      (p.sticky = false ↔ ((p.m : ℚ) * 2 ^ p.e) ^ 2 = m * 2 ^ e) := by
  intro p
  set s := 134 + (e % 2).toNat with hs
  have hs' : s ≤ 135 := by omega
  set n := m <<< s with hn
  have hn' : n = m * 2 ^ s := Nat.shiftLeft_eq _ _
  have lt : n < 4 ^ 128 := by
    calc n < 2 ^ 64 * 2 ^ s := hn' ▸ Nat.mul_lt_mul_of_pos_right hlt (by positivity)
      _ ≤ 2 ^ 64 * 2 ^ 135 := Nat.mul_le_mul_left _ (Nat.pow_le_pow_right two_pos hs')
      _ ≤ 4 ^ 128 := by norm_num
  have root : p = { m := Nat.sqrt n, e := (e - s) / 2, sticky := Nat.sqrt n * Nat.sqrt n != n } := by
    show sqrtApprox m e = _
    rw [sqrtApprox, ← isqrt_eq_sqrt lt]
  have scale : (m : ℚ) * 2 ^ e = n * (2 ^ ((e - s) / 2)) ^ 2 := by
    rw [hn', ← zpow_natCast, ← zpow_mul, Nat.cast_mul, Nat.cast_pow, mul_assoc, ← zpow_natCast, Nat.cast_ofNat,
      ← zpow_add₀ two_ne_zero]
    congr 2
    omega
  have pos : (0 : ℚ) < (2 ^ ((e - s) / 2)) ^ 2 := by positivity
  have lo : ((Nat.sqrt n : Nat) : ℚ) ^ 2 ≤ n := by exact_mod_cast Nat.sqrt_le' n
  have hi : (n : ℚ) < ((Nat.sqrt n : Nat) + 1) ^ 2 := by exact_mod_cast Nat.lt_succ_sqrt' n
  rw [scale, root]
  simp only [mul_pow]
  refine ⟨?_, mul_le_mul_of_nonneg_right lo pos.le, mul_lt_mul_of_pos_right hi pos, ?_⟩
  · rw [Nat.le_sqrt, hn']
    calc 2 ^ 66 * 2 ^ 66 ≤ 1 * 2 ^ 134 := by norm_num
      _ ≤ m * 2 ^ s := Nat.mul_le_mul (Nat.pos_of_ne_zero hm) (Nat.pow_le_pow_right two_pos (by omega))
  · rw [mul_left_inj' pos.ne', bne_eq_false_iff_eq, ← sq]
    exact_mod_cast Iff.rfl

theorem sqrtCalc_pos {a : F80} (ha : a.Finite) (h0 : 0 < a.rat) : sqrtCalc a = .real false (sqrtApprox a.sig a.val.exp) := by
  have hz : a.isZero = false := decide_eq_false (mt ha.rat_eq_zero.mpr h0.ne')
  have hn : a.neg = false := (F80.neg_eq_of_rat_ne h0.ne').trans (decide_eq_false h0.not_gt)
  rw [sqrtCalc, hz, hn, ha.isInf_eq_false]
  simp

/-- Settles O31: each table computes with the significands at one exponent, and what it leaves out is a sticky rest. -/
theorem arithmeticExact : Obligations.ArithmeticExact := by
  intro rc a b ha hb
  refine ⟨addCalc_is rc ha hb, subCalc_is rc ha hb, mulCalc_is rc ha hb, divCalc_is rc ha hb, fCompare_eq ha hb, fun h0 => ?_⟩
  have spec := sqrtApprox_spec a.val.exp (mt a.rat_eq_zero_iff.mpr h0.ne') a.sig_lt
  rw [← a.abs_rat, abs_of_pos h0] at spec
  exact ⟨_, sqrtCalc_pos ha h0, spec⟩

end Sys2Proof.Machine
end

section
/-! Rounding and encoding in the words of R507 and R510 (46_fpu_model.md): the selection at p bits, with or without a lower
exponent limit, and the encoding of a dyadic value where the format has one. -/

namespace Sys2Proof.Machine

/-! ### The selection at p bits -/

/-- The value of a rounded magnitude with a sign. -/
def Rounded.rat (r : Rounded) (neg : Bool) : ℚ := signed neg (r.k * 2 ^ r.q)

@[simp] theorem Rounded.abs_rat (r : Rounded) (neg : Bool) : |r.rat neg| = r.k * 2 ^ r.q := by
  rw [Rounded.rat, abs_signed, abs_of_nonneg (by positivity)]

@[simp] theorem signed_inj (neg : Bool) (x y : ℚ) : signed neg x = signed neg y ↔ x = y := by cases neg <;> simp [signed]

theorem signed_sub (neg : Bool) (x y : ℚ) : signed neg x - signed neg y = signed neg (x - y) := by
  cases neg <;> simp [signed]; ring

/-- `r` is what RC selects at p bits for the real of magnitude `x` and sign `neg`, and says truly how it differs. -/
structure Rounded.Rounds (rc : Rc) (p : Nat) (emin : Option Int) (neg : Bool) (x : ℚ) (r : Rounded) : Prop where
  selects : Selects rc p emin (signed neg x) (r.rat neg)
  inexact : r.inexact = decide (r.rat neg ≠ signed neg x)
  above : r.above = decide (|signed neg x| < |r.rat neg|)
  le : r.k ≤ 2 ^ p
  near : x < (r.k + 1) * 2 ^ r.q

/-- A selection at the exponent where the real has p bits, or at the lowest, is one of R507. -/
theorem Rounded.Steps.rounds {rc : Rc} {p : Nat} {emin : Option Int} {neg : Bool} {x d : ℚ} {q : Int} {r : Rounded}
    (h : r.Steps rc neg q x d) (h0 : 0 ≤ x) (hi : x < 2 ^ p * 2 ^ q) (lo : ∀ e, emin = some e → e - p + 1 ≤ q)
    (norm : 2 ^ (p - 1) * 2 ^ q ≤ x ∨ emin = some (q + p - 1)) : r.Rounds rc p emin neg x := by
  obtain ⟨rfl, way, small, inexact, above, selects⟩ := h
  have pos : (0 : ℚ) < 2 ^ r.q := by positivity
  have size : (0 : ℚ) ≤ r.k * 2 ^ r.q := by positivity
  obtain ⟨small1, small2⟩ := abs_lt.mp small
  have below : (r.k : ℚ) * 2 ^ r.q < x + 2 ^ r.q := by
    have := mul_lt_of_lt_one_left pos small2
    linarith
  have close : x < (r.k : ℚ) * 2 ^ r.q + 2 ^ r.q := by
    have := mul_lt_of_lt_one_left pos (by linarith : -d < 1)
    linarith
  have nonneg : 0 ≤ d ↔ x ≤ r.k * 2 ^ r.q := by rw [← sub_nonneg (b := x), way, mul_nonneg_iff_of_pos_right pos]
  have nonpos : d ≤ 0 ↔ r.k * 2 ^ r.q ≤ x := by
    rw [← sub_nonpos (b := x), way, ← not_lt, ← not_lt, mul_pos_iff_of_pos_right pos]
  have hx : |signed neg x| = x := by rw [abs_signed, abs_of_nonneg h0]
  refine ⟨⟨r.k, r.q, r.abs_rat _, ?_, by rwa [hx], lo, by rwa [hx], ?_⟩, ?_, ?_, ?_, ?_⟩
  · rw [Rounded.rat, signed_mul, bne_self_eq_false]
    exact mul_nonneg h0 size
  · cases rc with
    | nearest =>
      obtain ⟨near, tie⟩ := selects
      rw [Rounded.rat, signed_sub, way, abs_signed, abs_mul, abs_of_pos pos, ← mul_assoc]
      exact ⟨mul_le_of_le_one_left pos.le near, fun e => tie ((mul_eq_right₀ pos.ne').mp e)⟩
    | down | up =>
      simp only [SelectsStep, nonneg, nonpos] at selects
      cases neg <;> simp only [Rounded.rat, signed, if_true, if_false, Bool.false_eq_true] at selects ⊢ <;>
        constructor <;> linarith
    | zero =>
      rw [r.abs_rat, hx]
      exact ⟨nonpos.mp selects, close⟩
  · rw [Bool.eq_iff_iff, decide_eq_true_iff, inexact, Rounded.rat, Ne, Ne, signed_inj, ← sub_eq_zero (b := x), way,
      mul_eq_zero_iff_right pos.ne']
  · rw [Bool.eq_iff_iff, decide_eq_true_iff, above, r.abs_rat, hx, ← sub_pos (b := x), way, mul_pos_iff_of_pos_right pos]
  · have : (r.k : ℚ) * 2 ^ r.q < (2 ^ p + 1) * 2 ^ r.q := by linarith
    have : (r.k : ℚ) < 2 ^ p + 1 := lt_of_mul_lt_mul_right this pos.le
    exact Nat.lt_succ_iff.mp (by exact_mod_cast this)
  · linarith

/-- A sticky approximation has more bits than any precision keeps. -/
theorem Approx.Is.sticky_top {a : Approx} {x : ℚ} (h : a.Is x) (hs : a.sticky = true) : a.e + 66 ≤ a.top := by
  rw [Approx.Is, if_pos hs] at h
  obtain ⟨-, -, hm⟩ := h
  have := (Nat.le_log2 (by omega)).mpr hm
  rw [Approx.top]
  omega

theorem two_pow_mul_zpow (n : Nat) (q : Int) : (2 : ℚ) ^ n * 2 ^ q = 2 ^ (n + q) := by
  rw [zpow_add₀ two_ne_zero, zpow_natCast]

section Rounds

variable (rc : Rc) (neg : Bool) {p : Nat} {a : Approx} {x : ℚ} (h : a.Is x) (hx : 0 < x) (hp : 0 < p) (hp64 : p ≤ 64)
include h hx hp hp64

/-- `RoundU` selects among the values of p bits (R507). -/
theorem roundU_rounds : (roundU rc neg p a).Rounds rc p none neg x := by
  obtain ⟨lo, hi⟩ := h.top_bounds hx.ne'
  obtain ⟨d, steps⟩ := roundAt_steps rc neg (q := a.top - p + 1) h fun hs => by
    have := h.sticky_top hs
    omega
  refine steps.rounds hx.le ?_ nofun (.inl ?_)
  · rwa [two_pow_mul_zpow, show (p : Int) + (a.top - p + 1) = a.top + 1 by ring]
  · rwa [two_pow_mul_zpow, Nat.cast_sub hp, show (p : Int) - (1 : Nat) + (a.top - p + 1) = a.top by push_cast; ring]

/-- `Round` selects among the values of p bits that are multiples of 2^(emin - p + 1) (R507). -/
theorem roundE_rounds (emin : Int) : (roundE rc neg p emin a).Rounds rc p (some emin) neg x := by
  obtain ⟨lo, hi⟩ := h.top_bounds hx.ne'
  obtain ⟨d, steps⟩ := roundAt_steps rc neg (q := max (a.top - p + 1) (emin - p + 1)) h fun hs => by
    have := h.sticky_top hs
    omega
  refine steps.rounds hx.le ?_ (fun e he => ?_) ?_
  · rw [two_pow_mul_zpow]
    exact hi.trans_le (zpow_le_zpow_right₀ one_le_two (by omega))
  · obtain rfl := Option.some.inj he
    exact le_max_right _ _
  · rcases le_total (emin - p + 1) (a.top - p + 1) with hq | hq
    · left
      rw [max_eq_left hq, two_pow_mul_zpow, Nat.cast_sub hp,
        show (p : Int) - (1 : Nat) + (a.top - p + 1) = a.top by push_cast; ring]
      exact lo
    · right
      rw [max_eq_right hq]
      congr 1
      ring

/-- A magnitude rounded at p bits has p bits, or is the next power of two. -/
theorem two_pow_le_roundU : 2 ^ (p - 1) ≤ (roundU rc neg p a).k := by
  have near := (roundU_rounds rc neg h hx hp hp64).near
  have lo := (h.top_bounds hx.ne').1
  have q : (roundU rc neg p a).q = a.top - p + 1 := by rw [roundU, roundAt]; split <;> rfl
  have pos : (0 : ℚ) < 2 ^ (roundU rc neg p a).q := by positivity
  have lo : (2 : ℚ) ^ (p - 1) * 2 ^ (roundU rc neg p a).q ≤ x := by
    rwa [q, two_pow_mul_zpow, Nat.cast_sub hp, show (p : Int) - (1 : Nat) + (a.top - p + 1) = a.top by push_cast; ring]
  have := lt_of_mul_lt_mul_right (lo.trans_lt near) pos.le
  exact Nat.lt_succ_iff.mp (by exact_mod_cast this)

end Rounds

/-! ### The encoding (R510) -/

theorem F80.mk_normal_encodes (neg : Bool) {exp sig : Nat} (h0 : exp ≠ 0) (h1 : exp < 0x7FFF) (h2 : 2 ^ 63 ≤ sig)
    (h3 : sig < 2 ^ 64) : (F80.mk neg exp sig).Encodes neg (signed neg (sig * 2 ^ ((exp : Int) - 16446))) := by
  have he : (F80.mk neg exp sig).exp = exp := (F80.mk_exp _ _ _).trans (Nat.mod_eq_of_lt (by omega))
  have hs : (F80.mk neg exp sig).sig = sig := (F80.mk_sig _ _ _).trans (Nat.mod_eq_of_lt h3)
  refine ⟨?_, ?_, F80.mk_neg _ _ _, fun h => absurd (he ▸ h) h0⟩
  · rw [F80.finite_iff, he, hs]
    exact ⟨h1, .inr h2⟩
  · rw [F80.rat_eq, F80.val, he, hs, if_neg h0, F80.mk_neg]

theorem F80.mk_denormal_encodes (neg : Bool) {sig : Nat} (h : sig < 2 ^ 63) :
    (F80.mk neg 0 sig).Encodes neg (signed neg (sig * 2 ^ (-16445 : Int))) := by
  have he : (F80.mk neg 0 sig).exp = 0 := F80.mk_exp _ _ _
  have hs : (F80.mk neg 0 sig).sig = sig := (F80.mk_sig _ _ _).trans (Nat.mod_eq_of_lt (by omega))
  refine ⟨?_, ?_, F80.mk_neg _ _ _, fun _ => by rwa [hs]⟩
  · rw [F80.finite_iff, he]
    exact ⟨by decide, .inl rfl⟩
  · rw [F80.rat_eq, F80.val, he, hs, F80.mk_neg]
    rfl

theorem F80.zero_encodes (neg : Bool) : (F80.zero neg).Encodes neg 0 := by
  have := F80.mk_denormal_encodes neg (sig := 0) (by decide)
  rwa [Nat.cast_zero, zero_mul, signed_zero] at this

/-- A nonzero number shifted so that its leading bit is bit 63. -/
def normalized (k : Nat) : Nat := if 63 < Nat.log2 k then k >>> (Nat.log2 k - 63) else k <<< (63 - Nat.log2 k)

/-- A number that loses no bit by it is its normalized form, scaled. -/
theorem normalized_spec {k : Nat} (hk : k ≠ 0) (hd : 2 ^ (Nat.log2 k - 63) ∣ k) :
    (normalized k : ℚ) * 2 ^ ((Nat.log2 k : Int) - 63) = k ∧ 2 ^ 63 ≤ normalized k ∧ normalized k < 2 ^ 64 := by
  have lo := Nat.log2_self_le hk
  have hi : k < 2 ^ (Nat.log2 k + 1) := Nat.lt_log2_self
  unfold normalized
  generalize Nat.log2 k = l at lo hi hd
  split
  · next h =>
    obtain ⟨j, rfl⟩ := Nat.exists_eq_add_of_le h.le
    rw [Nat.add_sub_cancel_left] at hd ⊢
    obtain ⟨c, rfl⟩ := hd
    rw [pow_add] at lo
    rw [add_right_comm, pow_add _ (63 + 1)] at hi
    rw [Nat.shiftRight_eq_div_pow, Nat.mul_div_cancel_left _ (Nat.two_pow_pos j)]
    have pos := Nat.two_pow_pos j
    rw [mul_comm] at lo hi
    refine ⟨?_, Nat.le_of_mul_le_mul_left lo pos, Nat.lt_of_mul_lt_mul_right (a := 2 ^ j) hi⟩
    push_cast
    rw [add_sub_cancel_left, zpow_natCast, mul_comm]
  · next h =>
    obtain ⟨j, hj⟩ := Nat.exists_eq_add_of_le (Nat.not_lt.mp h)
    rw [show 63 - l = j by omega, Nat.shiftLeft_eq, show (l : Int) - 63 = -j by omega, zpow_neg, zpow_natCast, hj,
      show 64 = l + 1 + j by omega, pow_add, pow_add _ (l + 1)]
    refine ⟨?_, Nat.mul_le_mul_right _ lo, Nat.mul_lt_mul_of_pos_right hi (Nat.two_pow_pos j)⟩
    push_cast
    rw [mul_assoc, mul_inv_cancel₀ (by positivity), mul_one]

/-- The encoding of a nonzero magnitude, by its leading bit. -/
theorem encodeReg_of_ne (neg : Bool) {k : Nat} (q : Int) (hk : k ≠ 0) : encodeReg neg k q =
    if 16383 < (Nat.log2 k : Int) + q then none
    else if -16382 ≤ (Nat.log2 k : Int) + q then some (F80.mk neg ((Nat.log2 k : Int) + q + 16383).toNat (normalized k))
    else if -16445 ≤ q then some (F80.mk neg 0 (k <<< (q + 16445).toNat))
    else if k % 2 ^ (-16445 - q).toNat = 0 then some (F80.mk neg 0 (k >>> (-16445 - q).toNat))
    else none := if_neg hk

/-- What `encodeReg` answers encodes its value. -/
theorem encodeReg_encodes {neg : Bool} {k : Nat} {q : Int} {v : F80} (hd : 2 ^ (Nat.log2 k - 63) ∣ k)
    (h : encodeReg neg k q = some v) : v.Encodes neg (signed neg (k * 2 ^ q)) := by
  rcases eq_or_ne k 0 with rfl | hk
  · obtain rfl := Option.some.inj h
    rw [Nat.cast_zero, zero_mul, signed_zero]
    exact F80.zero_encodes neg
  have hi : k < 2 ^ (Nat.log2 k + 1) := Nat.lt_log2_self
  rw [encodeReg_of_ne neg q hk] at h
  split_ifs at h with h1 h2 h3 h4
  · obtain rfl := Option.some.inj h
    obtain ⟨value, lo, hi⟩ := normalized_spec hk hd
    have enc := F80.mk_normal_encodes neg (exp := ((Nat.log2 k : Int) + q + 16383).toNat) (by omega) (by omega) lo hi
    rw [Int.toNat_of_nonneg (by omega)] at enc
    rw [← value, mul_assoc, ← zpow_add₀ two_ne_zero]
    convert enc using 4
    ring
  · obtain rfl := Option.some.inj h
    obtain ⟨j, hj⟩ := Int.eq_ofNat_of_zero_le (by omega : 0 ≤ q + 16445)
    rw [hj, Int.toNat_natCast, Nat.shiftLeft_eq]
    have small : k * 2 ^ j < 2 ^ 63 :=
      calc k * 2 ^ j < 2 ^ (Nat.log2 k + 1) * 2 ^ j := Nat.mul_lt_mul_of_pos_right hi (Nat.two_pow_pos j)
        _ = 2 ^ (Nat.log2 k + 1 + j) := (pow_add _ _ _).symm
        _ ≤ 2 ^ 63 := Nat.pow_le_pow_right two_pos (by omega)
    convert F80.mk_denormal_encodes neg small using 2
    rw [show q = j + -16445 by omega, ← two_pow_mul_zpow, Nat.cast_mul, Nat.cast_pow, Nat.cast_ofNat, mul_assoc]
  · obtain rfl := Option.some.inj h
    obtain ⟨j, hj⟩ := Int.eq_ofNat_of_zero_le (by omega : 0 ≤ -16445 - q)
    rw [hj, Int.toNat_natCast] at h4 ⊢
    obtain ⟨c, rfl⟩ := Nat.dvd_of_mod_eq_zero h4
    rw [Nat.shiftRight_eq_div_pow, Nat.mul_div_cancel_left _ (Nat.two_pow_pos j)]
    have small : c < 2 ^ 63 := by
      refine Nat.lt_of_mul_lt_mul_left (a := 2 ^ j) (hi.trans_le ?_)
      rw [← pow_add]
      exact Nat.pow_le_pow_right two_pos (by omega)
    convert F80.mk_denormal_encodes neg small using 2
    rw [show q = -16445 - j by omega, zpow_sub₀ two_ne_zero, zpow_natCast]
    generalize (2 : ℚ) ^ (-16445 : Int) = z
    push_cast
    field_simp

/-- A finite value is below 2^16384. -/
theorem F80.Finite.abs_rat_lt {x : F80} (h : x.Finite) : |x.rat| < 2 ^ (16384 : Int) := by
  obtain ⟨he, -⟩ := x.finite_iff.mp h
  rw [x.abs_rat]
  have hs : (x.sig : ℚ) < 2 ^ 64 := by exact_mod_cast x.sig_lt
  calc (x.sig : ℚ) * 2 ^ x.val.exp < 2 ^ 64 * 2 ^ x.val.exp := by gcongr
    _ = 2 ^ ((64 : Nat) + x.val.exp) := two_pow_mul_zpow _ _
    _ ≤ 2 ^ (16384 : Int) := zpow_le_zpow_right₀ one_le_two (by rw [F80.val]; dsimp only; split <;> omega)

/-- A finite value is a multiple of 2^-16445. -/
theorem F80.lowest (x : F80) : ∃ n : Nat, |x.rat| = n * 2 ^ (-16445 : Int) := by
  have : (-16445 : Int) ≤ x.val.exp := by rw [F80.val]; dsimp only; split <;> omega
  obtain ⟨j, hj⟩ := Int.eq_ofNat_of_zero_le (by omega : 0 ≤ x.val.exp + 16445)
  refine ⟨x.sig * 2 ^ j, ?_⟩
  rw [x.abs_rat, show x.val.exp = j + -16445 by omega, ← two_pow_mul_zpow, Nat.cast_mul, Nat.cast_pow, Nat.cast_ofNat,
    mul_assoc]

/-- The leading bit of a dyadic magnitude, as a bound. -/
theorem two_zpow_le_dyadic {k : Nat} (hk : k ≠ 0) (q t : Int) :
    (2 : ℚ) ^ t ≤ k * 2 ^ q ↔ t ≤ Nat.log2 k + q := by
  have lo := Approx.two_zpow_top_le (a := ⟨k, q, false⟩) hk
  have hi : (k : ℚ) * 2 ^ q < (k + 1) * 2 ^ q := by
    have pos : (0 : ℚ) < 2 ^ q := by positivity
    linarith
  have hi := hi.trans_le (Approx.succ_le_two_zpow_top ⟨k, q, false⟩)
  constructor
  · intro h
    exact Int.lt_add_one_iff.mp ((zpow_lt_zpow_iff_right₀ one_lt_two).mp (h.trans_lt hi))
  · intro h
    exact (zpow_le_zpow_right₀ one_le_two h).trans lo

/-- Where the format has a value, `encodeReg` answers one. -/
theorem encodeReg_of_encodes {neg : Bool} {k : Nat} {q : Int} {v : F80} (h : v.Encodes neg (signed neg (k * 2 ^ q))) :
    ∃ w, encodeReg neg k q = some w := by
  obtain ⟨fin, value, -, -⟩ := h
  have value : |v.rat| = k * 2 ^ q := by rw [value, abs_signed, abs_of_nonneg (by positivity)]
  rcases eq_or_ne k 0 with rfl | hk
  · exact ⟨_, rfl⟩
  rw [encodeReg_of_ne neg q hk]
  split_ifs with h1 h2 h3 h4
  · exact absurd ((two_zpow_le_dyadic hk q 16384).mpr (by omega)) (by rw [← value]; exact fin.abs_rat_lt.not_ge)
  · exact ⟨_, rfl⟩
  · exact ⟨_, rfl⟩
  · exact ⟨_, rfl⟩
  · obtain ⟨j, hj⟩ := Int.eq_ofNat_of_zero_le (by omega : 0 ≤ -16445 - q)
    obtain ⟨n, hn⟩ := v.lowest
    rw [hj, Int.toNat_natCast] at h4
    have even : (k : ℚ) * 2 ^ q = n * 2 ^ ((j : Int) + q) := by rw [← value, hn, show (j : Int) + q = -16445 by omega]
    rw [← two_pow_mul_zpow, ← mul_assoc, mul_left_inj' (by positivity)] at even
    have even : k = n * 2 ^ j := by exact_mod_cast even
    exact absurd (by rw [even, Nat.mul_mod_left]) h4

/-- `encodeReg` answers a value of a magnitude in the range of the format. -/
theorem encodeReg_isSome (neg : Bool) {k : Nat} {q : Int} (hi : k ≠ 0 → Nat.log2 k + q < 16384)
    (lo : -16445 ≤ q ∨ -16382 ≤ Nat.log2 k + q) : ∃ v, encodeReg neg k q = some v := by
  rcases eq_or_ne k 0 with rfl | hk
  · exact ⟨_, rfl⟩
  rw [encodeReg_of_ne neg q hk, if_neg (by have := hi hk; omega)]
  split_ifs
  · exact ⟨_, rfl⟩
  · exact ⟨_, rfl⟩
  · exact ⟨_, rfl⟩
  · omega

/-- A number of at most 64 bits, or the next power of two, loses no bit when it is normalized. -/
theorem two_pow_dvd_of_le {k : Nat} (h : k ≤ 2 ^ 64) : 2 ^ (Nat.log2 k - 63) ∣ k := by
  rcases h.lt_or_eq with h | rfl
  · rcases Nat.eq_zero_or_pos k with rfl | hk
    · exact dvd_zero _
    · have : Nat.log2 k < 64 := (Nat.log2_lt hk.ne').mpr h
      rw [show Nat.log2 k - 63 = 0 by omega]
      exact one_dvd k
  · rw [Nat.log2_two_pow]
    decide

end Sys2Proof.Machine
end

section
/-! Delivery to a register (46_fpu_model.md R509, R510, O32): the three ranges of the rounded value, and the checks of the operands
around it. -/

namespace Sys2Proof.Machine

/-! ### What is delivered -/

section Encode

variable (d : Nat) (neg : Bool) {k : Nat} {q : Int} (hk : k ≤ 2 ^ 64)
include hk

/-- A rounded value in the range of the format is delivered as its encoding. -/
theorem encodeOr_encodes (hi : k ≠ 0 → Nat.log2 k + q < 16384) (lo : -16445 ≤ q ∨ -16382 ≤ Nat.log2 k + q) :
    (encodeOr d neg k q).Encodes neg (signed neg (k * 2 ^ q)) := by
  obtain ⟨v, e⟩ := encodeReg_isSome neg hi lo
  rw [encodeOr, e]
  exact encodeReg_encodes (two_pow_dvd_of_le hk) e

/-- A bias-adjusted value is delivered as its encoding where it has one. -/
theorem encodeOr_adjusted {v : F80} (h : v.Encodes neg (signed neg (k * 2 ^ q))) :
    (encodeOr d neg k q).Encodes neg (signed neg (k * 2 ^ q)) := by
  obtain ⟨w, e⟩ := encodeReg_of_encodes h
  rw [encodeOr, e]
  exact encodeReg_encodes (two_pow_dvd_of_le hk) e

end Encode

/-- The largest finite value of p bits (R509). -/
theorem F80.largest_encodes (neg : Bool) {p : Nat} (hp : 0 < p) (hp64 : p ≤ 64) :
    (F80.mk neg 0x7FFE ((2 ^ p - 1) <<< (64 - p))).Encodes neg
      ((if neg then -1 else 1) * (2 ^ p - 1) * 2 ^ (16384 - p)) := by
  obtain ⟨j, hj⟩ := Nat.exists_eq_add_of_le hp64
  have one : 1 ≤ 2 ^ p := Nat.one_le_two_pow
  have sig : (2 ^ p - 1) <<< (64 - p) = 2 ^ 64 - 2 ^ j := by
    rw [show 64 - p = j by omega, Nat.shiftLeft_eq, Nat.sub_mul, ← pow_add, ← hj, one_mul]
  have half : 2 ^ j ≤ 2 ^ 63 := Nat.pow_le_pow_right two_pos (by omega)
  have pos := Nat.two_pow_pos j
  have enc := F80.mk_normal_encodes neg (exp := 0x7FFE) (sig := 2 ^ 64 - 2 ^ j) (by decide) (by decide) (by omega) (by omega)
  rw [sig, mul_assoc, signed_eq_mul]
  convert enc using 2
  have exponent : ((16384 - p : Nat) : Int) = (64 - p : Nat) + ((0x7FFE : Nat) - 16446) := by
    rw [Nat.cast_sub (by omega), Nat.cast_sub hp64]
    push_cast
    ring
  rw [← sig, Nat.shiftLeft_eq, Nat.cast_mul, Nat.cast_sub one, Nat.cast_pow, Nat.cast_pow, Nat.cast_ofNat, Nat.cast_one,
    mul_assoc, two_pow_mul_zpow, ← exponent, zpow_natCast]

/-- A selection without a lower exponent limit is one at every scale. -/
theorem Selects.scale {rc : Rc} {p : Nat} {x y : ℚ} (h : Selects rc p none x y) (n : Int) :
    Selects rc p none (x * 2 ^ n) (y * 2 ^ n) := by
  obtain ⟨k, q, size, sign, hi, -, norm, sel⟩ := h
  have pos : (0 : ℚ) < 2 ^ n := by positivity
  have norm := norm.resolve_right nofun
  have scale : ∀ z : ℚ, |z * 2 ^ n| = |z| * 2 ^ n := fun z => by rw [abs_mul, abs_of_pos pos]
  have shift : (2 : ℚ) ^ (q + n) = 2 ^ q * 2 ^ n := zpow_add₀ two_ne_zero _ _
  refine ⟨k, q + n, ?_, ?_, ?_, nofun, .inl ?_, ?_⟩
  · rw [scale, size, shift, mul_assoc]
  · rw [mul_mul_mul_comm]
    exact mul_nonneg sign (mul_self_nonneg _)
  · rw [scale, shift, ← mul_assoc]
    exact mul_lt_mul_of_pos_right hi pos
  · rw [scale, shift, ← mul_assoc]
    exact mul_le_mul_of_nonneg_right norm pos.le
  · cases rc with
    | nearest =>
      obtain ⟨near, tie⟩ := sel
      rw [← sub_mul, scale, shift, ← mul_assoc]
      exact ⟨mul_le_mul_of_nonneg_right near pos.le, fun e => tie (mul_right_cancel₀ pos.ne' e)⟩
    | down | up | zero =>
      obtain ⟨one, two⟩ := sel
      rw [shift]
      simp only [scale, ← add_mul]
      exact ⟨mul_le_mul_of_nonneg_right one pos.le, mul_lt_mul_of_pos_right two pos⟩

theorem overflowsToInf_eq (rc : Rc) (neg : Bool) : overflowsToInf rc neg = decide (ToInfinity rc neg) := by
  cases rc <;> cases neg <;> decide

/-- The bound of overflow, on the leading bit. -/
theorem overflow_iff (neg : Bool) {r : Rounded} (hk : r.k ≠ 0) : (2 : ℚ) ^ 16384 ≤ |r.rat neg| ↔ 16384 ≤ r.top := by
  rw [r.abs_rat, ← zpow_natCast, Nat.cast_ofNat]
  exact two_zpow_le_dyadic hk _ _

/-- The bound of tiny results, on the leading bit. -/
theorem tiny_iff (neg : Bool) {r : Rounded} (hk : r.k ≠ 0) : |r.rat neg| < 1 / 2 ^ 16382 ↔ r.top < -16382 := by
  rw [r.abs_rat, one_div, ← zpow_natCast, ← zpow_neg, Nat.cast_ofNat, ← not_le, ← not_le]
  exact not_congr (two_zpow_le_dyadic hk _ _)

theorem roundAt_q (rc : Rc) (neg : Bool) (a : Approx) (q : Int) : (roundAt rc neg a q).q = q := by
  rw [roundAt]
  split <;> rfl

section Deliver

variable (c : FCtl) (d : Nat) (neg : Bool) {p : Nat} {a : Approx} {x : ℚ} (h : a.Is x) (hx : 0 < x) (hp : 0 < p) (hp64 : p ≤ 64)
include h hx hp hp64

/-- A value rounded with the lower exponent limit is in the range of the format where that without it is. -/
theorem roundE_encodes (hi : (roundU c.rc neg p a).top < 16384) :
    let r := roundE c.rc neg p (-16382) a
    (encodeOr d neg r.k r.q).Encodes neg (r.rat neg) := by
  intro r
  have le := (roundE_rounds c.rc neg h hx hp hp64 (-16382)).le
  have q : r.q = max (a.top - p + 1) (-16382 - p + 1) := roundAt_q _ _ _ _
  refine encodeOr_encodes d neg (le.trans (Nat.pow_le_pow_right two_pos hp64)) (fun hk => ?_) (.inl (by omega))
  rcases le_or_gt (-16382) a.top with ht | ht
  · have same : r = roundU c.rc neg p a := by
      show roundE _ _ _ _ _ = _
      rw [roundE, roundU, max_eq_left (by omega)]
    rw [same]
    exact hi
  · have : Nat.log2 r.k ≤ p := by
      have := (Nat.log2_lt hk).mpr (le.trans_lt (Nat.pow_lt_pow_succ one_lt_two))
      omega
    omega

/-- `deliverReg` delivers as R509 says. -/
theorem deliverReg_delivers : Delivers c p (signed neg x) (deliverReg c d p neg a) := by
  set r0 := roundU c.rc neg p a with hr0
  set r := roundE c.rc neg p (-16382) a
  have hU : r0.Rounds c.rc p none neg x := roundU_rounds c.rc neg h hx hp hp64
  have hE : r.Rounds c.rc p (some (-16382)) neg x := roundE_rounds c.rc neg h hx hp hp64 _
  have hk : r0.k ≠ 0 := by
    have lo : 2 ^ (p - 1) ≤ r0.k := two_pow_le_roundU c.rc neg h hx hp hp64
    have := Nat.two_pow_pos (p - 1)
    omega
  have hk64 : r0.k ≤ 2 ^ 64 := hU.le.trans (Nat.pow_le_pow_right two_pos hp64)
  have shift : ∀ n, signed neg (r0.k * 2 ^ (r0.q + n)) = r0.rat neg * 2 ^ n := fun n => by
    rw [zpow_add₀ two_ne_zero, ← mul_assoc, signed_mul_right, Rounded.rat]
  have scaled : ∀ n : Int, decide (r0.rat neg * 2 ^ n ≠ signed neg x * 2 ^ n) = r0.inexact := fun n => by
    rw [hU.inexact, decide_eq_decide, Ne, Ne, mul_left_inj' (by positivity)]
  have adjusted : ∀ (n : Int) (y : ℚ), y = r0.rat neg * 2 ^ n → (∃ v : F80, v.Encodes neg y) →
      ∃ v, some (encodeOr d neg r0.k (r0.q + n)) = some v ∧ v.Encodes neg y := by
    rintro n _ rfl ⟨v, hv⟩
    rw [← shift] at hv ⊢
    exact ⟨_, rfl, encodeOr_adjusted d neg hk64 hv⟩
  unfold Delivers
  simp only [← signed_lt_zero hx]
  refine ⟨r0.rat neg, hU.selects, ?_⟩
  rw [deliverReg, ← hr0]
  simp only [overflow_iff neg hk, tiny_iff neg hk]
  split
  · next big =>
    split
    · next hom =>
      rw [overflowsToInf_eq]
      refine ⟨rfl, rfl, ?_⟩
      by_cases away : ToInfinity c.rc neg
      · rw [if_pos away]
        exact congrArg some (if_pos (decide_eq_true away))
      · rw [if_neg away]
        exact ⟨_, congrArg some (if_neg (by simp [away])), F80.largest_encodes neg hp hp64⟩
    · next hom =>
      have down : signed neg x / 2 ^ 24576 = signed neg x * 2 ^ (-24576 : Int) := by
        rw [zpow_neg, ← div_eq_mul_inv, ← zpow_natCast, Nat.cast_ofNat]
      rw [down]
      exact ⟨_, hU.selects.scale _, by rw [scaled], rfl, rfl, adjusted _ _ rfl⟩
  · next big =>
    have range := roundE_encodes c d neg h hx hp hp64 (not_le.mp big)
    split
    · next tiny =>
      split
      · next hum =>
        refine ⟨_, hE.selects, ?_, hE.above, _, rfl, range⟩
        rw [hE.inexact]
        by_cases same : r.rat neg = signed neg x
        · simp [same]
        · simp [same]
      · next hum =>
        have up : signed neg x * 2 ^ 24576 = signed neg x * 2 ^ (24576 : Int) := by
          rw [← zpow_natCast, Nat.cast_ofNat]
        rw [up]
        exact ⟨_, hU.selects.scale _, by rw [scaled], rfl, rfl, adjusted _ _ rfl⟩
    · next tiny =>
      exact ⟨_, hE.selects, by rw [hE.inexact], hE.above, _, rfl, range⟩

end Deliver

/-! ### The checks around an operation (R513, R515, R517) -/

theorem F80.Numeric.cls_cases {x : F80} (h : x.Numeric) :
    x.cls = .zero ∨ x.cls = .denormal ∨ x.cls = .normal ∨ x.cls = .infinity := by
  rcases h with (h | h | h) | h <;> simp [h]

theorem F80.not_numeric_iff (x : F80) : ¬ x.Numeric ↔ x.cls = .qnan ∨ x.cls = .snan ∨ x.cls = .unsupported := by
  unfold F80.Numeric F80.Finite
  cases x.cls <;> simp

theorem F80.numeric_of_ne {x : F80} (h : x.cls ≠ .unsupported) (h1 : x.cls ≠ .snan) (h2 : x.cls ≠ .qnan) : x.Numeric := by
  by_contra hn
  rcases x.not_numeric_iff.mp hn with e | e | e
  · exact h2 e
  · exact h1 e
  · exact h e

/-- The check passes operands that are neither NaNs nor unsupported. -/
theorem operandCheck_numeric (c : FCtl) (d : Nat) {a b : F80} (ha : a.Numeric) (hb : b.Numeric) :
    operandCheck c d a b = none := by
  rcases ha.cls_cases with e | e | e | e <;> rcases hb.cls_cases with e' | e' | e' | e' <;> simp [operandCheck, e, e']

theorem arith2_numeric (c : FCtl) (d p : Nat) (op : F80 → F80 → Calc) {a b : Opnd} (ha : a.v.Numeric) (hb : b.v.Numeric) :
    arith2 c d p op a b = (op a.v b.v).finish c d p (a.isDenormal || b.isDenormal) := by
  rw [arith2, operandCheck_numeric c d ha hb]

theorem F80.one_numeric : F80.one.Numeric := Or.inl (by decide)

theorem arith1_numeric (c : FCtl) (d p : Nat) (op : F80 → Calc) {a : F80} (ha : a.Numeric) :
    arith1 c d p op a = (op a).finish c d p (decide (a.cls = .denormal)) := by
  rw [arith1, operandCheck_numeric c d ha F80.one_numeric]
  rfl

/-- Settles O32: past the checks an operation ends as its outcome says, an exact real by `deliverReg`, with DE around it. -/
theorem fpuDelivery : Obligations.FpuDelivery := by
  intro c d p hp gives
  have finish (k : Calc) (den : Bool) : gives k den (k.finish c d p den) := by
    have computes {P : FRes F80 → Prop} {u : FRes F80} (hu : P u) :
        if den then (if c.dm then ∃ v, P v ∧ withDenormal c den u = { v with exc := v.exc ||| xDE }
          else withDenormal c den u = { exc := xDE, res := none, c1 := false })
        else P (withDenormal c den u) := by
      unfold withDenormal
      split
      · split
        · exact ⟨u, hu, rfl⟩
        · rfl
      · exact hu
    cases k with
    | real neg a =>
      intro x hx hneg ha
      have := deliverReg_delivers c d neg ha (abs_pos.mpr hx) (by omega : 0 < p) (by omega)
      rw [hneg, signed_decide_abs] at this
      exact computes (hneg ▸ this)
    | value v pe c1 => exact computes rfl
    | invalid => rfl
    | zeroDivide neg => rfl
    | free => exact ⟨rfl, rfl⟩
  refine ⟨fun op a b ha hb => ?_, fun op a ha => ?_⟩
  · rw [arith2_numeric c d p op ha hb]
    have den : (a.den || b.den || decide (a.v.cls = .denormal ∨ b.v.cls = .denormal)) = (a.isDenormal || b.isDenormal) := by
      rw [Bool.decide_or, Bool.or_assoc, Bool.or_left_comm b.den, ← Bool.or_assoc]
      rfl
    rw [den]
    exact finish _ _
  · rw [arith1_numeric c d p op ha]
    exact finish _ _

/-- What the check answers for a NaN or an unsupported operand: the indefinite or the NaN of R514, by the mask of IE. -/
theorem operandCheck_nan (c : FCtl) (d : Nat) {a b : F80} (h : ¬ (a.Numeric ∧ b.Numeric)) :
    ∃ r, operandCheck c d a b = some r ∧ NanGives c a b r := by
  unfold operandCheck
  simp only [Bool.or_eq_true, beq_iff_eq]
  split_ifs with unsupported snan qnan
  · have exc : nanExc a b = xIE := if_pos (by tauto)
    refine ⟨_, rfl, exc.symm, rfl, ?_⟩
    simp only [invalidWith, exc, true_and, unsupported, if_true]
    cases c.im
    · rfl
    · rfl
  · have exc : nanExc a b = xIE := if_pos (by tauto)
    refine ⟨_, rfl, exc.symm, rfl, ?_⟩
    simp only [invalidWith, exc, true_and, unsupported, if_false]
    cases c.im
    · rfl
    · exact ⟨_, rfl, nanOf_result d a b⟩
  · have exc : nanExc a b = 0 := if_neg (by tauto)
    refine ⟨_, rfl, exc.symm, rfl, ?_⟩
    rw [exc, if_neg (fun raised => absurd raised.1 (by decide)), if_neg unsupported]
    exact ⟨_, rfl, nanOf_result d a b⟩
  · refine absurd ⟨F80.numeric_of_ne ?_ ?_ ?_, F80.numeric_of_ne ?_ ?_ ?_⟩ h <;> tauto

theorem arith1_nan (c : FCtl) (d p : Nat) (op : F80 → Calc) {a : F80} (h : ¬ a.Numeric) :
    NanGives c a F80.one (arith1 c d p op a) := by
  obtain ⟨r, e, gives⟩ := operandCheck_nan c d (b := F80.one) fun both => h both.1
  rwa [arith1, e]

/-- Quieting sets the top fraction bit (R503). -/
theorem F80.getLsbD_quiet (x : F80) {k : Nat} (hk : k < 80) : x.quiet.getLsbD k = (x.getLsbD k || decide (k = 62)) := by
  rw [F80.quiet, BitVec.getLsbD_or, BitVec.getLsbD_shiftLeft, BitVec.getLsbD_one]
  congr 1
  rw [Bool.eq_iff_iff]
  simp
  omega

/-- Settles O33: the checks of NaN and unsupported operands come first, and `nanOf` is the NaN of R514. -/
theorem fpuNanOperands : Obligations.FpuNanOperands := by
  refine fun c d p => ⟨fun op a b h => ?_, fun op a h => arith1_nan c d p op h, fun a k hk => a.getLsbD_quiet hk⟩
  obtain ⟨r, e, gives⟩ := operandCheck_nan c d h
  rwa [arith2, e]

end Sys2Proof.Machine
end

section
/-! The operation tables on zeros, infinities and the other fixed operands (46_fpu_model.md R521, R526 to R530, 47 R600, R601, 48
R651 to R658, R667, O34). -/

namespace Sys2Proof.Machine

/-! ### The class tests -/

theorem F80.isInf_of_cls {x : F80} (h : x.cls = .infinity) : x.isInf = true := decide_eq_true h

theorem F80.isZero_of_cls {x : F80} (h : x.cls = .zero) : x.isZero = true := decide_eq_true h

theorem F80.isZero_of_inf {x : F80} (h : x.cls = .infinity) : x.isZero = false := by simp [F80.isZero_eq, h]

theorem F80.FiniteNonzero.isZero_eq_false {x : F80} (h : x.FiniteNonzero) : x.isZero = false := by
  rcases h with h | h <;> simp [F80.isZero_eq, h]

theorem F80.FiniteNonzero.isInf_eq_false {x : F80} (h : x.FiniteNonzero) : x.isInf = false := h.finite.isInf_eq_false

/-! ### Sum, product, quotient, square root -/

theorem addCalc_inf_left (rc : Rc) {a : F80} (b : F80) (h : a.cls = .infinity) :
    addCalc rc a b = if b.cls = .infinity ∧ (a.neg != b.neg) = true then .invalid else .exact a := by
  rw [addCalc, F80.isInf_of_cls h, F80.isInf_eq]
  by_cases hb : b.cls = .infinity <;> cases a.neg <;> cases b.neg <;> simp [hb]

theorem addCalc_inf_right (rc : Rc) {a b : F80} (ha : a.Finite) (hb : b.cls = .infinity) : addCalc rc a b = .exact b := by
  rw [addCalc, ha.isInf_eq_false, F80.isInf_of_cls hb]
  simp

/-- The sign of an exact zero sum (R521). -/
theorem addCalc_zero (rc : Rc) {a b : F80} (ha : a.Finite) (hb : b.Finite) (h : a.rat + b.rat = 0) :
    addCalc rc a b = .exact (F80.zero (if (a.neg != b.neg) = true then decide (rc = .down) else a.neg)) := by
  have sum : a.val.scaled (min a.val.exp b.val.exp) + b.val.scaled (min a.val.exp b.val.exp) = 0 := by
    have : ((a.val.scaled (min a.val.exp b.val.exp) + b.val.scaled (min a.val.exp b.val.exp) : Int) : ℚ) *
        2 ^ min a.val.exp b.val.exp = 0 := by
      rw [Int.cast_add, add_mul, a.scaled_mul (min_le_left _ _), b.scaled_mul (min_le_right _ _), h]
    exact_mod_cast (mul_eq_zero.mp this).resolve_right (by positivity)
  rw [addCalc, ha.isInf_eq_false, hb.isInf_eq_false]
  simp only [Bool.and_self, Bool.false_eq_true, if_false, sum, if_true]
  cases a.neg <;> cases b.neg <;> rfl

theorem mulCalc_inf (rc : Rc) {a b : F80} (h : a.cls = .infinity ∨ b.cls = .infinity) :
    mulCalc rc a b = if a.cls = .zero ∨ b.cls = .zero then .invalid else .exact (F80.inf (a.neg != b.neg)) := by
  have : (a.isInf || b.isInf) = true := by simpa [F80.isInf_eq] using h
  rw [mulCalc, this, F80.isZero_eq, F80.isZero_eq]
  simp

theorem mulCalc_zero (rc : Rc) {a b : F80} (ha : a.Finite) (hb : b.Finite) (h : a.cls = .zero ∨ b.cls = .zero) :
    mulCalc rc a b = .exact (F80.zero (a.neg != b.neg)) := by
  have : (a.isZero || b.isZero) = true := by simpa [F80.isZero_eq] using h
  rw [mulCalc, ha.isInf_eq_false, hb.isInf_eq_false, this]
  simp

theorem divCalc_inf_left (rc : Rc) {a : F80} (b : F80) (h : a.cls = .infinity) :
    divCalc rc a b = if b.cls = .infinity then .invalid else .exact (F80.inf (a.neg != b.neg)) := by
  rw [divCalc, F80.isInf_of_cls h, F80.isInf_eq]
  simp

theorem divCalc_inf_right (rc : Rc) {a b : F80} (ha : a.Finite) (hb : b.cls = .infinity) :
    divCalc rc a b = .exact (F80.zero (a.neg != b.neg)) := by
  rw [divCalc, ha.isInf_eq_false, F80.isInf_of_cls hb]
  simp

theorem divCalc_zero_left (rc : Rc) {a b : F80} (ha : a.cls = .zero) (hb : b.Finite) :
    divCalc rc a b = if b.cls = .zero then .invalid else .exact (F80.zero (a.neg != b.neg)) := by
  rw [divCalc, F80.Finite.isInf_eq_false (.inl ha), hb.isInf_eq_false, F80.isZero_of_cls ha, F80.isZero_eq]
  simp

theorem divCalc_zero_right (rc : Rc) {a b : F80} (ha : a.FiniteNonzero) (hb : b.cls = .zero) :
    divCalc rc a b = .zeroDivide (a.neg != b.neg) := by
  rw [divCalc, ha.isInf_eq_false, F80.Finite.isInf_eq_false (.inl hb), F80.isZero_of_cls hb, ha.isZero_eq_false]
  simp

theorem sqrtCalc_fixed {a : F80} (h : a.cls = .zero ∨ (a.cls = .infinity ∧ a.neg = false)) : sqrtCalc a = .exact a := by
  rcases h with h | ⟨h, hn⟩
  · rw [sqrtCalc, F80.isZero_of_cls h, if_pos rfl]
  · rw [sqrtCalc, F80.isZero_of_inf h, hn, F80.isInf_of_cls h]
    simp

theorem sqrtCalc_negative {a : F80} (h : a.cls ≠ .zero) (hn : a.neg = true) : sqrtCalc a = .invalid := by
  rw [sqrtCalc, F80.isZero_eq, decide_eq_false h, hn]
  simp

/-! ### FSCALE and FRNDINT -/

/-- A truncation is the floor of the magnitude, with its sign. -/
theorem truncate_eq (x : ℚ) : truncate x = if x < 0 then -⌊|x|⌋ else ⌊|x|⌋ := by
  unfold truncate
  split
  · next h => rw [abs_of_neg h, Int.floor_neg, neg_neg]
  · next h => rw [abs_of_nonneg (not_lt.mp h)]

/-- A number shifted right is the floor of it, scaled. -/
theorem floor_mul_zpow_neg (m n : Nat) : ⌊(m : ℚ) * 2 ^ (-(n : Int))⌋ = (m >>> n : Nat) := by
  rw [Nat.shiftRight_eq_div_pow, zpow_neg, zpow_natCast, ← div_eq_mul_inv]
  have := Rat.floor_natCast_div_natCast m (2 ^ n)
  push_cast at this ⊢
  exact this

/-- FSCALE's n is the truncated magnitude, cut off (R601). -/
theorem F80.Finite.truncMag_eq {x : F80} (h : x.Finite) : (x.truncMag : Int) = min 65536 ⌊|x.rat|⌋ := by
  rw [x.abs_rat, F80.truncMag]
  split
  · next he =>
    have normal : 2 ^ 63 ≤ x.sig := by
      obtain ⟨-, h | h⟩ := x.finite_iff.mp h
      · rw [F80.val, if_pos h] at he
        exact absurd (show (0 : Int) ≤ 1 - 16446 from he) (by decide)
      · exact h
    have big : (65536 : ℚ) ≤ x.sig * 2 ^ x.val.exp := by
      have one : (1 : ℚ) ≤ 2 ^ x.val.exp := one_le_zpow₀ one_le_two he
      have sig : (65536 : ℚ) ≤ x.sig := by exact_mod_cast (by omega : 65536 ≤ x.sig)
      nlinarith
    rw [min_eq_left (Int.le_floor.mpr (by exact_mod_cast big))]
    rfl
  · next he =>
    obtain ⟨n, hn⟩ := Int.eq_ofNat_of_zero_le (by omega : 0 ≤ -x.val.exp)
    rw [hn, Int.toNat_natCast, show x.val.exp = -(n : Int) by omega, floor_mul_zpow_neg]
    exact Nat.cast_min 65536 _

theorem scaleCalc_finite {a b : F80} (ha : a.FiniteNonzero) (hb : b.Finite) :
    (scaleCalc a b).Is (a.rat * 2 ^ max (-65536) (min 65536 (truncate b.rat))) := by
  have count : max (-65536) (min 65536 (truncate b.rat)) = if b.neg then -(b.truncMag : Int) else b.truncMag := by
    have nonneg : 0 ≤ ⌊|b.rat|⌋ := Int.floor_nonneg.mpr (abs_nonneg _)
    rw [truncate_eq, hb.truncMag_eq]
    rcases eq_or_ne b.rat 0 with h0 | h0
    · simp [h0]
    · rw [F80.neg_eq_of_rat_ne h0]
      simp only [decide_eq_true_eq]
      split <;> omega
  rw [scaleCalc, ha.isZero_eq_false, ha.isInf_eq_false, hb.isInf_eq_false, count, a.rat_eq, ← signed_mul_right, mul_assoc,
    ← zpow_add₀ two_ne_zero]
  exact Calc.exact_real_is _ _ ha.sig_ne

theorem scaleCalc_zero {a : F80} (b : F80) (h : a.cls = .zero) :
    scaleCalc a b = if b.cls = .infinity ∧ b.neg = false then .invalid else .exact a := by
  rw [scaleCalc, F80.isZero_of_cls h, F80.isInf_eq]
  simp

theorem scaleCalc_inf {a : F80} (b : F80) (h : a.cls = .infinity) :
    scaleCalc a b = if b.cls = .infinity ∧ b.neg = true then .invalid else .exact a := by
  rw [scaleCalc, F80.isZero_of_inf h, F80.isInf_of_cls h, F80.isInf_eq]
  simp

theorem scaleCalc_by_inf {a b : F80} (ha : a.FiniteNonzero) (hb : b.cls = .infinity) :
    scaleCalc a b = .exact (if b.neg then F80.zero a.neg else F80.inf a.neg) := by
  rw [scaleCalc, ha.isZero_eq_false, ha.isInf_eq_false, F80.isInf_of_cls hb]
  simp

theorem rndintCalc_fixed (rc : Rc) {a : F80} (h : a.cls = .zero ∨ a.cls = .infinity) : rndintCalc rc a = .exact a := by
  have : (a.isInf || a.isZero) = true := by simpa [F80.isInf_eq, F80.isZero_eq, or_comm] using h
  rw [rndintCalc, this, if_pos rfl]

/-! ### Sine, cosine, tangent -/

theorem trigCalc_inf {a : F80} (h : a.cls = .infinity) :
    sinCalc a = .invalid ∧ cosCalc a = .invalid ∧ tanCalc a = .invalid := by
  simp [sinCalc, cosCalc, tanCalc, F80.isInf_of_cls h]

theorem trigCalc_zero {a : F80} (h : a.cls = .zero) :
    sinCalc a = .exact a ∧ cosCalc a = .exact F80.one ∧ tanCalc a = .exact a := by
  simp [sinCalc, cosCalc, tanCalc, F80.Finite.isInf_eq_false (.inl h), F80.isZero_of_cls h]

theorem trigCalc_nonzero {a : F80} (h : a.FiniteNonzero) :
    sinCalc a = transCalc .sin a a ∧ cosCalc a = transCalc .cos a a ∧ tanCalc a = transCalc .tan a a := by
  simp [sinCalc, cosCalc, tanCalc, h.isInf_eq_false, h.isZero_eq_false]

/-! ### The arctangent -/

theorem piCalc_eq (rc : Rc) (neg : Bool) (exp sig : Nat) : piCalc rc neg exp sig =
    .value (F80.mk neg exp (if ToInfinity rc neg then sig + 1 else sig)) true (decide (ToInfinity rc neg)) := by
  rw [piCalc, overflowsToInf_eq]
  simp

theorem atanCalc_zero (rc : Rc) {a : F80} (b : F80) (h : a.cls = .zero) :
    atanCalc rc a b = if b.neg then piCalc rc a.neg 0x4000 0xC90FDAA22168C234 else .exact (F80.zero a.neg) := by
  rw [atanCalc, F80.Finite.isInf_eq_false (.inl h), F80.isZero_of_cls h]
  simp

theorem atanCalc_by_zero (rc : Rc) {a b : F80} (ha : a.FiniteNonzero) (hb : b.cls = .zero) :
    atanCalc rc a b = piCalc rc a.neg 0x3FFF 0xC90FDAA22168C234 := by
  rw [atanCalc, ha.isInf_eq_false, F80.Finite.isInf_eq_false (.inl hb), ha.isZero_eq_false, F80.isZero_of_cls hb]
  simp

theorem atanCalc_by_inf (rc : Rc) {a b : F80} (ha : a.FiniteNonzero) (hb : b.cls = .infinity) :
    atanCalc rc a b = if b.neg then piCalc rc a.neg 0x4000 0xC90FDAA22168C234 else .exact (F80.zero a.neg) := by
  rw [atanCalc, ha.isInf_eq_false, F80.isInf_of_cls hb]
  simp

theorem atanCalc_nonzero (rc : Rc) {a b : F80} (ha : a.FiniteNonzero) (hb : b.FiniteNonzero) :
    atanCalc rc a b = transCalc .atan2 a b := by
  rw [atanCalc, ha.isInf_eq_false, hb.isInf_eq_false, ha.isZero_eq_false, hb.isZero_eq_false]
  simp

theorem atanCalc_inf (rc : Rc) {a b : F80} (ha : a.cls = .infinity) (hb : b.Finite) :
    atanCalc rc a b = piCalc rc a.neg 0x3FFF 0xC90FDAA22168C234 := by
  rw [atanCalc, F80.isInf_of_cls ha, hb.isInf_eq_false]
  simp

theorem atanCalc_inf_inf (rc : Rc) {a b : F80} (ha : a.cls = .infinity) (hb : b.cls = .infinity) :
    atanCalc rc a b =
      if b.neg then piCalc rc a.neg 0x4000 0x96CBE3F9990E91A7 else piCalc rc a.neg 0x3FFE 0xC90FDAA22168C234 := by
  rw [atanCalc, F80.isInf_of_cls ha, F80.isInf_of_cls hb]
  simp

/-! ### The one, and magnitudes below it -/

/-- A bound of a value, on its leading bit. -/
theorem F80.two_zpow_le_abs_rat {x : F80} (h : x.rat ≠ 0) (t : Int) : 2 ^ t ≤ |x.rat| ↔ t ≤ x.val.top := by
  rw [x.abs_rat]
  exact two_zpow_le_dyadic (mt x.rat_eq_zero_iff.mpr h) _ _

theorem F80.abs_rat_lt_one {x : F80} (h : x.rat ≠ 0) : |x.rat| < 1 ↔ x.val.top < 0 := by
  rw [← not_le, ← not_le, ← F80.two_zpow_le_abs_rat h, zpow_zero]

/-- A normal value is one value alone, but where a pseudo-denormal has the same. -/
theorem F80.eq_of_rat_eq {a b : F80} (ha : a.Finite) (hb : b.cls = .normal) (h1 : 1 < b.exp) (h : a.rat = b.rat) : a = b := by
  obtain ⟨hb0, -, hbs⟩ := b.cls_normal_iff.mp hb
  have hb0' : b.rat ≠ 0 := mt b.rat_eq_zero_iff.mp (by omega)
  have ha0' : a.rat ≠ 0 := by rwa [h]
  have log : ∀ x : F80, 2 ^ 63 ≤ x.sig → Nat.log2 x.sig = 63 := fun x hx => by
    have := (Nat.le_log2 (by omega)).mpr hx
    have := (Nat.log2_lt (by omega)).mpr x.sig_lt
    omega
  have top : a.val.top = b.val.top := by rw [← F80.log_abs_rat ha0', ← F80.log_abs_rat hb0', h]
  have hal : Nat.log2 a.sig < 64 := (Nat.log2_lt (mt a.rat_eq_zero_iff.mpr ha0')).mpr a.sig_lt
  have exp : a.exp = b.exp := by
    have tb : b.val.top = (Nat.log2 b.sig : Int) + ((if b.exp = 0 then 1 else (b.exp : Int)) - 16446) := rfl
    have ta : a.val.top = (Nat.log2 a.sig : Int) + ((if a.exp = 0 then 1 else (a.exp : Int)) - 16446) := rfl
    rw [log b hbs, if_neg hb0] at tb
    obtain ⟨-, hz | hn⟩ := a.finite_iff.mp ha
    · rw [if_pos hz] at ta
      omega
    · rw [log a hn] at ta
      split at ta <;> omega
  refine F80.ext_fields ?_ exp ?_
  · rw [F80.neg_eq_of_rat_ne ha0', F80.neg_eq_of_rat_ne hb0', h]
  · have mag : (a.sig : ℚ) * 2 ^ a.val.exp = b.sig * 2 ^ b.val.exp := by rw [← a.abs_rat, ← b.abs_rat, h]
    rw [show a.val.exp = b.val.exp by rw [F80.val, F80.val, exp], mul_left_inj' (by positivity)] at mag
    exact_mod_cast mag

theorem F80.one_rat : F80.one.rat = 1 := by
  rw [F80.rat, show F80.one.neg = false from rfl, show F80.one.sig = 2 ^ 63 from rfl, show F80.one.val.exp = -63 from rfl]
  norm_num

theorem F80.rat_eq_one {x : F80} (h : x.Finite) : x.rat = 1 ↔ x = F80.one :=
  ⟨fun e => F80.eq_of_rat_eq h (by decide) (by decide) (e.trans F80.one_rat.symm), fun e => e ▸ F80.one_rat⟩

theorem F80.rat_eq_neg_one {x : F80} (h : x.Finite) : x.rat = -1 ↔ x = F80.one.flip := by
  have flip : F80.one.flip.rat = -1 := by rw [F80.flip_rat, F80.one_rat]
  exact ⟨fun e => F80.eq_of_rat_eq h (by decide) (by decide) (e.trans flip.symm), fun e => e ▸ flip⟩

/-! ### 2^x - 1 and the logarithms -/

theorem f2xm1Calc_fixed {a : F80} (ha : a.Finite) :
    (a.cls = .zero → f2xm1Calc a = .exact a) ∧ (a.rat = 1 → f2xm1Calc a = .exact 0x3FFF8000000000000000) ∧
      (a.rat = -1 → f2xm1Calc a = .exact 0xBFFE8000000000000000) := by
  refine ⟨fun h => ?_, fun h => ?_, fun h => ?_⟩
  · rw [f2xm1Calc, F80.isZero_of_cls h, if_pos rfl]
  · rw [(F80.rat_eq_one ha).mp h]
    rfl
  · rw [(F80.rat_eq_neg_one ha).mp h]
    rfl

theorem f2xm1Calc_below {a : F80} (ha : a.FiniteNonzero) (h : |a.rat| < 1) : f2xm1Calc a = transCalc .f2xm1 a a := by
  have h1 : a ≠ F80.one := fun e => by
    rw [(F80.rat_eq_one ha.finite).mpr e, abs_one] at h
    exact lt_irrefl _ h
  have h2 : a ≠ F80.one.flip := fun e => by
    rw [(F80.rat_eq_neg_one ha.finite).mpr e, abs_neg, abs_one] at h
    exact lt_irrefl _ h
  rw [f2xm1Calc, ha.isZero_eq_false, ha.isInf_eq_false, if_neg h1, if_neg h2, if_pos ((F80.abs_rat_lt_one ha.rat_ne).mp h)]
  simp

/-- Out of its domain F2XM1 is left open (R656). -/
theorem f2xm1Calc_beyond {a : F80} (h : a.cls = .infinity ∨ (a.Finite ∧ 1 < |a.rat|)) : f2xm1Calc a = .free := by
  rcases h with h | ⟨hf, h⟩
  · rw [f2xm1Calc, F80.isZero_of_inf h, F80.isInf_of_cls h]
    simp
  · have h0 : a.rat ≠ 0 := fun e => by
      rw [e, abs_zero] at h
      exact absurd h (by norm_num)
    have h1 : a ≠ F80.one := fun e => by
      rw [(F80.rat_eq_one hf).mpr e, abs_one] at h
      exact lt_irrefl _ h
    have h2 : a ≠ F80.one.flip := fun e => by
      rw [(F80.rat_eq_neg_one hf).mpr e, abs_neg, abs_one] at h
      exact lt_irrefl _ h
    rw [f2xm1Calc, F80.isZero_eq, decide_eq_false (mt hf.rat_eq_zero.mpr h0), hf.isInf_eq_false, if_neg h1, if_neg h2,
      if_neg (mt (F80.abs_rat_lt_one h0).mpr h.not_gt)]
    simp

theorem yl2xCalc_of_zero (a : F80) {b : F80} (h : b.cls = .zero) : yl2xCalc a b =
    if a.cls = .zero then .invalid else if a.cls = .infinity then .exact (F80.inf !a.neg) else .zeroDivide !a.neg := by
  rw [yl2xCalc, F80.isZero_of_cls h, F80.isZero_eq, F80.isInf_eq]
  simp

theorem yl2xCalc_of_negative (a : F80) {b : F80} (h : b.cls ≠ .zero) (hn : b.neg = true) : yl2xCalc a b = .invalid := by
  rw [yl2xCalc, F80.isZero_eq b, decide_eq_false h, hn]
  simp

theorem yl2xCalc_of_inf (a : F80) {b : F80} (h : b.cls = .infinity) (hn : b.neg = false) :
    yl2xCalc a b = if a.cls = .zero then .invalid else .exact (F80.inf a.neg) := by
  rw [yl2xCalc, F80.isZero_of_inf h, F80.isInf_of_cls h, hn, F80.isZero_eq]
  simp

theorem yl2xCalc_of_one (a : F80) {b : F80} (hb : b.Finite) (h : b.rat = 1) :
    yl2xCalc a b = if a.cls = .infinity then .invalid else .exact (F80.zero a.neg) := by
  rw [(F80.rat_eq_one hb).mp h, yl2xCalc, show F80.one.isZero = false from rfl, show F80.one.isInf = false from rfl,
    show F80.one.neg = false from rfl, F80.isInf_eq]
  simp

theorem yl2xCalc_of_positive (a : F80) {b : F80} (hb : b.Finite) (h0 : 0 < b.rat) (h1 : b.rat ≠ 1) : yl2xCalc a b =
    if a.cls = .zero then .exact (F80.zero (a.neg != decide (b.rat < 1)))
    else if a.cls = .infinity then .exact (F80.inf (a.neg != decide (b.rat < 1)))
    else transCalc .yl2x a b := by
  have below : decide (b.val.top < 0) = decide (b.rat < 1) := by
    rw [decide_eq_decide, ← F80.abs_rat_lt_one h0.ne', abs_of_pos h0]
  rw [yl2xCalc, F80.isZero_eq b, decide_eq_false (mt hb.rat_eq_zero.mpr h0.ne'),
    (F80.neg_eq_of_rat_ne h0.ne').trans (decide_eq_false h0.not_gt), hb.isInf_eq_false, if_neg (mt (F80.rat_eq_one hb).mpr h1),
    F80.isZero_eq, F80.isInf_eq]
  simp [below]

/-- The domain of FYL2XP1, |x| < 1 - √2/2 (R658). -/
theorem F80.Finite.inLogRange_iff {x : F80} (h : x.Finite) :
    x.inLogRange = true ↔ |x.rat| < 1 ∧ 1 < 2 * (1 - |x.rat|) ^ 2 := by
  rcases eq_or_ne x.rat 0 with h0 | h0
  · have : x.inLogRange = true := by rw [F80.inLogRange, F80.isZero_of_cls (h.rat_eq_zero.mp h0), Bool.true_or]
    rw [h0]
    norm_num [this]
  · rw [F80.inLogRange, F80.isZero_eq, decide_eq_false (mt h.rat_eq_zero.mpr h0), Bool.false_or, Bool.and_eq_true,
      decide_eq_true_iff, F80.abs_rat_lt_one h0, decide_eq_true_iff]
    refine and_congr_right fun ht => ?_
    have lt : |x.rat| < 1 := (F80.abs_rat_lt_one h0).mpr ht
    have he : x.val.exp ≤ 0 := by
      have : x.val.top = (Nat.log2 x.sig : Int) + x.val.exp := rfl
      omega
    obtain ⟨n, hn⟩ := Int.eq_ofNat_of_zero_le (by omega : 0 ≤ -x.val.exp)
    rw [hn, Int.toNat_natCast]
    have pos : (0 : ℚ) < 2 ^ n := by positivity
    have value : |x.rat| = x.sig / 2 ^ n := by
      rw [x.abs_rat, show x.val.exp = -(n : Int) by omega, zpow_neg, zpow_natCast, div_eq_mul_inv]
    rw [value, div_lt_one pos] at lt
    have le : x.sig ≤ 2 ^ n := by exact_mod_cast lt.le
    have cast : ((2 ^ n - x.sig : Nat) : ℚ) = 2 ^ n - x.sig := by
      rw [Nat.cast_sub le]
      push_cast
      rfl
    have square : (1 - (x.sig : ℚ) / 2 ^ n) = (2 ^ n - x.sig : Nat) / 2 ^ n := by
      rw [cast, sub_div, div_self pos.ne']
    rw [value, square, div_pow, ← mul_div_assoc, one_lt_div (by positivity), sq, sq]
    exact_mod_cast Iff.rfl

/-- Out of its domain FYL2XP1 is left open (R658). -/
theorem yl2xp1Calc_beyond {a b : F80} (hb : b.Numeric) (h : ¬ (b.Finite ∧ |b.rat| < 1 ∧ 1 < 2 * (1 - |b.rat|) ^ 2)) :
    yl2xp1Calc a b = .free := by
  rcases hb with hf | hi
  · have : b.inLogRange = false := Bool.eq_false_iff.mpr fun e => h ⟨hf, hf.inLogRange_iff.mp e⟩
    rw [yl2xp1Calc, this]
    simp
  · rw [yl2xp1Calc, F80.isInf_of_cls hi]
    simp

theorem yl2xp1Calc_of_zero (a : F80) {b : F80} (h : b.cls = .zero) :
    yl2xp1Calc a b = if a.cls = .infinity then .invalid else .exact (F80.zero (a.neg != b.neg)) := by
  have range : b.inLogRange = true := by rw [F80.inLogRange, F80.isZero_of_cls h, Bool.true_or]
  rw [yl2xp1Calc, range, F80.isZero_of_cls h, F80.Finite.isInf_eq_false (.inl h), F80.isInf_eq, bne_comm]
  simp

theorem yl2xp1Calc_within (a : F80) {b : F80} (hb : b.Finite) (h : |b.rat| < 1 ∧ 1 < 2 * (1 - |b.rat|) ^ 2)
    (h0 : b.cls ≠ .zero) : yl2xp1Calc a b =
      if a.cls = .zero then .exact (F80.zero (a.neg != b.neg))
      else if a.cls = .infinity then .exact (F80.inf (a.neg != b.neg)) else transCalc .yl2xp1 a b := by
  rw [yl2xp1Calc, hb.inLogRange_iff.mpr h, hb.isInf_eq_false, F80.isZero_eq, decide_eq_false h0, F80.isZero_eq, F80.isInf_eq,
    bne_comm]
  simp

/-! ### P_TRANS (R529) -/

theorem transCalc_is (f : TransFn) (a b : F80) : let z := Config.trans f a.val b.val
    (transCalc f a b).Is ((if z.neg then -1 else 1) * (z.num + 1) / (z.den + 1)) := by
  intro z
  have ratio := ratio_is (n := z.num + 1) (m := z.den + 1) 0 (Nat.succ_ne_zero _) (Nat.succ_ne_zero _)
  rw [zpow_zero, mul_one] at ratio
  rw [mul_div_assoc, signed_eq_mul]
  push_cast at ratio
  exact Calc.real_is _ ratio (by positivity)

/-- Settles O34: each clause is one path through the table of its operation. -/
theorem fpuSpecialOperands : Obligations.FpuSpecialOperands := by
  intro rc a b ha hb differ zero inf away piMultiple below inRange
  have pi (exp sig : Nat) : piCalc rc a.neg exp sig = piMultiple exp sig := piCalc_eq rc a.neg exp sig
  refine ⟨addCalc_inf_left rc b, addCalc_inf_right rc, addCalc_zero rc, congrArg (addCalc rc a) b.flip_eq, mulCalc_inf rc,
    mulCalc_zero rc, divCalc_inf_left rc b, divCalc_inf_right rc, divCalc_zero_left rc, divCalc_zero_right rc,
    sqrtCalc_fixed, sqrtCalc_negative, scaleCalc_zero b, scaleCalc_inf b, scaleCalc_by_inf, scaleCalc_finite,
    rndintCalc_fixed rc, trigCalc_inf, trigCalc_zero, trigCalc_nonzero, ?_, ?_, ?_, atanCalc_nonzero rc, ?_, ?_,
    fun h => (f2xm1Calc_fixed (.inl h)).1 h, fun h => (f2xm1Calc_fixed h).2.1, fun h => (f2xm1Calc_fixed h).2.2, f2xm1Calc_below,
    f2xm1Calc_beyond, yl2xCalc_of_zero a, yl2xCalc_of_negative a, yl2xCalc_of_inf a, yl2xCalc_of_one a, yl2xCalc_of_positive a,
    yl2xp1Calc_beyond hb, yl2xp1Calc_of_zero a, fun h => yl2xp1Calc_within a h.1 h.2, fun f => transCalc_is f a b⟩
  all_goals simp only [← pi]
  · exact atanCalc_zero rc b
  · exact atanCalc_by_zero rc
  · exact atanCalc_by_inf rc
  · exact atanCalc_inf rc
  · exact atanCalc_inf_inf rc

end Sys2Proof.Machine
end

section
/-! How an FPU instruction ends under any masks: what the updates of SW leave as it is, the results that are written, popped or
pushed, and the end itself (46_fpu_model.md R512, R518 to R520, R540 to R546). -/

namespace Sys2Proof.Machine

namespace Fpu

variable (f : Fpu)

/-! ### What leaves FDP as it is -/

@[simp] theorem push_fdp (v : F80) : (f.push v).fdp = f.fdp := by
  unfold push
  split
  · rfl
  · dsimp only
    split <;> rfl

@[simp] theorem deliver_fdp (r : FRes F80) (i : BitVec 3) (pops : Bool) : (f.deliver r i pops).fdp = f.fdp := by
  unfold deliver
  cases r.res with
  | none => rfl
  | some v => cases pops <;> rfl

@[simp] theorem raiseExc_fdp (x : BitVec 16) : (f.raiseExc x).fdp = f.fdp := rfl
@[simp] theorem setC1_fdp (b : Bool) : (f.setC1 b).fdp = f.fdp := rfl
@[simp] theorem setC2_fdp (b : Bool) : (f.setC2 b).fdp = f.fdp := rfl
@[simp] theorem setSt_fdp (i : BitVec 3) (v : F80) : (f.setSt i v).fdp = f.fdp := rfl
@[simp] theorem pushRaw_fdp (v : F80) : (f.pushRaw v).fdp = f.fdp := rfl
@[simp] theorem drawCodes_fdp (d : Nat) : (f.drawCodes d).fdp = f.fdp := rfl
@[simp] theorem drawC03_fdp (d : Nat) : (f.drawC03 d).fdp = f.fdp := rfl
@[simp] theorem setCodes_fdp (c : RemCodes) : (f.setCodes c).fdp = f.fdp := rfl
@[simp] theorem trigCodes_fdp (d : Nat) (x : F80) : (f.trigCodes d x).fdp = f.fdp := by unfold trigCodes; split <;> rfl
@[simp] theorem two_fdp (a b : F80) : (f.two a b).fdp = f.fdp := by simp [two]

/-! ### What the updates of SW leave as it is -/

/-- What a result may write: CW, the register stack, the exception flags and C1. C0, C2, C3, ES, B and the pointers are not
in it. -/
def data (g : Fpu) : BitVec 16 × BitVec 3 × (BitVec 3 → F80) × (BitVec 3 → Bool) × BitVec 16 × Bool :=
  (g.cw, g.top, g.phReg, g.phEmpty, g.sw &&& 0x7F, g.status.c1)

/-- The exception flags of the status word. -/
def excFlags (g : Fpu) : List Bool :=
  [g.status.ie, g.status.de, g.status.ze, g.status.oe, g.status.ue, g.status.pe, g.status.sf]

/-- The exception flags are the low seven bits of SW. -/
theorem flags_congr {g : Fpu} (h : g.excFlags = f.excFlags) : g.sw &&& 0x7F = f.sw &&& 0x7F := by
  refine g.sw_flags _ fun i hi => ?_
  simp only [excFlags, List.cons.injEq, and_true] at h
  obtain ⟨h0, h1, h2, h3, h4, h5, h6⟩ := h
  simp only [sw, FpuStatus.image, BitVec.getLsbD_append, BitVec.getLsbD_ofBool]
  interval_cases i <;> simp [*]

theorem data_congr {g : Fpu} (hcw : g.cw = f.cw) (hr : g.phReg = f.phReg) (he : g.phEmpty = f.phEmpty) (ht : g.top = f.top)
    (hx : g.excFlags = f.excFlags) (h1 : g.status.c1 = f.status.c1) : g.data = f.data := by
  rw [data, data, hcw, hr, he, ht, f.flags_congr hx, h1]

@[simp] theorem data_drawCodes (d : Nat) : (f.drawCodes d).data = f.data := f.data_congr rfl rfl rfl rfl rfl rfl
@[simp] theorem data_drawC03 (d : Nat) : (f.drawC03 d).data = f.data := f.data_congr rfl rfl rfl rfl rfl rfl
@[simp] theorem data_setC2 (b : Bool) : (f.setC2 b).data = f.data := f.data_congr rfl rfl rfl rfl rfl rfl
@[simp] theorem data_summary : f.summary.data = f.data := f.data_congr rfl rfl rfl rfl rfl rfl
@[simp] theorem data_setPointers (a : Nat) (b : BitVec 11) (c : Option Nat) : (f.setPointers a b c).data = f.data :=
  f.data_congr rfl rfl rfl rfl rfl rfl
@[simp] theorem data_trigCodes (d : Nat) (x : F80) : (f.trigCodes d x).data = f.data := by unfold trigCodes; split <;> simp

section Congr

variable {f} {g h : Fpu} (e : h.data = g.data)
include e

theorem StackIs.congr {top : BitVec 3} {r : BitVec 3 → F80} {b : BitVec 3 → Bool} (hg : f.StackIs g top r b) :
    f.StackIs h top r b := by
  simp only [data, Prod.mk.injEq] at e
  obtain ⟨hcw, ht, hr, he, -, -⟩ := e
  rwa [StackIs, hcw, ht, hr, he]

theorem Flagged.congr {x : BitVec 16} {b : Bool} (hg : f.Flagged g x b) : f.Flagged h x b := by
  simp only [data, Prod.mk.injEq] at e
  obtain ⟨-, -, -, -, hx, h1⟩ := e
  rwa [Flagged, hx, h1]

theorem Gives.congr {r : FRes F80} {i : BitVec 3} {pops : Bool} (hg : f.Gives g r i pops) : f.Gives h r i pops := by
  obtain ⟨flagged, stack⟩ := hg
  refine ⟨flagged.congr e, ?_⟩
  cases hr : r.res with
  | none =>
    rw [hr] at stack
    exact StackIs.congr e stack
  | some v =>
    rw [hr] at stack
    cases pops with
    | false => exact StackIs.congr e stack
    | true => exact StackIs.congr e stack

end Congr

/-! ### Results -/

theorem ctl_im : f.ctl.im = f.im := by simp [FCtl.im, ctl, im]

/-- A stack underflow is the fault of an empty operand (R512). -/
theorem underflow_eq {α : Type} (v : α) : f.underflow v = stackFault f.ctl v := by rw [underflow, stackFault, f.ctl_im]

/-- Exception flags set, and C1. -/
theorem raise_flagged (x : BitVec 16) (b : Bool) : f.Flagged ((f.raiseExc x).setC1 b) x b := by
  have same : ((f.raiseExc x).setC1 b).setTop f.top = (f.raiseExc x).setC1 b := rfl
  exact same ▸ f.raiseExc_flagged x b f.top

/-- A result delivered leaves its flags and C1, and its value where there is one (R518, R519). -/
theorem deliver_gives (r : FRes F80) (i : BitVec 3) (pops : Bool) : f.Gives (f.deliver r i pops) r i pops := by
  cases hr : r.res with
  | none =>
    have same : f.deliver r i pops = (f.raiseExc r.exc).setC1 r.c1 := by rw [deliver, hr]
    rw [Gives, hr, same]
    exact ⟨f.raise_flagged _ _, rfl, rfl, fun _ => ⟨rfl, rfl⟩⟩
  | some v =>
    obtain ⟨flagged, w, hw, stack⟩ := f.deliver_takes r i pops (by simp [hr])
    obtain rfl : v = w := Option.some.inj (hr.symm.trans hw)
    rw [Gives, hr]
    exact ⟨flagged, stack⟩

end Fpu

/-! ### The end -/

/-- An instruction that leaves memory as it is ends, under any exception masks, with an FPU of which `Q` holds. -/
def State.FpuLeaves (s : State) (i : Instr) (fdp : Option Nat) (Q : Fpu → Prop) : Prop :=
  s.FpuEnds i fdp fun u => u.mem = s.mem ∧ Q u.fpu

section Ends

variable {s : State} {i : Instr} {fdp : Option Nat} {g : Fpu} (h : exec i s = finish ((s.setFpu g).useDraw.fpuEnd i fdp))
include h

/-- An instruction that changes nothing but the FPU ends under any exception masks in what it left there, but for ES, B and
the pointers. -/
theorem State.fpuEnd_gives {Q : Fpu → Prop} (hcw : g.cw = s.fpu.cw) (hfdp : g.fdp = s.fpu.fdp)
    (hQ : ∀ e : Fpu, e.data = g.data → e.codes = g.codes → Q e) : s.FpuLeaves i fdp Q :=
  s.fpuEnd_ends (s.setFpu g).useDraw i fdp _ rfl hcw hfdp h ⟨rfl, hQ _ (by simp [State.useDraw, State.setFpu]) rfl⟩

/-- An instruction that delivers one result. -/
theorem State.fpuEnd_takes {r : FRes F80} {k : BitVec 3} {pops : Bool} (hg : g.data = (s.fpu.deliver r k pops).data := by simp)
    (hfdp : g.fdp = s.fpu.fdp := by simp) :
    s.FpuLeaves i fdp fun g => s.fpu.Gives g r k pops := by
  have hcw : g.cw = s.fpu.cw := (congrArg Prod.fst hg).trans (s.fpu.deliver_cw r k pops)
  exact State.fpuEnd_gives h hcw hfdp fun e he _ => (s.fpu.deliver_gives r k pops).congr (he.trans hg)

end Ends

/-- With every exception masked the instruction commits. -/
theorem State.FpuLeaves.commits {s : State} {i : Instr} {fdp : Option Nat} {Q : Fpu → Prop} (h : s.FpuLeaves i fdp Q)
    (hm : s.fpu.Masked) :
    ∃ t, exec i s = .next t ∧ s.FpuCommits t i fdp ∧ t.mem = s.mem ∧ Q t.fpu := by
  obtain ⟨u, frame, cw, points, ⟨mem, holds⟩, es, b, -, masked⟩ := h
  rw [← cw, ← Fpu.es_eq] at es b
  refine ⟨_, masked hm, ⟨?_, ⟨es, b⟩, points⟩, mem, holds⟩
  rw [frame]

end Sys2Proof.Machine
end

section
/-! A push on a full stack, every exception masked (46_fpu_model.md R512, R540, O36): a load of any kind leaves one and the same
FPU. -/

namespace Sys2Proof.Machine

namespace Fpu

variable (f : Fpu)

/-- IE, SF and C1 set and the indefinite pushed: a stack overflow, masked (R540). -/
def overflowed : Fpu := ((f.raiseExc (xIE ||| xSF)).setC1 true).pushRaw F80.indefinite

theorem overflowed_spec : f.Pushed f.overflowed F80.indefinite ∧ f.Flagged f.overflowed 0x41 true :=
  ⟨((f.raiseExc (xIE ||| xSF)).setC1 true).pushRaw_pushed _, f.raiseExc_flagged _ _ (f.top - 1)⟩

/-- The flags and C1 of an overflow do not depend on what a stack fault before it has set. -/
theorem overflowed_after_fault : ((f.raiseExc (xIE ||| xSF)).setC1 false).overflowed = f.overflowed := by
  simp [overflowed, raiseExc, setC1]

theorem im_of_masked (h : f.Masked) : f.im = true := by
  rw [← f.ctl_im]
  show (f.cw.extractLsb' 0 6).getLsbD 0 = true
  rw [h]
  decide

section Full

variable {f} (full : f.isEmpty 7 = false) (im : f.im = true)
include full im

theorem push_full (v : F80) : f.push v = f.overflowed := by
  rw [push, full]
  exact if_pos im

theorem loadBits_full (v : F80) : f.loadBits v = f.overflowed := push_full (f := f.setC1 false) full im v

theorem loadConv_full (o : Opnd) : f.loadConv o = f.overflowed := by
  have pushes : (f.setC1 false).push o.v = f.overflowed := push_full (f := f.setC1 false) full im o.v
  rw [loadConv, show (f.setC1 false).isEmpty 7 = false from full]
  exact pushes

/-- An empty register loaded is an underflow and then an overflow. -/
theorem loadSt_full (k : BitVec 3) : f.loadSt k = f.overflowed := by
  unfold loadSt
  split
  · have pushes := push_full (f := (f.raiseExc (xIE ||| xSF)).setC1 false) full im F80.indefinite
    rw [overflowed_after_fault] at pushes
    exact (if_pos im).trans pushes
  · exact loadBits_full full im _

end Full

end Fpu

/-- A load from backed memory reads its bytes. -/
theorem State.fpuLoad_backed {s : State} {i : Instr} {m : Mem} {n : Nat} (op : Fpu → Nat → Fpu)
    (h : s.Backed (s.memAddr i.prefixes m) n) : s.fpuLoad i m n op =
      s.fpuMem i m ((op s.fpu (s.bytesAt (s.memAddr i.prefixes m) n)).drawCodes s.drawn) := by
  rw [State.fpuLoad, State.readMemN, State.linRead_backed _ _ _ h]
  rfl

/-- Settles O36: a load of any kind leaves the FPU of a masked overflow, but for the undefined codes. -/
theorem fpuStackOverflow : Obligations.FpuStackOverflow := by
  intro p s masked full done
  have im := s.fpu.im_of_masked masked
  have ends {i : Instr} {fdp : Option Nat} {g : Fpu} (h : exec i s = finish ((s.setFpu g).useDraw.fpuEnd i fdp))
      (hg : g.data = s.fpu.overflowed.data) (hfdp : g.fdp = s.fpu.fdp) : done i fdp := by
    obtain ⟨pushed, flagged⟩ := s.fpu.overflowed_spec
    have leaves : s.FpuLeaves i fdp fun e => s.fpu.Pushed e F80.indefinite ∧ s.fpu.Flagged e 0x41 true :=
      State.fpuEnd_gives h (congrArg Prod.fst hg) hfdp fun e he _ =>
        ⟨Fpu.StackIs.congr (he.trans hg) pushed, flagged.congr (he.trans hg)⟩
    exact leaves.commits masked
  have const {i : Instr} {v : F80} (h : exec i s = finish (s.fpuConst i v)) : done i none :=
    ends (g := s.fpu.loadBits v) h (by rw [Fpu.loadBits_full full im]) (by rw [Fpu.loadBits_full full im]; rfl)
  have load {i : Instr} {m : Mem} {n : Nat} {op : Fpu → Nat → Fpu} (h : exec i s = finish (s.fpuLoad i m n op))
      (hop : ∀ v, op s.fpu v = s.fpu.overflowed) (hb : s.Backed (s.memAddr i.prefixes m) n) :
      done i (some (s.memAddr i.prefixes m)) :=
    ends (h.trans (congrArg finish (State.fpuLoad_backed op hb))) (by rw [hop, Fpu.data_drawCodes]) (by rw [hop]; rfl)
  have bits (v : F80) : s.fpu.loadBits v = s.fpu.overflowed := Fpu.loadBits_full full im v
  have conv (o : Opnd) : s.fpu.loadConv o = s.fpu.overflowed := Fpu.loadConv_full full im o
  refine ⟨const rfl, const rfl, const rfl, const rfl, const rfl, const rfl, const rfl, fun k => ?_, fun m => ?_⟩
  · exact ends (i := .fld p (.st k)) (g := (s.fpu.loadSt k).drawCodes s.drawn) rfl
      (by rw [Fpu.loadSt_full full im, Fpu.data_drawCodes]) (by rw [Fpu.loadSt_full full im]; rfl)
  · exact ⟨load (i := .fld p (.m32 m)) rfl fun _ => conv _, load (i := .fld p (.m64 m)) rfl fun _ => conv _,
      load (i := .fld p (.m80 m)) rfl fun _ => bits _, load (i := .fild p (.m16 m)) rfl fun _ => bits _,
      load (i := .fild p (.m32 m)) rfl fun _ => bits _, load (i := .fild p (.m64 m)) rfl fun _ => bits _,
      load (i := .fbld p m) rfl fun _ => bits _⟩

end Sys2Proof.Machine
end

section
/-! The FPU computations of one result under any masks (46_fpu_model.md R511 to R520, 47_fpu_transfer_arith.md R578 to R601,
48_fpu_compare_trans_control.md R651, R652, R655 to R658, O45). -/

namespace Sys2Proof.Machine

/-! ### Results of one and of two operands -/

section Shapes

variable {s : State} {i : Instr}

/-- The result of an operation of two operands: the stack fault where one of them is an empty register. -/
def State.result (s : State) (prec : Nat) (op : F80 → F80 → Calc) (a b : Opnd) (empty : Bool) : FRes F80 :=
  if empty then stackFault s.fpu.ctl F80.indefinite else arith2 s.fpu.ctl s.drawn prec op a b

/-- ST(i) with ST(j), into ST(i). -/
theorem State.fpuStSt_takes {op : FOp} {dst src : BitVec 3} {pops : Bool}
    (h : exec i s = finish (s.fpuStSt i op dst src pops)) :
    s.FpuLeaves i none fun g => s.fpu.Gives g
      (s.result (s.fpu.prec s.par) (op s.fpu.rc) (.reg (s.fpu.st dst)) (.reg (s.fpu.st src))
        (s.fpu.isEmpty dst || s.fpu.isEmpty src)) dst pops := by
  rw [State.result, ← s.fpu.underflow_eq]
  exact State.fpuEnd_takes h (Fpu.data_drawCodes _ _)

/-- ST(0) with a memory operand: the operand is read, or no use is made of it. -/
theorem State.fpuStMem_backed (i : Instr) (op : FOp) {m : Mem} {n : Nat} (load : Nat → Opnd)
    (hb : s.Backed (s.memAddr i.prefixes m) n) : s.fpuStMem i op m n load = s.fpuMem i m ((s.fpu.deliver
      (s.result (s.fpu.prec s.par) (op s.fpu.rc) (.reg (s.fpu.st 0)) (load (s.bytesAt (s.memAddr i.prefixes m) n))
        (s.fpu.isEmpty 0)) 0 false).drawCodes s.drawn) := by
  have reads (f : Fpu) : (s.setFpu f).readMemN i.prefixes m n = .ok (s.bytesAt (s.memAddr i.prefixes m) n) :=
    ((s.setFpu f).linRead_backed _ _ hb).trans (congrArg Except.ok (State.bytesAt_congr (s := s) (t := s.setFpu f) rfl rfl _ _))
  rw [State.result, ← s.fpu.underflow_eq, State.fpuStMem]
  split
  · next empty =>
    dsimp only
    rw [reads]
    exact ite_self _
  · next empty => exact congrArg (· >>= _) (reads s.fpu)

theorem State.fpuStMem_takes {op : FOp} {m : Mem} {n : Nat} {load : Nat → Opnd}
    (h : exec i s = finish (s.fpuStMem i op m n load)) (hb : s.Backed (s.memAddr i.prefixes m) n) :
    s.FpuLeaves i (some (s.memAddr i.prefixes m)) fun g => s.fpu.Gives g
      (s.result (s.fpu.prec s.par) (op s.fpu.rc) (.reg (s.fpu.st 0)) (load (s.bytesAt (s.memAddr i.prefixes m) n))
        (s.fpu.isEmpty 0)) 0 false :=
  State.fpuEnd_takes (h.trans (congrArg finish (State.fpuStMem_backed i op load hb)))

/-- An operation on ST(0). -/
theorem State.fpuUnary_takes {op : F80 → FRes F80} (h : exec i s = finish (s.fpuUnary i op)) :
    s.FpuLeaves i none fun g => s.fpu.Gives g
      (if s.fpu.isEmpty 0 then stackFault s.fpu.ctl F80.indefinite else op (s.fpu.st 0)) 0 false := by
  rw [← s.fpu.underflow_eq]
  exact State.fpuEnd_takes h

/-- ST(1) and ST(0), into ST(1) with a pop. -/
theorem State.fpuYx_takes {op : F80 → F80 → Calc} (h : exec i s = finish (s.fpuYx i op)) :
    s.FpuLeaves i none fun g => s.fpu.Gives g
      (s.result 64 op (.reg (s.fpu.st 1)) (.reg (s.fpu.st 0)) (s.fpu.isEmpty 0 || s.fpu.isEmpty 1)) 1 true := by
  rw [State.result, ← s.fpu.underflow_eq]
  exact State.fpuEnd_takes h

/-- F2XM1 leaves C2, and its draw decides C0 and C3. -/
theorem State.f2xm1_takes (p : Prefixes) : s.FpuLeaves (.f2xm1 p) none fun g => s.fpu.Gives g
    (if s.fpu.isEmpty 0 then stackFault s.fpu.ctl F80.indefinite else arith1 s.fpu.ctl s.drawn 64 f2xm1Calc (s.fpu.st 0))
    0 false := by
  rw [← s.fpu.underflow_eq]
  exact State.fpuEnd_takes (i := .f2xm1 p) (fdp := none) rfl (Fpu.data_drawC03 _ _)

theorem State.fscale_takes (p : Prefixes) : s.FpuLeaves (.fscale p) none fun g => s.fpu.Gives g
    (s.result 64 scaleCalc (.reg (s.fpu.st 0)) (.reg (s.fpu.st 1)) (s.fpu.isEmpty 0 || s.fpu.isEmpty 1)) 0 false := by
  rw [State.result, ← s.fpu.underflow_eq]
  exact State.fpuEnd_takes (i := .fscale p) (fdp := none) rfl (Fpu.data_drawCodes _ _)

end Shapes

/-! ### FABS and FCHS (R598, R599) -/

theorem F80.and_not_signMask (x : F80) : x &&& ~~~(1#80 <<< 79) = F80.mk false x.exp x.sig := by
  apply BitVec.eq_of_getLsbD_eq
  intro k hk
  rw [x.getLsbD_mk_sign _ hk, BitVec.getLsbD_and, BitVec.getLsbD_not, F80.getLsbD_signMask hk]
  split
  · next h => simp [h]
  · next h => simp [h, hk]

/-! ### FXCH (R578) -/

namespace Fpu

variable (f : Fpu)

theorem stackIs_iff {f g : Fpu} {top : BitVec 3} {r : BitVec 3 → F80} {e : BitVec 3 → Bool} :
    f.StackIs g top r e ↔ g.cw = f.cw ∧ g.top = top ∧ g.phReg = r ∧ g.phEmpty = e := by
  simp only [StackIs, funext_iff, forall_and]

@[simp] theorem setSt_top (i : BitVec 3) (v : F80) : (f.setSt i v).top = f.top := rfl

@[simp] theorem setSt_phReg (i : BitVec 3) (v : F80) : (f.setSt i v).phReg = Function.update f.phReg (f.top + i) v :=
  (stackIs_iff.mp (f.setSt_replaced i v)).2.2.1

@[simp] theorem setSt_phEmpty (i : BitVec 3) (v : F80) :
    (f.setSt i v).phEmpty = Function.update f.phEmpty (f.top + i) false :=
  (stackIs_iff.mp (f.setSt_replaced i v)).2.2.2

theorem st_eq (i : BitVec 3) : f.st i = f.phReg (f.top + i) := rfl

theorem isEmpty_eq (i : BitVec 3) : f.isEmpty i = f.phEmpty (f.top + i) := rfl

@[simp] theorem fillEmpty_status (i : BitVec 3) : (f.fillEmpty i).status = f.status := by unfold fillEmpty; split <;> rfl
@[simp] theorem fillEmpty_fdp (i : BitVec 3) : (f.fillEmpty i).fdp = f.fdp := by unfold fillEmpty; split <;> rfl
@[simp] theorem fillEmpty_top (i : BitVec 3) : (f.fillEmpty i).top = f.top := congrArg FpuStatus.top (f.fillEmpty_status i)
@[simp] theorem swap_status (i : BitVec 3) : (f.swap i).status = f.status := rfl
@[simp] theorem swap_fdp (i : BitVec 3) : (f.swap i).fdp = f.fdp := rfl

@[simp] theorem exchange_fdp (i : BitVec 3) : (f.exchange i).fdp = f.fdp := by
  unfold exchange
  dsimp only
  split_ifs <;> simp

/-- The value that an exchange takes from a register (R578). -/
def exchanged (j : BitVec 3) : F80 := if f.isEmpty j then F80.indefinite else f.st j

@[simp] theorem top_zero : f.top + 0 = f.top := BitVec.add_zero _

@[simp] theorem fillEmpty_phReg (i : BitVec 3) :
    (f.fillEmpty i).phReg = Function.update f.phReg (f.top + i) (f.exchanged i) := by
  unfold fillEmpty exchanged
  split
  · exact f.setSt_phReg _ _
  · exact (Function.update_eq_self _ _).symm

@[simp] theorem fillEmpty_phEmpty (i : BitVec 3) :
    (f.fillEmpty i).phEmpty = Function.update f.phEmpty (f.top + i) false := by
  unfold fillEmpty
  split
  · exact f.setSt_phEmpty _ _
  · next h => rw [← Bool.eq_false_iff.mpr h, isEmpty_eq, Function.update_eq_self]

/-- Filling one register does not change what an exchange takes from another. -/
theorem exchanged_fillEmpty (i j : BitVec 3) : (f.fillEmpty i).exchanged j = f.exchanged j := by
  simp only [exchanged, isEmpty_eq, st_eq, fillEmpty_top, fillEmpty_phReg, fillEmpty_phEmpty, Function.update_apply]
  by_cases h : f.top + j = f.top + i
  · simp only [h, if_true, Bool.false_eq_true, if_false]
    rfl
  · simp only [h, if_false]
    rfl

/-- Both registers filled hold what an exchange takes from them. -/
theorem filled_st (k : BitVec 3) : ((f.fillEmpty 0).fillEmpty k).st k = f.exchanged k ∧
    ((f.fillEmpty 0).fillEmpty k).st 0 = f.exchanged 0 := by
  simp only [st_eq, fillEmpty_top, fillEmpty_phReg, exchanged_fillEmpty, Function.update_self, true_and]
  rcases eq_or_ne k 0 with rfl | hk
  · rw [Function.update_self]
  · rw [Function.update_of_ne (fun e => hk (add_left_cancel e).symm), Function.update_self]

/-- The exchange of two registers, an empty one taken as the indefinite, in an FPU with the register stack of `f`. -/
theorem swap_filled_stackIs {g : Fpu} (stack : f.KeepsStack g) (k : BitVec 3) :
    f.StackIs (((g.fillEmpty 0).fillEmpty k).swap k) f.top
      (Function.update (Function.update f.phReg f.top (f.exchanged k)) (f.top + k) (f.exchanged 0))
      (Function.update (Function.update f.phEmpty f.top false) (f.top + k) false) := by
  obtain ⟨cw, top, regs, empty⟩ := stackIs_iff.mp stack
  have taken (j : BitVec 3) : f.exchanged j = g.exchanged j := by
    simp only [exchanged, isEmpty_eq, st_eq, top, regs, empty]
    rfl
  obtain ⟨hk, h0⟩ := g.filled_st k
  rw [stackIs_iff, swap, hk, h0, ← cw, ← top, ← regs, ← empty, taken, taken]
  refine ⟨by simp, by simp, ?_, ?_⟩ <;> funext j
  · simp only [setSt_phReg, setSt_top, fillEmpty_top, fillEmpty_phReg, top_zero, Function.update_apply]
    split_ifs <;> rfl
  · simp only [setSt_phEmpty, setSt_top, fillEmpty_top, fillEmpty_phEmpty, top_zero, Function.update_apply]
    split_ifs <;> rfl

/-- The registers that are not empty are filled as they are. -/
theorem fillEmpty_of_not (i : BitVec 3) (h : f.isEmpty i = false) : f.fillEmpty i = f := by
  rw [fillEmpty, h]
  rfl

theorem flagged_zero {g : Fpu} {b : Bool} (hx : g.excFlags = f.excFlags) (h1 : g.status.c1 = b) : f.Flagged g 0 b := by
  refine ⟨?_, h1⟩
  rw [f.flags_congr hx]
  exact congrArg (· &&& _) BitVec.or_zero.symm

theorem Flagged.of_status {f g h : Fpu} {x : BitVec 16} {b : Bool} (hg : f.Flagged g x b) (e : h.status = g.status) :
    f.Flagged h x b := by
  rwa [Flagged, sw, e]

theorem exchange_empty {k : BitVec 3} (h : (f.isEmpty 0 || f.isEmpty k) = true) : f.exchange k =
    if f.im then ((((f.raiseExc (xIE ||| xSF)).setC1 false).fillEmpty 0).fillEmpty k).swap k
    else (f.raiseExc (xIE ||| xSF)).setC1 false := by
  rw [exchange, if_pos h]
  rfl

theorem exchange_present {k : BitVec 3} (h0 : f.isEmpty 0 = false) (hk : f.isEmpty k = false) :
    f.exchange k = (((f.setC1 false).fillEmpty 0).fillEmpty k).swap k := by
  rw [fillEmpty_of_not (f.setC1 false) 0 h0, fillEmpty_of_not (f.setC1 false) k hk, exchange, h0, hk]
  rfl

/-- What FXCH leaves: the flags, and the registers exchanged unless an unmasked fault stopped it (R578). -/
def Exchanges (g : Fpu) (k : BitVec 3) : Prop :=
  f.Flagged g (if f.isEmpty 0 || f.isEmpty k then xIE ||| xSF else 0) false ∧
    if (f.isEmpty 0 || f.isEmpty k) = true ∧ f.im = false then f.KeepsStack g
    else f.StackIs g f.top (Function.update (Function.update f.phReg f.top (f.exchanged k)) (f.top + k) (f.exchanged 0))
      (Function.update (Function.update f.phEmpty f.top false) (f.top + k) false)

theorem Exchanges.congr {f g h : Fpu} {k : BitVec 3} (hg : f.Exchanges g k) (e : h.data = g.data) : f.Exchanges h k := by
  obtain ⟨flagged, stack⟩ := hg
  refine ⟨flagged.congr e, ?_⟩
  split
  · next stopped => exact StackIs.congr e ((if_pos stopped).mp stack)
  · next done => exact StackIs.congr e ((if_neg done).mp stack)

theorem exchange_exchanges (k : BitVec 3) : f.Exchanges (f.exchange k) k := by
  unfold Exchanges
  cases he : f.isEmpty 0 || f.isEmpty k with
  | true =>
    have fault : f.Flagged ((f.raiseExc (xIE ||| xSF)).setC1 false) (xIE ||| xSF) false := f.raise_flagged _ _
    have keeps : f.KeepsStack ((f.raiseExc (xIE ||| xSF)).setC1 false) := ⟨rfl, rfl, fun _ => ⟨rfl, rfl⟩⟩
    rw [f.exchange_empty he, if_pos rfl]
    cases him : f.im with
    | true =>
      rw [if_pos rfl, if_neg (by simp)]
      exact ⟨fault.of_status (by simp), f.swap_filled_stackIs keeps k⟩
    | false =>
      rw [if_neg (by simp), if_pos ⟨rfl, rfl⟩]
      exact ⟨fault, keeps⟩
  | false =>
    obtain ⟨h0, hk⟩ := Bool.or_eq_false_iff.mp he
    have flagged : f.Flagged (f.setC1 false) 0 false := f.flagged_zero rfl rfl
    rw [f.exchange_present h0 hk, if_neg (by simp), if_neg (by simp)]
    exact ⟨flagged.of_status (by simp), f.swap_filled_stackIs (g := f.setC1 false) ⟨rfl, rfl, fun _ => ⟨rfl, rfl⟩⟩ k⟩

end Fpu

/-! ### FSIN and FCOS (R651, R652) -/

/-- Beyond the range of the trigonometric instructions: a magnitude of 2^63 or more. -/
theorem F80.huge_iff (x : F80) : x.huge = true ↔ x.Finite ∧ 2 ^ 63 ≤ |x.rat| := by
  have bound : (2 : ℚ) ^ 63 = 2 ^ (63 : Int) := by norm_cast
  rw [F80.huge, Bool.and_eq_true, beq_iff_eq, decide_eq_true_iff, bound]
  constructor
  · rintro ⟨normal, top⟩
    exact ⟨.inr (.inr normal), (F80.two_zpow_le_abs_rat (F80.FiniteNonzero.rat_ne (.inr normal)) _).mpr top⟩
  · rintro ⟨finite, large⟩
    have nonzero : x.rat ≠ 0 := fun e => by
      rw [e, abs_zero] at large
      exact absurd large (by positivity : (0 : ℚ) < 2 ^ (63 : Int)).not_ge
    have top := (F80.two_zpow_le_abs_rat nonzero _).mp large
    refine ⟨?_, top⟩
    rcases finite with h | h | h
    · exact absurd (F80.Finite.rat_eq_zero (.inl h) |>.mpr h) nonzero
    · obtain ⟨exp, sig⟩ := x.cls_denormal_iff.mp h
      have lead := (Nat.log2_lt sig).mpr x.sig_lt
      have : x.val.top = (Nat.log2 x.sig : Int) + (1 - 16446) := by rw [ExactVal.top, F80.val, if_pos exp]
      omega
    · exact h

theorem F80.trigOperand_iff (x : F80) : x.trigOperand = true ↔ x.Numeric := by
  rw [F80.trigOperand, F80.isNan, F80.Numeric, F80.Finite]
  cases x.cls <;> decide

/-- C2 is clear after an operand that the rules of the trigonometric instructions are about (R651). -/
theorem Fpu.trigCodes_c2 (f : Fpu) (d : Nat) {x : F80} (h : x.Numeric) : (f.trigCodes d x).codes.c2 = false := by
  rw [Fpu.trigCodes, if_pos (x.trigOperand_iff.mpr h)]
  rfl

section SinCos

variable {s : State} {i : Instr} {op : F80 → Calc} (h : exec i s = finish (s.fpuReg i (s.fpu.sinCos s.drawn op)))
include h

theorem State.sinCos_huge (h0 : s.fpu.isEmpty 0 = false) (hh : (s.fpu.st 0).huge = true) :
    s.FpuLeaves i none fun g => s.fpu.Flagged g 0 s.fpu.status.c1 ∧ s.fpu.KeepsStack g ∧ g.codes.c2 = true := by
  have value : s.fpu.sinCos s.drawn op = s.fpu.setC2 true := by rw [Fpu.sinCos, h0, hh]; rfl
  have flagged : s.fpu.Flagged (s.fpu.setC2 true) 0 s.fpu.status.c1 := s.fpu.flagged_zero rfl rfl
  have keeps : s.fpu.KeepsStack (s.fpu.setC2 true) := ⟨rfl, rfl, fun _ => ⟨rfl, rfl⟩⟩
  rw [value] at h
  exact State.fpuEnd_gives h rfl rfl fun e data codes =>
    ⟨flagged.congr data, Fpu.StackIs.congr data keeps, congrArg CmpCodes.c2 codes⟩

theorem State.sinCos_gives (hh : ¬ (s.fpu.isEmpty 0 = false ∧ (s.fpu.st 0).huge = true)) :
    s.FpuLeaves i none fun g => s.fpu.Gives g
      (if s.fpu.isEmpty 0 then stackFault s.fpu.ctl F80.indefinite else arith1 s.fpu.ctl s.drawn 64 op (s.fpu.st 0)) 0 false ∧
        (s.fpu.isEmpty 0 = false → (s.fpu.st 0).Numeric → g.codes.c2 = false) := by
  have delivered (r : FRes F80) {e g : Fpu} (data : e.data = g.data) (hg : g.data = (s.fpu.deliver r 0 false).data) :
      s.fpu.Gives e r 0 false := (s.fpu.deliver_gives r 0 false).congr (data.trans hg)
  cases h0 : s.fpu.isEmpty 0 with
  | true =>
    have value : s.fpu.sinCos s.drawn op =
        (s.fpu.deliver (s.fpu.underflow F80.indefinite) 0 false).drawCodes s.drawn := by rw [Fpu.sinCos, h0]; rfl
    rw [value] at h
    exact State.fpuEnd_gives h (by simp) (by simp) fun e data _ =>
      ⟨s.fpu.underflow_eq F80.indefinite ▸ delivered _ data (Fpu.data_drawCodes _ _), nofun⟩
  | false =>
    have inRange : (s.fpu.st 0).huge = false := Bool.eq_false_iff.mpr fun e => hh ⟨h0, e⟩
    have value : s.fpu.sinCos s.drawn op =
        (s.fpu.deliver (arith1 s.fpu.ctl s.drawn 64 op (s.fpu.st 0)) 0 false).trigCodes s.drawn (s.fpu.st 0) := by
      rw [Fpu.sinCos, h0, inRange]
      rfl
    rw [value] at h
    exact State.fpuEnd_gives h (by simp) (by simp) fun e data codes =>
      ⟨delivered _ data (Fpu.data_trigCodes _ _ _), fun _ numeric =>
        (congrArg CmpCodes.c2 codes).trans (Fpu.trigCodes_c2 _ _ numeric)⟩

end SinCos

/-! ### The obligation -/

theorem State.fxch_exchanges (s : State) (p : Prefixes) (k : BitVec 3) :
    s.FpuLeaves (.fxch p k) none fun g => s.fpu.Exchanges g k :=
  State.fpuEnd_gives (g := (s.fpu.exchange k).drawCodes s.drawn) rfl (by simp) (by simp) fun _ data _ =>
    (s.fpu.exchange_exchanges k).congr (data.trans (Fpu.data_drawCodes _ _))

/-- Settles O45: each instruction delivers one result, which is a stack fault where an operand is an empty register; FXCH writes
two registers, and FSIN and FCOS deliver nothing beyond their range. -/
theorem fpuUnmaskedArithmetic : Obligations.FpuUnmaskedArithmetic := by
  intro p s f x takes result inSt inMem rev all one two isHuge beyond sine bits
  have six {op : FOp} {plain : FArith → Instr} {pop : BitVec 3 → Instr} {int : FInt → Instr}
      (hplain : ∀ a, (plain a).prefixes = p ∧ exec (plain a) s = finish (s.fpuArith (plain a) op a))
      (hpop : ∀ k, exec (pop k) s = finish (s.fpuStSt (pop k) op k 0 true))
      (hint : ∀ a, (int a).prefixes = p ∧ exec (int a) s = finish (s.fpuArithInt (int a) op a)) : all op plain pop int := by
    have mem {i : Instr} {m : Mem} {n : Nat} {load : Nat → Opnd} (hp : i.prefixes = p)
        (h : exec i s = finish (s.fpuStMem i op m n load)) : inMem i op m n load := fun hb => by
      subst hp
      exact State.fpuStMem_takes h hb
    exact ⟨fun k => ⟨State.fpuStSt_takes (hplain _).2, State.fpuStSt_takes (hplain _).2, State.fpuStSt_takes (hpop k)⟩,
      fun m => ⟨mem (hplain (.m32 m)).1 (hplain (.m32 m)).2, mem (hplain (.m64 m)).1 (hplain (.m64 m)).2,
        mem (load := loadIntOpnd 2) (hint (.m16 m)).1 (hint (.m16 m)).2,
        mem (load := loadIntOpnd 4) (hint (.m32 m)).1 (hint (.m32 m)).2⟩⟩
  have trig : if isHuge then beyond (.fsin p) ∧ beyond (.fcos p) else sine (.fsin p) sinCalc ∧ sine (.fcos p) cosCalc := by
    have huge : isHuge ↔ f.isEmpty 0 = false ∧ x.huge = true := by rw [x.huge_iff]
    split
    · next h =>
      obtain ⟨h0, hh⟩ := huge.mp h
      exact ⟨State.sinCos_huge (op := sinCalc) rfl h0 hh, State.sinCos_huge (op := cosCalc) rfl h0 hh⟩
    · next h =>
      exact ⟨State.sinCos_gives (op := sinCalc) rfl (mt huge.mpr h), State.sinCos_gives (op := cosCalc) rfl (mt huge.mpr h)⟩
  have sqrt : one (.fsqrt p) (f.prec s.par) sqrtCalc :=
    State.fpuUnary_takes (op := arith1 f.ctl s.drawn (f.prec s.par) sqrtCalc) rfl
  have abs : bits (.fabs p) (F80.mk false x.exp x.sig) := by
    have := State.fpuUnary_takes (s := s) (i := .fabs p) (op := fun v => .bits (v &&& ~~~(1#80 <<< 79))) rfl
    rw [F80.and_not_signMask] at this
    exact this
  have chs : bits (.fchs p) (F80.mk (!x.neg) x.exp x.sig) := by
    have := State.fpuUnary_takes (s := s) (i := .fchs p) (op := fun v => .bits v.flip) rfl
    rw [F80.flip_eq] at this
    exact this
  exact ⟨six (fun _ => ⟨rfl, rfl⟩) (fun _ => rfl) fun _ => ⟨rfl, rfl⟩,
    six (fun _ => ⟨rfl, rfl⟩) (fun _ => rfl) fun _ => ⟨rfl, rfl⟩,
    six (fun _ => ⟨rfl, rfl⟩) (fun _ => rfl) fun _ => ⟨rfl, rfl⟩,
    six (fun _ => ⟨rfl, rfl⟩) (fun _ => rfl) fun _ => ⟨rfl, rfl⟩,
    six (fun _ => ⟨rfl, rfl⟩) (fun _ => rfl) fun _ => ⟨rfl, rfl⟩,
    six (fun _ => ⟨rfl, rfl⟩) (fun _ => rfl) fun _ => ⟨rfl, rfl⟩, sqrt, s.f2xm1_takes p, trig, abs, chs, s.fscale_takes p,
    State.fpuYx_takes (op := atanCalc f.rc) rfl, State.fpuYx_takes (op := yl2xCalc) rfl,
    State.fpuYx_takes (op := yl2xp1Calc) rfl, s.fxch_exchanges p⟩

end Sys2Proof.Machine
end

section
/-! FRNDINT under any masks (46_fpu_model.md R522, 47_fpu_transfer_arith.md R600, O46): the rounded magnitude is the integer that RC
selects, and every such integer is a value of the format. -/

namespace Sys2Proof.Machine

/-! ### The integer that RC selects -/

/-- An integer within one half, and even at one half, is the nearest. -/
theorem roundToInt_nearest {x : ℚ} {i : Int} (near : 2 * |(i : ℚ) - x| ≤ 1) (tie : 2 * |(i : ℚ) - x| = 1 → i % 2 = 0) :
    roundToInt .nearest x = i := by
  obtain ⟨lo, hi⟩ := abs_le.mp (by linarith : |(i : ℚ) - x| ≤ 1 / 2)
  have below := Int.floor_le x
  have above := Int.lt_floor_add_one x
  have atLeast : ⌊x⌋ ≤ i := Int.lt_add_one_iff.mp (by exact_mod_cast (by linarith : (⌊x⌋ : ℚ) < i + 1))
  have atMost : i ≤ ⌊x⌋ + 1 := Int.lt_add_one_iff.mp (by exact_mod_cast (by linarith : (i : ℚ) < ⌊x⌋ + 1 + 1))
  rcases atLeast.eq_or_lt with rfl | h
  · -- the lower neighbour
    have frac : x - ⌊x⌋ ≤ 1 / 2 := by linarith
    rw [roundToInt]
    rcases frac.lt_or_eq with lt | eq
    · rw [if_pos lt]
    · rw [if_neg eq.not_lt, if_neg eq.not_gt, if_pos (tie (by rw [abs_sub_comm, eq, abs_of_pos] <;> norm_num))]
  · -- the upper one
    obtain rfl : i = ⌊x⌋ + 1 := by omega
    push_cast at lo hi near tie
    have frac : 1 / 2 ≤ x - ⌊x⌋ := by linarith
    have ceil : ⌈x⌉ = ⌊x⌋ + 1 := Int.ceil_eq_iff.mpr ⟨by push_cast; linarith, by push_cast; linarith⟩
    rw [roundToInt, ceil, if_neg frac.not_gt]
    rcases frac.lt_or_eq with lt | eq
    · rw [if_pos lt]
    · have even := tie (by rw [show (⌊x⌋ : ℚ) + 1 - x = 1 / 2 by linarith, abs_of_pos] <;> norm_num)
      rw [if_neg eq.symm.not_gt, if_neg (by omega)]

/-- The way to the selected magnitude gives the selected integer, with the sign. -/
theorem roundToInt_of_step {rc : Rc} {neg : Bool} {x d : ℚ} {k : Nat} (h0 : 0 ≤ x) (way : (k : ℚ) - x = d) (small : |d| < 1)
    (selects : SelectsStep rc neg k d) : roundToInt rc (signed neg x) = if neg then -(k : Int) else k := by
  obtain ⟨small1, small2⟩ := abs_lt.mp small
  cases rc with
  | nearest =>
    obtain ⟨near, tie⟩ := selects
    have dist : |((if neg then -(k : Int) else k : Int) : ℚ) - signed neg x| = |d| := by
      rw [← way]
      cases neg
      · simp [signed]
      · simp only [signed, if_true]
        push_cast
        rw [sub_neg_eq_add, neg_add_eq_sub, abs_sub_comm]
    refine roundToInt_nearest (dist ▸ near) fun e => ?_
    rw [dist] at e
    have := tie e
    split <;> omega
  | down =>
    cases neg <;> simp only [SelectsStep, signed, if_true, if_false, Bool.false_eq_true] at selects ⊢ <;>
      exact Int.floor_eq_iff.mpr (by push_cast; constructor <;> linarith)
  | up =>
    cases neg <;> simp only [SelectsStep, signed, if_true, if_false, Bool.false_eq_true] at selects ⊢ <;>
      exact Int.ceil_eq_iff.mpr (by push_cast; constructor <;> linarith)
  | zero =>
    have floor : ⌊x⌋ = k := Int.floor_eq_iff.mpr (by
      simp only [SelectsStep] at selects
      push_cast
      constructor <;> linarith)
    rw [roundToInt, truncate_eq, abs_signed, abs_of_nonneg h0, floor]
    rcases h0.eq_or_lt with rfl | pos
    · obtain rfl : k = 0 := by exact_mod_cast (floor ▸ Int.floor_zero : (k : Int) = 0)
      simp
    · cases neg <;> simp [signed, pos, pos.le]

/-! ### The rounded value -/

/-- Rounded to an integer, a magnitude with a fraction has at most 64 bits or is the next power of two. -/
theorem F80.roundInt_le (rc : Rc) {x : F80} (he : x.val.exp < 0) : (x.roundInt rc).k ≤ 2 ^ 64 := by
  have lt := x.sig_lt
  have div := Nat.div_le_self x.sig (2 ^ (0 - x.val.exp).toNat)
  rw [F80.roundInt, roundAt, if_neg (by simpa using he)]
  dsimp only
  split <;> omega

/-- A magnitude without a fraction is its integer. -/
theorem F80.roundInt_eq (rc : Rc) {x : F80} (he : 0 ≤ x.val.exp) : (x.roundInt rc).k = x.sig * 2 ^ x.val.exp.toNat := by
  rw [F80.roundInt, roundAt, if_pos (by simpa using he)]
  simp

/-- The rounded magnitude loses no bit in the format. -/
theorem F80.roundInt_dvd (rc : Rc) (x : F80) : 2 ^ (Nat.log2 (x.roundInt rc).k - 63) ∣ (x.roundInt rc).k := by
  rcases lt_or_ge x.val.exp 0 with he | he
  · exact two_pow_dvd_of_le (F80.roundInt_le rc he)
  rw [F80.roundInt_eq rc he]
  generalize x.val.exp.toNat = n
  rcases Nat.eq_zero_or_pos x.sig with h0 | h0
  · rw [h0, Nat.zero_mul]
    exact dvd_zero _
  · have : Nat.log2 (x.sig * 2 ^ n) < 64 + n := by
      refine (Nat.log2_lt (by positivity)).mpr ?_
      rw [pow_add]
      exact Nat.mul_lt_mul_of_pos_right x.sig_lt (Nat.two_pow_pos n)
    exact (Nat.pow_dvd_pow 2 (by omega)).mul_left _

/-- The rounded magnitude is in the range of the format. -/
theorem F80.roundInt_lt (rc : Rc) {x : F80} (h : x.Finite) (hk : (x.roundInt rc).k ≠ 0) :
    (Nat.log2 (x.roundInt rc).k : Int) + 0 < 16384 := by
  rcases lt_or_ge x.val.exp 0 with he | he
  · have := (Nat.log2_lt hk).mpr ((F80.roundInt_le rc he).trans_lt (Nat.pow_lt_pow_succ one_lt_two))
    omega
  · rw [← not_le, ← two_zpow_le_dyadic hk, not_le]
    obtain ⟨n, hn⟩ := Int.eq_ofNat_of_zero_le he
    have lt := h.abs_rat_lt
    rw [x.abs_rat, hn] at lt
    rw [F80.roundInt_eq rc he, hn]
    simpa using lt

/-- The integer that RC selects for a finite value, in the format. -/
theorem rndintCalc_finite (rc : Rc) {x : F80} (h : x.Finite) :
    ∃ v, rndintCalc rc x = .value v (decide ((roundToInt rc x.rat : ℚ) ≠ x.rat))
        (decide (|x.rat| < |(roundToInt rc x.rat : ℚ)|)) ∧ v.Encodes x.neg (roundToInt rc x.rat) := by
  obtain ⟨d, -, way, small, inexact, above, selects⟩ := roundAt_steps rc x.neg (q := 0) x.approx_is nofun
  change (x.roundInt rc).inexact = true ↔ _ at inexact
  change (x.roundInt rc).above = true ↔ _ at above
  change ((x.roundInt rc).k : ℚ) * _ - _ = _ at way
  rw [zpow_zero, mul_one, mul_one] at way
  have rat : x.rat = signed x.neg |x.rat| := by rw [x.abs_rat, ← x.rat_eq]
  have integer : (roundToInt rc x.rat : ℚ) = signed x.neg (x.roundInt rc).k := by
    rw [rat, roundToInt_of_step (abs_nonneg _) way small selects]
    cases x.neg <;> simp [signed]
  have magnitude : |(roundToInt rc x.rat : ℚ)| = (x.roundInt rc).k := by
    rw [integer, abs_signed, Nat.abs_cast]
  rcases h with zero | nonzero
  · -- a zero is an integer
    have r0 : x.rat = 0 := (F80.Finite.rat_eq_zero (.inl zero)).mpr zero
    have i0 : roundToInt rc x.rat = 0 := by rw [r0]; cases rc <;> simp [roundToInt, truncate]
    refine ⟨x, ?_, .inl zero, by rw [i0, r0, Int.cast_zero], rfl, fun _ => ?_⟩
    · rw [rndintCalc_fixed rc (.inl zero), i0, r0]
      simp
    · rw [(x.cls_zero_iff.mp zero).2]
      norm_num
  · obtain ⟨v, hv⟩ := encodeReg_isSome x.neg (F80.roundInt_lt rc (.inr nonzero)) (.inl (by norm_num : (-16445 : Int) ≤ 0))
    have encodes := encodeReg_encodes (x.roundInt_dvd rc) hv
    rw [zpow_zero, mul_one, ← integer] at encodes
    refine ⟨v, ?_, encodes⟩
    have pe : (x.roundInt rc).inexact = decide ((roundToInt rc x.rat : ℚ) ≠ x.rat) := by
      rw [Bool.eq_iff_iff, inexact, decide_eq_true_iff, integer, rat, Ne, Ne, signed_inj, ← way, sub_eq_zero]
    have c1 : (x.roundInt rc).above = decide (|x.rat| < |(roundToInt rc x.rat : ℚ)|) := by
      rw [Bool.eq_iff_iff, above, decide_eq_true_iff, magnitude, ← way, sub_pos]
    rw [rndintCalc, F80.FiniteNonzero.isInf_eq_false nonzero, F80.FiniteNonzero.isZero_eq_false nonzero, ← pe, ← c1]
    simp [hv]

/-! ### FRNDINT -/

/-- What FRNDINT gives (R600): a denormal may be looked at or not, and an infinity stays. -/
theorem rndint_spec (c : FCtl) (d : Nat) (x : F80) :
    if x.cls = .denormal ∧ Config.frndintDe = true ∧ c.dm = false then
      rndint c d x = { exc := xDE, res := none, c1 := false }
    else if x.Finite then
      (rndint c d x).exc = peIf (decide ((roundToInt c.rc x.rat : ℚ) ≠ x.rat)) |||
          (if x.cls = .denormal ∧ Config.frndintDe = true then xDE else 0) ∧
        (rndint c d x).c1 = decide (|x.rat| < |(roundToInt c.rc x.rat : ℚ)|) ∧
        ∃ v, (rndint c d x).res = some v ∧ v.Encodes x.neg (roundToInt c.rc x.rat)
    else if x.cls = .infinity then rndint c d x = { exc := 0, res := some x, c1 := false }
    else NanGives c x F80.one (rndint c d x) := by
  have numeric (h : x.Numeric) : rndint c d x = (rndintCalc c.rc x).finish c d 64 (x.cls == .denormal && Config.frndintDe) := by
    rw [rndint, operandCheck_numeric c d h (by decide)]
  have finite (h : x.Finite) : ∃ v, rndint c d x = withDenormal c (x.cls == .denormal && Config.frndintDe)
      { exc := peIf (decide ((roundToInt c.rc x.rat : ℚ) ≠ x.rat)), res := some v
        c1 := decide (|x.rat| < |(roundToInt c.rc x.rat : ℚ)|) } ∧ v.Encodes x.neg (roundToInt c.rc x.rat) := by
    obtain ⟨v, value, encodes⟩ := rndintCalc_finite c.rc h
    exact ⟨v, by rw [numeric (.inl h), value]; rfl, encodes⟩
  have looks : (x.cls == .denormal && Config.frndintDe) = decide (x.cls = .denormal ∧ Config.frndintDe = true) := by
    rw [Bool.decide_and, Bool.decide_eq_true]
    rfl
  rw [looks] at finite
  split_ifs with stopped fin looked inf
  · obtain ⟨denormal, de, dm⟩ := stopped
    obtain ⟨v, value, -⟩ := finite (.inr (.inl denormal))
    rw [value, withDenormal, decide_eq_true ⟨denormal, de⟩, dm]
    rfl
  · have dm : c.dm = true := by simpa [looked] using stopped
    obtain ⟨v, value, encodes⟩ := finite fin
    rw [value, withDenormal, decide_eq_true looked, dm, if_pos rfl, if_pos rfl]
    exact ⟨rfl, rfl, v, rfl, encodes⟩
  · obtain ⟨v, value, encodes⟩ := finite fin
    rw [value, withDenormal, decide_eq_false looked, if_neg nofun]
    exact ⟨BitVec.or_zero.symm, rfl, v, rfl, encodes⟩
  · rw [numeric (.inr inf), rndintCalc_fixed _ (.inr inf), inf]
    rfl
  · obtain ⟨r, check, gives⟩ := operandCheck_nan c d (a := x) (b := F80.one) fun h => h.1.elim fin inf
    rw [rndint, check]
    exact gives

end Sys2Proof.Machine
end

section
/-! FXTRACT, FSINCOS and FPTAN under any masks: the stack checks of an instruction of two results, the exponent and the significand
of a number, and the pair of results (46_fpu_model.md R512, R540, R546, 47_fpu_transfer_arith.md R602,
48_fpu_compare_trans_control.md R653, R654, O46). -/

namespace Sys2Proof.Machine

namespace Fpu

/-! ### ST(0) replaced and a register pushed -/

variable (f : Fpu)

theorem setSt_zero_isEmpty_seven (v : F80) : (f.setSt 0 v).isEmpty 7 = f.isEmpty 7 := by
  rw [isEmpty_eq, setSt_phEmpty, setSt_top, Function.update_of_ne fun e => absurd (add_left_cancel e) (by decide), isEmpty_eq]

/-- A push on what replaces ST(0) is the two results. -/
theorem ReplacedPushed.of_pushed {f g : Fpu} {u v : F80} (h : (f.setSt 0 u).Pushed g v) : f.ReplacedPushed g u v := by
  rwa [Pushed, stackIs_iff, setSt_phReg, setSt_phEmpty, setSt_top, top_zero, show (f.setSt 0 u).cw = f.cw from rfl,
    ← stackIs_iff] at h

theorem Flagged.of_same {f g h : Fpu} {x : BitVec 16} {b : Bool} (hg : f.Flagged g x b) (hx : h.excFlags = g.excFlags)
    (h1 : h.status.c1 = g.status.c1) : f.Flagged h x b := by
  obtain ⟨flags, c1⟩ := hg
  exact ⟨(g.flags_congr hx).trans flags, h1.trans c1⟩

/-- Two results with room for the second: both are written, and the flags and C1 stay. -/
theorem two_room (room : f.isEmpty 7 = true) (u v : F80) :
    f.ReplacedPushed (f.two u v) u v ∧ (f.two u v).excFlags = f.excFlags ∧ (f.two u v).status.c1 = f.status.c1 := by
  have raw : f.two u v = (f.setSt 0 u).pushRaw v := by
    rw [two, push, f.setSt_zero_isEmpty_seven, room]
    rfl
  rw [raw]
  exact ⟨.of_pushed ((f.setSt 0 u).pushRaw_pushed v), rfl, rfl⟩

/-- Two results on a full stack, masked: an overflow. -/
theorem two_full (full : f.isEmpty 7 = false) (im : f.im = true) (u v : F80) :
    f.two u v = (f.setSt 0 u).overflowed :=
  push_full (f := f.setSt 0 u) ((f.setSt_zero_isEmpty_seven u).trans full) im v

/-! ### The stack checks of two results (R546) -/

/-- There is no operand, or no room for the second result. -/
abbrev NoRoom : Prop := f.isEmpty 0 = true ∨ f.isEmpty 7 = false

/-- What the stack faults of an instruction of two results leave. -/
def PairFault (g : Fpu) : Prop :=
  if f.ctl.im then f.Flagged g 0x41 (!f.isEmpty 7) ∧ f.ReplacedPushed g F80.indefinite F80.indefinite
  else f.Flagged g 0x41 (!f.isEmpty 0) ∧ f.KeepsStack g

/-- A second stack fault sets nothing new but C1. -/
theorem overflowed_status_after_fault (b : Bool) (u : F80) :
    (((f.raiseExc (xIE ||| xSF)).setC1 b).setSt 0 u).overflowed.status = f.overflowed.status := by
  simp [overflowed, raiseExc, setC1, pushRaw, setSt, setEmpty, setTop, top]

theorem twoCheck_fault (h : f.NoRoom) : ∃ g, f.twoCheck = some g ∧ f.PairFault g := by
  obtain ⟨r, hr⟩ : ∃ r, r = (f.raiseExc (xIE ||| xSF)).setC1 (!f.isEmpty 0) := ⟨_, rfl⟩
  have fault : f.Flagged r 0x41 (!f.isEmpty 0) := hr ▸ f.raise_flagged (xIE ||| xSF) _
  have keeps : f.KeepsStack r := hr ▸ ⟨rfl, rfl, fun _ => ⟨rfl, rfl⟩⟩
  have cond : (f.isEmpty 0 || !f.isEmpty 7) = true := by rwa [Bool.or_eq_true, Bool.not_eq_true']
  have check : f.twoCheck = some (if f.im then r.two F80.indefinite F80.indefinite else r) := by
    rw [twoCheck, if_pos cond, hr]
    rfl
  have onto {g : Fpu} (pushed : r.ReplacedPushed g F80.indefinite F80.indefinite) :
      f.ReplacedPushed g F80.indefinite F80.indefinite := by
    subst hr
    exact pushed
  refine ⟨_, check, ?_⟩
  rw [PairFault, f.ctl_im]
  cases im : f.im with
  | false => exact ⟨fault, keeps⟩
  | true =>
    have rim : r.im = true := hr ▸ im
    cases room : f.isEmpty 7 with
    | true =>
      obtain ⟨stack, flags, c1⟩ := r.two_room (hr ▸ room) F80.indefinite F80.indefinite
      have empty : f.isEmpty 0 = true := h.resolve_right (by rw [room]; decide)
      rw [empty] at fault
      exact ⟨fault.of_same flags c1, onto stack⟩
    | false =>
      rw [if_pos rfl, r.two_full (hr ▸ room) rim]
      obtain ⟨-, flagged⟩ := f.overflowed_spec
      obtain ⟨pushed, -⟩ := (r.setSt 0 F80.indefinite).overflowed_spec
      exact ⟨flagged.of_status (by subst hr; exact f.overflowed_status_after_fault _ _), onto (.of_pushed pushed)⟩

theorem twoCheck_room (h : ¬ f.NoRoom) : f.twoCheck = none ∧ f.isEmpty 7 = true := by
  obtain ⟨present, room⟩ := not_or.mp h
  have cond : (f.isEmpty 0 || !f.isEmpty 7) = false := by simpa using h
  exact ⟨by rw [twoCheck, cond]; rfl, by simpa using room⟩

/-- What is written by the results of an instruction of two. -/
def writeTwo (a b : Option F80) : Fpu :=
  match a, b with
  | some u, some v => f.two u v
  | _, _ => f

/-- Two results deliver their flags, C1 of the second, and both values where both are there (R546). -/
theorem writeTwo_gives (room : f.isEmpty 7 = true) (a b : FRes F80) :
    f.GivesTwo (((f.raiseExc (a.exc ||| b.exc)).setC1 b.c1).writeTwo a.res b.res) a b := by
  have flagged := f.raise_flagged (a.exc ||| b.exc) b.c1
  rw [GivesTwo]
  cases ha : a.res with
  | none => exact ⟨flagged, rfl, rfl, fun _ => ⟨rfl, rfl⟩⟩
  | some u =>
    cases hb : b.res with
    | none => exact ⟨flagged, rfl, rfl, fun _ => ⟨rfl, rfl⟩⟩
    | some v =>
      obtain ⟨stack, flags, c1⟩ := ((f.raiseExc (a.exc ||| b.exc)).setC1 b.c1).two_room room u v
      exact ⟨flagged.of_same flags c1, stack⟩

theorem twoCheck_fdp {f g : Fpu} (h : f.twoCheck = some g) : g.fdp = f.fdp := by
  unfold twoCheck at h
  split at h
  · cases h; split <;> simp
  · cases h

@[simp] theorem fxtract_fdp : f.fxtract.fdp = f.fdp := by
  unfold fxtract
  split
  · exact twoCheck_fdp ‹_›
  · dsimp only; split <;> simp

@[simp] theorem sinCosTwo_fdp (d : Nat) (op : F80 → Calc) (push : F80 → FRes F80) :
    (f.sinCosTwo d op push).fdp = f.fdp := by
  unfold sinCosTwo
  split
  · next g hg => exact twoCheck_fdp (g := g) hg
  · dsimp only
    split
    · rfl
    · rw [trigCodes_fdp]; split <;> simp

section Congr

variable {f} {g h : Fpu} (e : h.data = g.data)
include e

theorem PairFault.congr (hg : f.PairFault g) : f.PairFault h := by
  unfold PairFault at hg ⊢
  split
  · next im =>
    obtain ⟨flagged, stack⟩ := (if_pos im).mp hg
    exact ⟨flagged.congr e, StackIs.congr e stack⟩
  · next im =>
    obtain ⟨flagged, stack⟩ := (if_neg im).mp hg
    exact ⟨flagged.congr e, StackIs.congr e stack⟩

theorem GivesTwo.congr {a b : FRes F80} (hg : f.GivesTwo g a b) : f.GivesTwo h a b := by
  obtain ⟨flagged, stack⟩ := hg
  refine ⟨flagged.congr e, ?_⟩
  split at stack
  · exact StackIs.congr e stack
  · exact StackIs.congr e stack

end Congr

end Fpu

/-! ### FSINCOS and FPTAN (R653, R654) -/

/-- What FSINCOS and FPTAN leave, of the operation of ST(0) and the result `second` to push. -/
def State.GivesPair (s : State) (op : F80 → Calc) (second : FRes F80) (g : Fpu) : Prop :=
  let f := s.fpu
  let x := f.st 0
  if f.NoRoom then f.PairFault g
  else if x.Finite ∧ 2 ^ 63 ≤ |x.rat| then f.Flagged g 0 f.status.c1 ∧ f.KeepsStack g ∧ g.codes.c2 = true
  else
    ∃ a b : FRes F80,
      (if x.Finite then a = arith1 f.ctl s.drawn 64 op x ∧ b = second
        else b = a ∧ if x.cls = .infinity then a = invalidGives f.ctl F80.indefinite else NanGives f.ctl x F80.one a) ∧
      f.GivesTwo g a b ∧ (x.Numeric → g.codes.c2 = false)

theorem pairWith_finite (a b : FRes F80) {x : F80} (h : x.Finite) : pairWith a b x = b := by
  rw [pairWith, F80.isInf_eq, F80.isNan]
  rcases h with e | e | e <;> simp [e]

theorem pairWith_not_finite (a b : FRes F80) {x : F80} (h : ¬ x.Finite) : pairWith a b x = a := by
  rw [pairWith, F80.isInf_eq, F80.isNan]
  rw [F80.Finite] at h
  cases e : x.cls <;> simp_all

/-- The first result of an operand that is no finite number: an invalid operation, or that of a NaN. -/
theorem arith1_not_finite (c : FCtl) (d p : Nat) {op : F80 → Calc} {x : F80} (h : ¬ x.Finite)
    (inf : x.cls = .infinity → op x = .invalid) : if x.cls = .infinity then
      arith1 c d p op x = invalidGives c F80.indefinite else NanGives c x F80.one (arith1 c d p op x) := by
  split
  · next e =>
    rw [arith1_numeric c d p op (.inr e), inf e]
    rfl
  · next e => exact arith1_nan c d p op fun numeric => numeric.elim h e

section SinCosTwo

variable {f : Fpu} {d : Nat} {op : F80 → Calc} {push : F80 → FRes F80}

theorem Fpu.sinCosTwo_fault {g : Fpu} (check : f.twoCheck = some g) : f.sinCosTwo d op push = g.drawCodes d := by
  rw [Fpu.sinCosTwo, check]

theorem Fpu.sinCosTwo_huge (check : f.twoCheck = none) (huge : (f.st 0).huge = true) :
    f.sinCosTwo d op push = f.setC2 true := by
  rw [Fpu.sinCosTwo, check]
  exact if_pos huge

theorem Fpu.sinCosTwo_eq (check : f.twoCheck = none) (huge : (f.st 0).huge = false) {a b : FRes F80}
    (ha : a = arith1 f.ctl d 64 op (f.st 0)) (hb : b = pairWith a (push (f.st 0)) (f.st 0)) :
    f.sinCosTwo d op push = (((f.raiseExc (a.exc ||| b.exc)).setC1 b.c1).writeTwo a.res b.res).trigCodes d (f.st 0) := by
  rw [Fpu.sinCosTwo, check, hb, ha]
  exact if_neg (Bool.eq_false_iff.mp huge)

end SinCosTwo

/-- FSINCOS and FPTAN: a stack fault, nothing but C2 beyond the range, or the two results. -/
theorem State.sinCosTwo_leaves {s : State} {i : Instr} {op : F80 → Calc} {push : F80 → FRes F80}
    (h : exec i s = finish (s.fpuReg i (s.fpu.sinCosTwo s.drawn op push)))
    (inf : ∀ x : F80, x.cls = .infinity → op x = .invalid) :
    s.FpuLeaves i none (s.GivesPair op (push (s.fpu.st 0))) := by
  refine State.fpuEnd_gives h (by simp) (by simp) fun e data codes => ?_
  rw [State.GivesPair]
  split
  · next noRoom =>
    obtain ⟨g, check, fault⟩ := s.fpu.twoCheck_fault noRoom
    rw [Fpu.sinCosTwo_fault check] at data
    exact fault.congr (data.trans (Fpu.data_drawCodes _ _))
  next noFault =>
  obtain ⟨check, room⟩ := s.fpu.twoCheck_room noFault
  split
  · next huge =>
    have flagged : s.fpu.Flagged (s.fpu.setC2 true) 0 s.fpu.status.c1 := s.fpu.flagged_zero rfl rfl
    have keeps : s.fpu.KeepsStack (s.fpu.setC2 true) := ⟨rfl, rfl, fun _ => ⟨rfl, rfl⟩⟩
    rw [Fpu.sinCosTwo_huge check ((F80.huge_iff _).mpr huge)] at data codes
    exact ⟨flagged.congr data, Fpu.StackIs.congr data keeps, congrArg CmpCodes.c2 codes⟩
  · next small =>
    obtain ⟨a, ha⟩ : ∃ a, a = arith1 s.fpu.ctl s.drawn 64 op (s.fpu.st 0) := ⟨_, rfl⟩
    obtain ⟨b, hb⟩ : ∃ b, b = pairWith a (push (s.fpu.st 0)) (s.fpu.st 0) := ⟨_, rfl⟩
    rw [Fpu.sinCosTwo_eq check (Bool.eq_false_iff.mpr (mt (F80.huge_iff _).mp small)) ha hb] at data codes
    refine ⟨a, b, ?_, Fpu.GivesTwo.congr (data.trans (Fpu.data_trigCodes _ _ _)) (s.fpu.writeTwo_gives room a b), fun numeric =>
      (congrArg CmpCodes.c2 codes).trans (Fpu.trigCodes_c2 _ _ numeric)⟩
    split
    · next fin => exact ⟨ha, hb.trans (pairWith_finite _ _ fin)⟩
    · next fin => exact ⟨hb.trans (pairWith_not_finite _ _ fin), ha ▸ arith1_not_finite _ _ _ fin (inf _)⟩

end Sys2Proof.Machine
end

section
/-! FXTRACT under any masks: the exponent and the significand of a number (47_fpu_transfer_arith.md R602, O46). -/

namespace Sys2Proof.Machine

/-! ### Unmasked exceptions (46_fpu_model.md R520) -/

/-- A single exception is unmasked where its mask bit is clear. -/
theorem Fpu.unmasked_twoPow (f : Fpu) {k : Nat} (hk : k < 6) :
    f.Unmasked (BitVec.twoPow 16 k) ↔ f.cw.getLsbD k = false := by
  rw [Fpu.Unmasked, BitVec.twoPow_and, BitVec.getLsbD_not]
  cases hb : f.cw.getLsbD k
  · interval_cases k <;> decide
  · simp

theorem Fpu.ctl_mask (f : Fpu) {k : Nat} (hk : k < 6) : f.ctl.mask.getLsbD k = f.cw.getLsbD k := by
  rw [Fpu.ctl, BitVec.getLsbD_extractLsb']
  simp [hk]

theorem Fpu.unmasked_ie (f : Fpu) : f.Unmasked xIE ↔ f.ctl.im = false := by
  rw [FCtl.im, f.ctl_mask (by decide)]
  exact f.unmasked_twoPow (k := 0) (by decide)

theorem Fpu.unmasked_de (f : Fpu) : f.Unmasked xDE ↔ f.ctl.dm = false := by
  rw [FCtl.dm, f.ctl_mask (by decide)]
  exact f.unmasked_twoPow (k := 1) (by decide)

theorem Fpu.unmasked_ze (f : Fpu) : f.Unmasked xZE ↔ f.ctl.zm = false := by
  rw [FCtl.zm, f.ctl_mask (by decide)]
  exact f.unmasked_twoPow (k := 2) (by decide)

theorem Fpu.not_unmasked_zero (f : Fpu) : ¬ f.Unmasked 0 := by
  simp [Fpu.Unmasked]

/-! ### The exponent and the significand (R602) -/

/-- An integer of at most 64 bits, in the format. -/
theorem intToF80_encodes {i : Int} (h : i.natAbs ≤ 2 ^ 64) : (intToF80 i).Encodes (decide (i < 0)) i := by
  have small (hk : i.natAbs ≠ 0) : (Nat.log2 i.natAbs : Int) + 0 < 16384 := by
    have := (Nat.log2_lt hk).mpr (h.trans_lt (Nat.pow_lt_pow_succ one_lt_two))
    omega
  obtain ⟨v, hv⟩ := encodeReg_isSome (decide (i < 0)) small (.inl (by norm_num : (-16445 : Int) ≤ 0))
  have encodes := encodeReg_encodes (two_pow_dvd_of_le h) hv
  rw [signed_natAbs, zpow_zero, mul_one] at encodes
  rw [intToF80, hv]
  exact encodes

namespace F80

variable {x : F80}

/-- The exponent of the leading bit of a nonzero number. -/
theorem FiniteNonzero.top_bounds (h : x.FiniteNonzero) : -16446 < x.val.top ∧ x.val.top < 16384 := by
  have lead := (Nat.log2_lt h.sig_ne).mpr x.sig_lt
  have exp := ((F80.finite_iff x).mp h.finite).1
  rw [ExactVal.top, F80.val]
  dsimp only
  split <;> omega

theorem FiniteNonzero.exponent_encodes (h : x.FiniteNonzero) :
    x.exponent.Encodes (decide (Int.log 2 |x.rat| < 0)) (Int.log 2 |x.rat|) := by
  obtain ⟨lo, hi⟩ := h.top_bounds
  rw [F80.log_abs_rat h.rat_ne]
  exact intToF80_encodes (by omega)

/-- The significand is the number with its leading bit at exponent 0. -/
theorem FiniteNonzero.significand_spec (h : x.FiniteNonzero) :
    x.significand.Finite ∧ x.significand.neg = x.neg ∧ 1 ≤ |x.significand.rat| ∧ |x.significand.rat| < 2 ∧
      x.rat = x.significand.rat * 2 ^ Int.log 2 |x.rat| := by
  have lead := (Nat.log2_lt h.sig_ne).mpr x.sig_lt
  obtain ⟨value, lo, hi⟩ := normalized_spec h.sig_ne (two_pow_dvd_of_le x.sig_lt.le)
  have shifted : x.significand = F80.mk x.neg 0x3FFF (normalized x.sig) := by
    rw [F80.significand, normalized, if_neg (by omega)]
  obtain ⟨fin, rat, neg, -⟩ := F80.mk_normal_encodes x.neg (exp := 0x3FFF) (by decide) (by decide) lo hi
  rw [← shifted] at fin rat neg
  have lo : (2 : ℚ) ^ 63 ≤ normalized x.sig := by exact_mod_cast lo
  have hi : (normalized x.sig : ℚ) < 2 ^ 64 := by exact_mod_cast hi
  have scale : (2 : ℚ) ^ (((0x3FFF : Nat) : Int) - 16446) = 1 / 2 ^ 63 := by norm_num
  rw [scale, mul_one_div] at rat
  have magnitude : |x.significand.rat| = normalized x.sig / 2 ^ 63 := by
    rw [rat, abs_signed, abs_of_nonneg (by positivity)]
  refine ⟨fin, neg, ?_, ?_, ?_⟩
  · rw [magnitude]
    linarith
  · rw [magnitude]
    linarith
  · have split : (2 : ℚ) ^ ((Nat.log2 x.sig : Int) - 63) * 2 ^ x.val.exp = 2 ^ x.val.top / 2 ^ 63 := by
      rw [ExactVal.top, zpow_sub₀ two_ne_zero, zpow_add₀ two_ne_zero, div_mul_eq_mul_div]
      norm_cast
    rw [F80.log_abs_rat h.rat_ne, rat, x.rat_eq, ← signed_mul_right, ← value, mul_assoc, split, mul_div_assoc', div_mul_eq_mul_div]

end F80

/-! ### FXTRACT (R602) -/

/-- The flags, the exponent and the significand that FXTRACT gives, if no exception stops it. -/
def F80.Extracts (x : F80) (exc : BitVec 16) (e m : F80) : Prop :=
  match x.cls with
  | .normal | .denormal =>
    let k := Int.log 2 |x.rat|
    exc = (if x.cls = .denormal then xDE else 0) ∧ e.Encodes (decide (k < 0)) k ∧ m.Finite ∧ m.neg = x.neg ∧
      1 ≤ |m.rat| ∧ |m.rat| < 2 ∧ x.rat = m.rat * 2 ^ k
  | .zero => exc = xZE ∧ e = F80.inf true ∧ m = x
  | .infinity => exc = 0 ∧ e = F80.inf false ∧ m = x
  | .qnan => exc = 0 ∧ e = x ∧ m = x
  | .snan => exc = xIE ∧ e = x.quiet ∧ m = x.quiet
  | .unsupported => exc = xIE ∧ e = F80.indefinite ∧ m = F80.indefinite

/-- The results are there unless an exception is unmasked. -/
theorem Fpu.extract_spec (f : Fpu) (x : F80) : ∃ exc e m,
    extract f.ctl x = (exc, if f.Unmasked exc then none else some (e, m)) ∧ x.Extracts exc e m := by
  have masked {exc : BitVec 16} {b : Bool} (h : f.Unmasked exc ↔ b = false) (r : F80 × F80) :
      (if b then some r else none) = if f.Unmasked exc then none else some r := by
    cases b <;> simp [h]
  unfold extract F80.Extracts
  cases cls : x.cls with
  | unsupported => exact ⟨xIE, _, _, congrArg (Prod.mk _) (masked f.unmasked_ie _), rfl, rfl, rfl⟩
  | snan => exact ⟨xIE, _, _, congrArg (Prod.mk _) (masked f.unmasked_ie _), rfl, rfl, rfl⟩
  | qnan => exact ⟨0, x, x, by rw [if_neg f.not_unmasked_zero], rfl, rfl, rfl⟩
  | infinity => exact ⟨0, F80.inf false, x, by rw [if_neg f.not_unmasked_zero], rfl, rfl, rfl⟩
  | zero => exact ⟨xZE, _, _, congrArg (Prod.mk _) (masked f.unmasked_ze _), rfl, rfl, rfl⟩
  | denormal =>
    have h : x.FiniteNonzero := .inl cls
    exact ⟨xDE, _, _, congrArg (Prod.mk _) (masked f.unmasked_de _), rfl, h.exponent_encodes, h.significand_spec⟩
  | normal =>
    have h : x.FiniteNonzero := .inr cls
    exact ⟨0, x.exponent, x.significand, by rw [if_neg f.not_unmasked_zero], rfl, h.exponent_encodes, h.significand_spec⟩

/-- What FXTRACT leaves. -/
def Fpu.GivesExtract (f g : Fpu) : Prop :=
  if f.NoRoom then f.PairFault g
  else
    ∃ exc e m, f.Flagged g exc false ∧ (if f.Unmasked exc then f.KeepsStack g else f.ReplacedPushed g e m) ∧
      (f.st 0).Extracts exc e m

theorem State.fxtract_leaves (s : State) (p : Prefixes) : s.FpuLeaves (.fxtract p) none s.fpu.GivesExtract := by
  refine State.fpuEnd_gives (g := s.fpu.fxtract.drawCodes s.drawn) rfl (by simp) (by simp) fun u data _ => ?_
  rw [Fpu.data_drawCodes] at data
  unfold Fpu.GivesExtract
  split
  · next noRoom =>
    obtain ⟨g, check, fault⟩ := s.fpu.twoCheck_fault noRoom
    rw [Fpu.fxtract, check] at data
    exact fault.congr data
  · next noFault =>
    obtain ⟨check, room⟩ := s.fpu.twoCheck_room noFault
    obtain ⟨exc, e, m, value, spec⟩ := s.fpu.extract_spec (s.fpu.st 0)
    have flagged := s.fpu.raise_flagged exc false
    rw [Fpu.fxtract, check] at data
    dsimp only at data
    rw [value] at data
    refine ⟨exc, e, m, ?_⟩
    by_cases stopped : s.fpu.Unmasked exc
    · have keeps : s.fpu.KeepsStack ((s.fpu.raiseExc exc).setC1 false) := ⟨rfl, rfl, fun _ => ⟨rfl, rfl⟩⟩
      rw [if_pos stopped] at data ⊢
      exact ⟨flagged.congr data, Fpu.StackIs.congr data keeps, spec⟩
    · obtain ⟨stack, flags, c1⟩ := ((s.fpu.raiseExc exc).setC1 false).two_room room e m
      rw [if_neg stopped] at data ⊢
      exact ⟨(flagged.of_same flags c1).congr data, Fpu.StackIs.congr data stack, spec⟩

end Sys2Proof.Machine
end

section
/-! The delivery of a value of 64 bits (46_fpu_model.md R509): nothing is rounded, and only an unmasked underflow changes it. -/

namespace Sys2Proof.Machine

/-- A multiple of 2^q is rounded at q to itself. -/
theorem roundAt_exact (rc : Rc) (neg : Bool) {n j : Nat} {e q : Int} (h : (n : ℚ) * 2 ^ e = j * 2 ^ q) :
    roundAt rc neg ⟨n, e, false⟩ q = ⟨j, q, false, false⟩ := by
  have is : (⟨n, e, false⟩ : Approx).Is (n * 2 ^ e) := rfl
  obtain ⟨d, at_q, way, small, inexact, above, -⟩ := roundAt_steps rc neg (q := q) is nofun
  have pos : (0 : ℚ) < 2 ^ q := by positivity
  generalize roundAt rc neg ⟨n, e, false⟩ q = r at *
  obtain ⟨k, q', i, a⟩ := r
  rw [h, ← sub_mul, mul_left_inj' pos.ne'] at way
  dsimp only at at_q way inexact above
  have same : (k : Int) = j := by
    have : |((k : Int) - j : Int)| < 1 := by
      rw [← way] at small
      exact_mod_cast small
    have := Int.abs_lt_one_iff.mp this
    omega
  have zero : d = 0 := by rw [← way, sub_eq_zero]; exact_mod_cast same
  subst at_q
  rw [zero] at inexact above
  simp only [Rounded.mk.injEq, true_and]
  exact ⟨by exact_mod_cast same, by simpa using inexact, by simpa using above⟩

section Exact

variable {n : Nat} {e : Int} (hn : n ≠ 0) (hd : 2 ^ (Nat.log2 n - 63) ∣ n)
include hn hd

/-- A number of 64 bits is rounded at 64 bits to its normalized form. -/
theorem roundU_exact (rc : Rc) (neg : Bool) :
    roundU rc neg 64 ⟨n, e, false⟩ = ⟨normalized n, Nat.log2 n + e - 63, false, false⟩ := by
  obtain ⟨value, -, -⟩ := normalized_spec hn hd
  have exp : (⟨n, e, false⟩ : Approx).top - (64 : Nat) + 1 = Nat.log2 n + e - 63 := by
    rw [Approx.top]
    push_cast
    ring
  rw [roundU, exp]
  refine roundAt_exact rc neg ?_
  nth_rw 1 [← value]
  rw [mul_assoc, ← zpow_add₀ two_ne_zero]
  congr 2
  ring

theorem roundU_exact_top (rc : Rc) (neg : Bool) : (roundU rc neg 64 ⟨n, e, false⟩).top = Nat.log2 n + e := by
  obtain ⟨-, lo, hi⟩ := normalized_spec hn hd
  have log : Nat.log2 (normalized n) = 63 := (Nat.log2_eq_iff (by omega)).mpr ⟨lo, hi⟩
  rw [roundU_exact hn hd, Rounded.top]
  dsimp only
  omega

/-- Scaled up by 2^24576 a small number is in the range of the format. -/
theorem normalized_adjusted_encodes (d : Nat) (neg : Bool) (he : -16445 ≤ e) (low : Nat.log2 n + e < -16382) :
    (encodeOr d neg (normalized n) (Nat.log2 n + e - 63 + 24576)).Encodes neg (signed neg (n * 2 ^ e) * 2 ^ 24576) := by
  obtain ⟨value, lo, hi⟩ := normalized_spec hn hd
  have log : Nat.log2 (normalized n) = 63 := (Nat.log2_eq_iff (by omega)).mpr ⟨lo, hi⟩
  have encodes := encodeOr_encodes d neg hi.le (q := Nat.log2 n + e - 63 + 24576) (fun _ => by omega) (.inl (by omega))
  have scaled : (normalized n : ℚ) * 2 ^ ((Nat.log2 n : Int) + e - 63 + 24576) = n * 2 ^ e * 2 ^ 24576 := by
    rw [show (Nat.log2 n : Int) + e - 63 + 24576 = Nat.log2 n - 63 + e + (24576 : Nat) by push_cast; ring,
      zpow_add₀ two_ne_zero, zpow_add₀ two_ne_zero, ← mul_assoc, ← mul_assoc, value, zpow_natCast]
  rwa [scaled, signed_mul_right] at encodes

/-- With a lower exponent limit too, nothing is discarded. -/
theorem roundE_exact (rc : Rc) (neg : Bool) (he : -16445 ≤ e) :
    ∃ j q, roundE rc neg 64 (-16382) ⟨n, e, false⟩ = ⟨j, q, false, false⟩ := by
  rw [roundE]
  rcases le_total (-16382 - (64 : Nat) + 1 : Int) ((⟨n, e, false⟩ : Approx).top - (64 : Nat) + 1) with h | h
  · rw [max_eq_left h]
    exact ⟨_, _, roundU_exact hn hd rc neg⟩
  · rw [max_eq_right h]
    refine ⟨_, _, roundAt_exact rc neg (j := n * 2 ^ (e + 16445).toNat) ?_⟩
    rw [Nat.cast_mul, Nat.cast_pow, Nat.cast_ofNat, mul_assoc, ← zpow_natCast, ← zpow_add₀ two_ne_zero]
    congr 2
    push_cast
    omega

/-- What that gives is the number itself. -/
theorem roundE_exact_encodes (c : FCtl) (d : Nat) (neg : Bool) (he : -16445 ≤ e) (hi : Nat.log2 n + e < 16384) :
    ∃ j q, roundE c.rc neg 64 (-16382) ⟨n, e, false⟩ = ⟨j, q, false, false⟩ ∧
      (encodeOr d neg j q).Encodes neg (signed neg (n * 2 ^ e)) := by
  have pos : (0 : ℚ) < n * 2 ^ e := by positivity
  have is : (⟨n, e, false⟩ : Approx).Is (n * 2 ^ e) := rfl
  have encodes := roundE_encodes c d neg is pos (by decide) le_rfl (by rw [roundU_exact_top hn hd]; exact hi)
  have inexact := (roundE_rounds c.rc neg is pos (by decide) le_rfl (-16382)).inexact
  obtain ⟨j, q, rounded⟩ := roundE_exact hn hd c.rc neg he
  rw [rounded] at encodes inexact
  have value := of_not_not (of_decide_eq_false inexact.symm)
  exact ⟨j, q, rounded, value ▸ encodes⟩

/-- The delivery of a number of 64 bits. -/
theorem deliverReg_exact (c : FCtl) (d : Nat) (neg : Bool) (he : -16445 ≤ e) (hi : Nat.log2 n + e < 16384) :
    let x := signed neg (n * 2 ^ e)
    let tiny : Prop := |x| < 1 / 2 ^ 16382 ∧ c.um = false
    ∃ v, deliverReg c d 64 neg ⟨n, e, false⟩ =
        { exc := if tiny then xUE else 0, res := some v, c1 := decide tiny } ∧
      v.Encodes neg (if tiny then x * 2 ^ 24576 else x) := by
  intro x tiny
  have low : |x| < 1 / 2 ^ 16382 ↔ Nat.log2 n + e < -16382 := tiny_iff neg (r := ⟨n, e, false, false⟩) hn
  obtain ⟨j, q, rounded, encodes⟩ := roundE_exact_encodes hn hd c d neg he hi
  rw [deliverReg, rounded, roundU_exact_top hn hd, roundU_exact hn hd]
  dsimp only
  rw [if_neg (by omega)]
  by_cases ht : tiny
  · have ⟨small, um⟩ := ht
    rw [if_pos ht, if_pos ht, decide_eq_true ht, if_pos (low.mp small), um]
    exact ⟨_, rfl, normalized_adjusted_encodes hn hd d neg he (low.mp small)⟩
  · have masked (small : Nat.log2 n + e < -16382) : c.um = true := by
      rw [← Bool.not_eq_false]
      exact fun um => ht ⟨low.mpr small, um⟩
    rw [if_neg ht, if_neg ht, decide_eq_false ht]
    refine ⟨_, ?_, encodes⟩
    split
    · next small => rw [masked small]; rfl
    · rfl

end Exact

end Sys2Proof.Machine
end

section
/-! Partial remainders as integers (47_fpu_transfer_arith.md R603, R604): both operands over one power of two, the quotient, and the
remainder of 64 bits, which is delivered as it is. -/

namespace Sys2Proof.Machine

/-! ### Quotients -/

/-- What is left by the quotient that is cut off. -/
theorem sub_mul_div (n m : Nat) : (n : Int) - m * (n / m : Nat) = (n % m : Nat) := by
  have := congrArg (Nat.cast (R := Int)) (Nat.div_add_mod n m)
  push_cast at this ⊢
  linarith

/-- The quotient to nearest is at most one half away, and even at one half. -/
theorem nearestQuot_spec (n : Nat) {m : Nat} (hm : 0 < m) :
    2 * ((n : Int) - m * nearestQuot n m).natAbs ≤ m ∧
      (2 * ((n : Int) - m * nearestQuot n m).natAbs = m → nearestQuot n m % 2 = 0) ∧
      ((n : Int) - m * nearestQuot n m).natAbs ≤ n := by
  have lt := Nat.mod_lt n hm
  have le := Nat.mod_le n m
  have lower := sub_mul_div n m
  have upper : (n : Int) - m * (n / m + 1 : Nat) = (n % m : Nat) - m := by
    push_cast at lower ⊢
    linarith
  rw [nearestQuot]
  rcases lt_trichotomy (2 * (n % m)) m with h | h | h
  · rw [Nat.compare_eq_lt.mpr h]
    dsimp only
    rw [lower]
    omega
  · rw [Nat.compare_eq_eq.mpr h, Nat.testBit_zero]
    dsimp only
    by_cases odd : n / m % 2 = 1
    · rw [if_pos (decide_eq_true odd), upper]
      omega
    · rw [if_neg (by simp [odd]), lower]
      omega
  · rw [Nat.compare_eq_gt.mpr h]
    dsimp only
    rw [upper]
    omega

theorem truncate_signed (neg : Bool) {z : ℚ} (h : 0 ≤ z) : truncate (signed neg z) = if neg then -⌊z⌋ else ⌊z⌋ := by
  rw [truncate_eq, abs_signed, abs_of_nonneg h]
  rcases h.eq_or_lt with rfl | pos
  · simp
  · cases neg <;> simp [signed, pos, pos.le]

/-- The quotient with its sign. -/
def signedQuot (neg : Bool) (q : Nat) : Int := if neg then -(q : Int) else q

theorem signedQuot_natAbs (neg : Bool) (q : Nat) : (signedQuot neg q).natAbs = q := by
  cases neg <;> simp [signedQuot]

theorem signedQuot_cast (neg : Bool) (q : Nat) : (signedQuot neg q : ℚ) = signed neg q := by
  cases neg <;> simp [signedQuot, signed]

theorem truncate_div (neg : Bool) (n m : Nat) : truncate (signed neg (n / m)) = signedQuot neg (n / m) := by
  rw [truncate_signed neg (by positivity), signedQuot, Rat.floor_natCast_div_natCast, Int.natCast_div]

/-! ### Both operands over one power of two -/

namespace F80

/-- The magnitude of a finite value in multiples of 2^e, for e at or below its exponent. -/
def multiple (x : F80) (e : Int) : Nat := x.sig * 2 ^ (x.val.exp - e).toNat

theorem rat_multiple (x : F80) {e : Int} (h : e ≤ x.val.exp) : x.rat = signed x.neg (x.multiple e * 2 ^ e) := by
  have value : (x.val.scaled e : ℚ) = signed x.neg (x.multiple e) := by
    rw [ExactVal.scaled, Int.cast_mul, Int.cast_natCast, ← signed_eq_mul, Int.cast_ite, Int.cast_neg, Int.cast_one]
    rfl
  rw [← x.scaled_mul h, value, signed_mul_right]

theorem abs_rat_multiple (x : F80) {e : Int} (h : e ≤ x.val.exp) : |x.rat| = x.multiple e * 2 ^ e := by
  rw [x.rat_multiple h, abs_signed, abs_of_nonneg (by positivity)]

theorem multiple_self (x : F80) : x.multiple x.val.exp = x.sig := by simp [multiple]

theorem FiniteNonzero.multiple_pos {x : F80} (h : x.FiniteNonzero) (e : Int) : 0 < x.multiple e := by
  have := h.sig_ne
  rw [multiple]
  positivity

theorem val_exp_ge (x : F80) : -16445 ≤ x.val.exp := by
  rw [val]
  dsimp only
  split <;> omega

variable {x y : F80} {e : Int} (hx : e ≤ x.val.exp) (hy : e ≤ y.val.exp)
include hx hy

/-- What a quotient leaves, over the power of two. -/
theorem rat_sub_mul (q : Nat) : x.rat - y.rat * signedQuot (x.neg != y.neg) q =
    signed x.neg (((x.multiple e : Int) - y.multiple e * q : Int) * 2 ^ e) := by
  rw [signedQuot_cast, x.rat_multiple hx, y.rat_multiple hy]
  push_cast
  cases x.neg <;> cases y.neg <;> simp [signed] <;> ring

theorem rat_div_rat : x.rat / y.rat = signed (x.neg != y.neg) (x.multiple e / y.multiple e) := by
  rw [x.rat_multiple hx, y.rat_multiple hy, signed_div, mul_div_mul_right _ _ (by positivity)]

end F80

/-! ### A remainder of 64 bits -/

/-- A number below 2^64 times a power of two that divides it has 64 bits. -/
theorem two_pow_dvd_of_lt {k g : Nat} (hg : 2 ^ g ∣ k) (h : k < 2 ^ (64 + g)) : 2 ^ (Nat.log2 k - 63) ∣ k := by
  rcases Nat.eq_zero_or_pos k with rfl | pos
  · exact dvd_zero _
  · have := (Nat.log2_lt pos.ne').mpr h
    exact (Nat.pow_dvd_pow 2 (by omega)).trans hg

/-- A remainder that is no more than the dividend is in the range of the format. -/
theorem log2_lt_of_le_multiple {x : F80} (h : x.Finite) {e : Int} (he : e ≤ x.val.exp) {k : Nat} (hk : k ≠ 0)
    (le : k ≤ x.multiple e) : Nat.log2 k + e < 16384 := by
  rw [← not_le, ← two_zpow_le_dyadic hk, not_le]
  calc (k : ℚ) * 2 ^ e ≤ x.multiple e * 2 ^ e := by gcongr
    _ = |x.rat| := (x.abs_rat_multiple he).symm
    _ < 2 ^ (16384 : Int) := h.abs_rat_lt

theorem withDenormal_masked {c : FCtl} {den : Bool} (h : den = true → c.dm = true) (r : FRes F80) :
    withDenormal c den r = { r with exc := r.exc ||| if den then xDE else 0 } := by
  cases den with
  | false => simp [withDenormal]
  | true => rw [withDenormal, if_pos rfl, h rfl, if_pos rfl, if_pos rfl]

theorem signed_signed (a b : Bool) (y : ℚ) : signed a (signed b y) = signed (a != b) y := by
  cases a <;> cases b <;> simp [signed]

/-- The end of a remainder that has 64 bits, in the range of the format. -/
theorem remCalc_finish (c : FCtl) (d : Nat) {den : Bool} (masked : den = true → c.dm = true) (neg : Bool) {t e : Int}
    (hd : 2 ^ (Nat.log2 t.natAbs - 63) ∣ t.natAbs) (he : -16445 ≤ e) (hi : t ≠ 0 → Nat.log2 t.natAbs + e < 16384) :
    let rest := signed neg (t * 2 ^ e)
    let tiny : Prop := rest ≠ 0 ∧ |rest| < 1 / 2 ^ 16382 ∧ c.um = false
    ∃ v, (remCalc neg t e).finish c d 64 den =
        { exc := (if tiny then xUE else 0) ||| (if den then xDE else 0), res := some v, c1 := decide tiny } ∧
      v.Encodes (if rest = 0 then neg else decide (rest < 0)) (if tiny then rest * 2 ^ 24576 else rest) := by
  intro rest tiny
  rcases eq_or_ne t 0 with rfl | ht
  · have zero : rest = 0 := by simp [rest]
    have hn : ¬ tiny := fun h => h.1 zero
    rw [if_pos zero, if_neg hn, if_neg hn, decide_eq_false hn, zero]
    exact ⟨_, withDenormal_masked masked _, F80.zero_encodes neg⟩
  · have value : signed (neg != decide (t < 0)) (t.natAbs * 2 ^ e) = rest := by rw [← signed_signed, signed_natAbs]
    have pos : (0 : ℚ) < t.natAbs * 2 ^ e := by
      have := Int.natAbs_pos.mpr ht
      positivity
    have nonzero : rest ≠ 0 := value ▸ signed_ne_zero pos
    have sign := signed_lt_zero (neg := neg != decide (t < 0)) pos
    obtain ⟨v, delivered, encodes⟩ := deliverReg_exact (Int.natAbs_ne_zero.mpr ht) hd c d (neg != decide (t < 0)) he (hi ht)
    rw [value] at sign delivered encodes
    have small : tiny ↔ |rest| < 1 / 2 ^ 16382 ∧ c.um = false := and_iff_right nonzero
    simp only [if_neg nonzero, ← sign, small]
    refine ⟨v, ?_, encodes⟩
    rw [remCalc, if_neg ht, Calc.finish, delivered, withDenormal_masked masked]

end Sys2Proof.Machine
end

section
/-! FPREM and FPREM1 under any masks (47_fpu_transfer_arith.md R603, R604, O46): the quotient, the codes and the remainder of
two numbers. -/

namespace Sys2Proof.Machine

/-- A quotient `k` of a partial remainder of x by y, with its codes: complete where the exponents are less than 64 apart, to nearest
or cut off, and else a multiple of a power of two. -/
def F80.Reduces (near : Bool) (x y : F80) (k : Int) (codes : RemCodes) : Prop :=
  let rest : ℚ := x.rat - y.rat * k
  let apart : Int := Int.log 2 |x.rat| - Int.log 2 |y.rat|
  if apart < 64 then
    (if near then 2 * |rest| ≤ |y.rat| ∧ (2 * |rest| = |y.rat| → k % 2 = 0) else k = truncate (x.rat / y.rat)) ∧
      codes = RemCodes.ofQuot k.natAbs
  else
    codes.c2 = true ∧ ∃ n : Nat, 32 ≤ n ∧ n ≤ 63 ∧
      (k : ℚ) = truncate (x.rat / y.rat / 2 ^ (apart - n)) * 2 ^ (apart - n)

/-- The remainder t * 2^e is delivered as it is. -/
def FitsRemainder (t e : Int) : Prop :=
  2 ^ (Nat.log2 t.natAbs - 63) ∣ t.natAbs ∧ -16445 ≤ e ∧ (t ≠ 0 → Nat.log2 t.natAbs + e < 16384)

/-- A remainder that is no more than either operand. -/
theorem fitsRemainder_of_le {x y : F80} (hx : x.Finite) {t : Int} (hn : t.natAbs ≤ x.multiple (min x.val.exp y.val.exp))
    (hm : t.natAbs ≤ y.multiple (min x.val.exp y.val.exp)) : FitsRemainder t (min x.val.exp y.val.exp) := by
  refine ⟨two_pow_dvd_of_le ?_, le_min x.val_exp_ge y.val_exp_ge, fun ht =>
    log2_lt_of_le_multiple hx (min_le_left _ _) (Int.natAbs_ne_zero.mpr ht) hn⟩
  rcases le_total x.val.exp y.val.exp with h | h
  · rw [min_eq_left h, x.multiple_self] at hn
    exact hn.trans x.sig_lt.le
  · rw [min_eq_right h, y.multiple_self] at hm
    exact hm.trans y.sig_lt.le

/-- The quotient of a complete reduction. -/
def wholeQuot (near : Bool) (n m : Nat) : Nat := if near then nearestQuot n m else n / m

theorem wholeQuot_le (near : Bool) (n : Nat) {m : Nat} (hm : 0 < m) :
    ((n : Int) - m * wholeQuot near n m).natAbs ≤ n ∧ ((n : Int) - m * wholeQuot near n m).natAbs ≤ m := by
  cases near with
  | true =>
    obtain ⟨half, -, le⟩ := nearestQuot_spec n hm
    exact ⟨le, show ((n : Int) - m * nearestQuot n m).natAbs ≤ m by omega⟩
  | false =>
    rw [wholeQuot, if_neg nofun, sub_mul_div]
    exact ⟨Nat.mod_le n m, (Nat.mod_lt n hm).le⟩

theorem signedQuot_even (neg : Bool) {q : Nat} (h : q % 2 = 0) : signedQuot neg q % 2 = 0 := by
  unfold signedQuot
  split <;> omega

theorem two_mul_abs_signed (neg : Bool) (t e : Int) : 2 * |signed neg (t * 2 ^ e)| = (2 * t.natAbs : Nat) * 2 ^ e := by
  rw [abs_signed, abs_mul, abs_of_pos (by positivity : (0 : ℚ) < 2 ^ e)]
  push_cast
  rw [Nat.cast_natAbs, Int.cast_abs, mul_assoc]

theorem signed_div_right (a : Bool) (x y : ℚ) : signed a (x / y) = signed a x / y := by
  rw [div_eq_mul_inv, signed_mul_right, ← div_eq_mul_inv]

section Reduce

variable {x y : F80} (hx : x.FiniteNonzero) (hy : y.FiniteNonzero)
include hx hy

/-- The remainder by a multiple of the divisor less than 64 exponents below the dividend has 64 bits: the powers of two that
both share are no bits of it. -/
theorem two_pow_dvd_mod {j : Nat} (far : 64 ≤ x.val.top - y.val.top) :
    let e := min x.val.exp y.val.exp
    let r := x.multiple e % (y.multiple e * 2 ^ j)
    2 ^ (Nat.log2 r - 63) ∣ r := by
  have lead := (Nat.log2_lt hx.sig_ne).mpr x.sig_lt
  have above : y.val.exp ≤ x.val.exp := by
    have tx : x.val.top = Nat.log2 x.sig + x.val.exp := rfl
    have ty : y.val.top = Nat.log2 y.sig + y.val.exp := rfl
    omega
  intro e r
  have value : r = x.sig * 2 ^ (x.val.exp - y.val.exp).toNat % (y.sig * 2 ^ j) := by
    simp only [r, e, min_eq_right above, y.multiple_self]
    rfl
  rw [value]
  generalize (x.val.exp - y.val.exp).toNat = i
  have divides (g : Nat) (hi : g ≤ i) (hj : g ≤ j) : 2 ^ g ∣ x.sig * 2 ^ i % (y.sig * 2 ^ j) :=
    (Nat.dvd_mod_iff ((Nat.pow_dvd_pow 2 hj).mul_left _)).mpr ((Nat.pow_dvd_pow 2 hi).mul_left _)
  rcases le_total i j with h | h
  · refine two_pow_dvd_of_lt (divides i le_rfl h) ((Nat.mod_le _ _).trans_lt ?_)
    rw [pow_add]
    exact Nat.mul_lt_mul_of_pos_right x.sig_lt (Nat.two_pow_pos i)
  · have pos : 0 < y.sig * 2 ^ j := Nat.mul_pos (Nat.pos_of_ne_zero hy.sig_ne) (Nat.two_pow_pos j)
    refine two_pow_dvd_of_lt (divides j h le_rfl) ((Nat.mod_lt _ pos).trans ?_)
    rw [pow_add]
    exact Nat.mul_lt_mul_of_pos_right y.sig_lt (Nat.two_pow_pos j)

/-- What a partial remainder of two numbers comes to. -/
def F80.RemFinite (near : Bool) (x y : F80) (r : Calc × RemCodes) : Prop :=
  ∃ (t e k : Int) (codes : RemCodes), r = (remCalc x.neg t e, codes) ∧ FitsRemainder t e ∧
    x.rat - y.rat * k = signed x.neg (t * 2 ^ e) ∧ x.Reduces near y k codes

theorem F80.apart_eq : Int.log 2 |x.rat| - Int.log 2 |y.rat| = x.val.top - y.val.top := by
  rw [F80.log_abs_rat hx.rat_ne, F80.log_abs_rat hy.rat_ne]

theorem remFinite_complete (d : Nat) (near : Bool) (close : x.val.top - y.val.top < 64) :
    x.RemFinite near y (remFinite d near x y) := by
  have ex := min_le_left x.val.exp y.val.exp
  have ey := min_le_right x.val.exp y.val.exp
  have fits (t : Int) := fitsRemainder_of_le hx.finite (y := y) (t := t)
  have value : remFinite d near x y =
      let q := wholeQuot near (x.multiple (min x.val.exp y.val.exp)) (y.multiple (min x.val.exp y.val.exp))
      (remCalc x.neg (x.multiple (min x.val.exp y.val.exp) - y.multiple (min x.val.exp y.val.exp) * q) (min x.val.exp y.val.exp),
        RemCodes.ofQuot q) := if_pos close
  have absY := y.abs_rat_multiple ey
  have pos := hy.multiple_pos (min x.val.exp y.val.exp)
  have rest := F80.rat_sub_mul ex ey
  have quot := F80.rat_div_rat ex ey
  rw [value]
  generalize min x.val.exp y.val.exp = e at *
  generalize x.multiple e = n at *
  generalize y.multiple e = m at *
  obtain ⟨leN, leM⟩ := wholeQuot_le near n pos
  refine ⟨_, _, signedQuot (x.neg != y.neg) (wholeQuot near n m), _, rfl, fits _ leN leM, rest _, ?_⟩
  rw [F80.Reduces, F80.apart_eq hx hy, if_pos close, signedQuot_natAbs]
  refine ⟨?_, rfl⟩
  cases near with
  | true =>
    obtain ⟨half, tie, -⟩ := nearestQuot_spec n pos
    have unit : (0 : ℚ) < 2 ^ e := by positivity
    rw [if_pos rfl, rest, two_mul_abs_signed, absY, mul_le_mul_iff_left₀ unit, mul_left_inj' unit.ne', Nat.cast_le, Nat.cast_inj]
    exact ⟨half, fun h => signedQuot_even _ (tie h)⟩
  | false =>
    rw [quot, truncate_div]
    rfl

theorem remFinite_partial (d : Nat) (near : Bool) (far : 64 ≤ x.val.top - y.val.top) :
    x.RemFinite near y (remFinite d near x y) := by
  have ex := min_le_left x.val.exp y.val.exp
  have ey := min_le_right x.val.exp y.val.exp
  obtain ⟨n, hn⟩ : ∃ n, n = x.multiple (min x.val.exp y.val.exp) := ⟨_, rfl⟩
  obtain ⟨m, hm⟩ : ∃ m, m = y.multiple (min x.val.exp y.val.exp) := ⟨_, rfl⟩
  obtain ⟨j, hj⟩ : ∃ j, j = (x.val.top - y.val.top - drawN d).toNat := ⟨_, rfl⟩
  obtain ⟨lo, hi⟩ : 32 ≤ drawN d ∧ drawN d ≤ 63 := by
    unfold drawN
    omega
  have value : remFinite d near x y = (remCalc x.neg (n - (m * 2 ^ j : Nat) * (n / (m * 2 ^ j) : Nat)) (min x.val.exp y.val.exp),
      { c0 := drawC0 d, c1 := drawC1 d, c2 := true, c3 := drawC3 d }) := by
    rw [hn, hm, hj]
    exact if_neg far.not_gt
  have left := sub_mul_div n (m * 2 ^ j)
  have fits : FitsRemainder ((n % (m * 2 ^ j) : Nat) : Int) (min x.val.exp y.val.exp) := by
    refine ⟨?_, le_min x.val_exp_ge y.val_exp_ge, fun h => log2_lt_of_le_multiple hx.finite ex ?_ ?_⟩
    · rw [Int.natAbs_natCast, hn, hm]
      exact two_pow_dvd_mod hx hy far
    · exact Int.natAbs_ne_zero.mpr h
    · rw [Int.natAbs_natCast, ← hn]
      exact Nat.mod_le _ _
  have rest := F80.rat_sub_mul ex ey (2 ^ j * (n / (m * 2 ^ j)))
  have same : (n : Int) - m * (2 ^ j * (n / (m * 2 ^ j)) : Nat) = (n % (m * 2 ^ j) : Nat) := by
    rw [← left]
    push_cast
    ring
  rw [← hn, ← hm, same] at rest
  refine ⟨_, _, _, _, value, left ▸ fits, left ▸ rest, ?_⟩
  rw [F80.Reduces, F80.apart_eq hx hy, if_neg far.not_gt]
  refine ⟨rfl, drawN d, lo, hi, ?_⟩
  have power : (2 : ℚ) ^ (x.val.top - y.val.top - drawN d) = (2 ^ j : Nat) := by
    rw [show x.val.top - y.val.top - drawN d = (j : Int) by omega, zpow_natCast, Nat.cast_pow, Nat.cast_ofNat]
  rw [F80.rat_div_rat ex ey, ← hn, ← hm, power, ← signed_div_right, div_div, ← Nat.cast_mul, truncate_div, signedQuot_cast,
    signedQuot_cast, ← signed_mul_right, Nat.cast_mul, mul_comm]

theorem remFinite_spec (d : Nat) (near : Bool) : x.RemFinite near y (remFinite d near x y) := by
  rcases lt_or_ge (x.val.top - y.val.top) 64 with h | h
  · exact remFinite_complete hx hy d near h
  · exact remFinite_partial hx hy d near h

end Reduce

end Sys2Proof.Machine
end

section
/-! What FPREM and FPREM1 leave under any masks, and the obligation of the instructions of two results, of FRNDINT and of the partial
remainders (O46). -/

namespace Sys2Proof.Machine

namespace Fpu

variable (f : Fpu)

@[simp] theorem prem_fdp (d : Nat) (near : Bool) : (f.prem d near).fdp = f.fdp := by
  unfold prem
  dsimp only
  split
  · simp
  · split
    · simp
    · split <;> simp

/-! ### The codes of a partial remainder -/

/-- Codes with the C1 of the result change no other data. -/
theorem data_setCodes {c : RemCodes} (h : c.c1 = f.status.c1) : (f.setCodes c).data = f.data :=
  f.data_congr rfl rfl rfl rfl rfl h

/-- The codes leave the value and the exception flags of a result. -/
theorem Gives.setCodes {f g : Fpu} {r : FRes F80} {v : F80} (hg : f.Gives g r 0 false) (hr : r.res = some v) (c : RemCodes) :
    f.Replaced (g.setCodes c) 0 v ∧ (g.setCodes c).sw &&& 0x7F = (f.sw ||| r.exc) &&& 0x7F := by
  obtain ⟨⟨flags, -⟩, stack⟩ := hg
  rw [hr] at stack
  have same : (g.setCodes c).sw &&& 0x7F = g.sw &&& 0x7F := g.flags_congr rfl
  exact ⟨stack, same.trans flags⟩

/-! ### The partial remainder of what is in ST(0) and ST(1) -/

section Prem

variable {f} {d : Nat} {near : Bool}

theorem prem_empty (h : f.isEmpty 0 = true ∨ f.isEmpty 1 = true) :
    f.prem d near = (f.deliver (stackFault f.ctl F80.indefinite) 0 false).drawCodes d := by
  rw [← f.underflow_eq]
  exact if_pos (by rwa [Bool.or_eq_true])

variable (present : ¬ (f.isEmpty 0 = true ∨ f.isEmpty 1 = true))
include present

theorem prem_checked {r : FRes F80} (check : operandCheck f.ctl d (f.st 0) (f.st 1) = some r) :
    f.prem d near = (f.deliver r 0 false).drawCodes d := by
  rw [prem, if_neg (by rwa [Bool.or_eq_true])]
  dsimp only
  rw [check]

theorem prem_numeric (hx : (f.st 0).Numeric) (hy : (f.st 1).Numeric) {k : Calc} {codes : RemCodes} {r : FRes F80}
    (result : remainder d near (f.st 0) (f.st 1) = (k, codes))
    (finish : k.finish f.ctl d 64 (decide ((f.st 0).cls = .denormal ∨ (f.st 1).cls = .denormal)) = r) :
    f.prem d near = if r.res.isSome then (f.deliver r 0 false).setCodes codes else (f.deliver r 0 false).drawCodes d := by
  rw [prem, if_neg (by rwa [Bool.or_eq_true])]
  dsimp only
  rw [operandCheck_numeric _ _ hx hy, result]
  dsimp only
  rw [← finish, Bool.decide_or]
  rfl

end Prem

/-- What a partial remainder of two finite nonzero numbers leaves. -/
def GivesReduced (near : Bool) (g : Fpu) : Prop :=
  let c := f.ctl
  let x := f.st 0
  let y := f.st 1
  let den : BitVec 16 := if x.cls = .denormal ∨ y.cls = .denormal then xDE else 0
  let apart : Int := Int.log 2 |x.rat| - Int.log 2 |y.rat|
  ∃ (v : F80) (k : Int), f.Replaced g 0 v ∧
    let rest : ℚ := x.rat - y.rat * k
    let neg := if rest = 0 then x.neg else decide (rest < 0)
    let tiny : Prop := rest ≠ 0 ∧ |rest| < 1 / 2 ^ 16382 ∧ c.um = false
    v.Encodes neg (if tiny then rest * 2 ^ 24576 else rest) ∧
      g.sw &&& 0x7F = (f.sw ||| den ||| (if tiny then xUE else 0)) &&& 0x7F ∧
      if apart < 64 then
        (if near then 2 * |rest| ≤ |y.rat| ∧ (2 * |rest| = |y.rat| → k % 2 = 0) else k = truncate (x.rat / y.rat)) ∧
          g.codes = { c3 := k.natAbs.testBit 1, c2 := false, c0 := k.natAbs.testBit 2 } ∧
          g.status.c1 = k.natAbs.testBit 0
      else
        g.codes.c2 = true ∧ ∃ n : Nat, 32 ≤ n ∧ n ≤ 63 ∧
          (k : ℚ) = truncate (x.rat / y.rat / 2 ^ (apart - n)) * 2 ^ (apart - n)

/-- What FPREM and FPREM1 leave. -/
def GivesRemainder (near : Bool) (g : Fpu) : Prop :=
  let c := f.ctl
  let x := f.st 0
  let y := f.st 1
  let anyDenormal : Prop := x.cls = .denormal ∨ y.cls = .denormal
  let den : BitVec 16 := if anyDenormal then xDE else 0
  let gives (r : FRes F80) : Prop := f.Gives g r 0 false
  if f.isEmpty 0 ∨ f.isEmpty 1 then gives (stackFault c F80.indefinite)
  else if ¬ (x.Numeric ∧ y.Numeric) then ∃ r, NanGives c x y r ∧ gives r
  else if x.cls = .infinity ∨ y.cls = .zero then
    gives (invalidGives c F80.indefinite) ∧ (c.im = true → g.codes.c2 = false)
  else if anyDenormal ∧ c.dm = false then gives { exc := xDE, res := none, c1 := false }
  else if x.cls = .zero ∨ y.cls = .infinity then
    gives { exc := den, res := some x, c1 := false } ∧ g.codes = { c3 := false, c2 := false, c0 := false }
  else f.GivesReduced near g

end Fpu

theorem remainder_invalid (d : Nat) (near : Bool) {x y : F80} (h : x.cls = .infinity ∨ y.cls = .zero) :
    remainder d near x y = (.invalid, { c0 := drawC0 d, c1 := false, c2 := false, c3 := drawC3 d }) := by
  rw [remainder, if_pos]
  simpa [F80.isInf_eq, F80.isZero_eq] using h

theorem remainder_exact (d : Nat) (near : Bool) {x y : F80} (hn : ¬ (x.cls = .infinity ∨ y.cls = .zero))
    (h : x.cls = .zero ∨ y.cls = .infinity) :
    remainder d near x y = (.exact x, { c0 := false, c1 := false, c2 := false, c3 := false }) := by
  rw [remainder, if_neg, if_pos]
  · simpa [F80.isInf_eq, F80.isZero_eq, or_comm] using h
  · simpa [F80.isInf_eq, F80.isZero_eq] using hn

theorem remainder_finite (d : Nat) (near : Bool) {x y : F80} (hn : ¬ (x.cls = .infinity ∨ y.cls = .zero))
    (h : ¬ (x.cls = .zero ∨ y.cls = .infinity)) : remainder d near x y = remFinite d near x y := by
  rw [remainder, if_neg, if_neg]
  · simpa [F80.isInf_eq, F80.isZero_eq, and_comm] using h
  · simpa [F80.isInf_eq, F80.isZero_eq] using hn

/-- Neither a zero nor an infinity, a number is finite and nonzero. -/
theorem F80.Numeric.finiteNonzero {x : F80} (h : x.Numeric) (inf : x.cls ≠ .infinity) (zero : x.cls ≠ .zero) :
    x.FiniteNonzero :=
  (h.resolve_right inf).resolve_left zero

theorem withDenormal_stopped {c : FCtl} (dm : c.dm = false) (r : FRes F80) :
    withDenormal c true r = { exc := xDE, res := none, c1 := false } := by
  rw [withDenormal, dm]
  rfl

/-- An unmasked denormal operand stops every partial remainder that is not invalid. -/
theorem remainder_stopped {c : FCtl} (dm : c.dm = false) (d : Nat) (near : Bool) {x y : F80} (hx : x.Numeric) (hy : y.Numeric)
    (valid : ¬ (x.cls = .infinity ∨ y.cls = .zero)) :
    (remainder d near x y).1.finish c d 64 true = { exc := xDE, res := none, c1 := false } := by
  by_cases fixed : x.cls = .zero ∨ y.cls = .infinity
  · rw [remainder_exact d near valid fixed]
    exact withDenormal_stopped dm _
  · obtain ⟨xInf, yZero⟩ := not_or.mp valid
    obtain ⟨xZero, yInf⟩ := not_or.mp fixed
    obtain ⟨t, e, k, codes, value, -⟩ :=
      remFinite_spec (hx.finiteNonzero xInf xZero) (hy.finiteNonzero yInf yZero) d near
    rw [remainder_finite d near valid fixed, value, remCalc]
    split
    · exact withDenormal_stopped dm _
    · exact withDenormal_stopped dm _

namespace Fpu

variable {f e : Fpu} {d : Nat} {near : Bool} (data : e.data = (f.prem d near).data) (codes : e.codes = (f.prem d near).codes)
  (present : ¬ (f.isEmpty 0 = true ∨ f.isEmpty 1 = true)) (hx : (f.st 0).Numeric) (hy : (f.st 1).Numeric)
include data codes present hx hy

theorem prem_invalid (invalid : (f.st 0).cls = .infinity ∨ (f.st 1).cls = .zero) :
    f.Gives e (invalidGives f.ctl F80.indefinite) 0 false ∧ (f.ctl.im = true → e.codes.c2 = false) := by
  obtain ⟨r, hr⟩ : ∃ r : FRes F80, r = invalidGives f.ctl F80.indefinite := ⟨_, rfl⟩
  have gives := f.deliver_gives r 0 false
  obtain ⟨⟨-, c1⟩, -⟩ := id gives
  have some : r.res.isSome = f.ctl.im := by
    rw [hr, invalidGives]
    cases f.ctl.im <;> rfl
  rw [prem_numeric present hx hy (remainder_invalid d near invalid) hr.symm, some] at data codes
  rw [← hr]
  cases im : f.ctl.im with
  | false =>
    rw [im, if_neg nofun, data_drawCodes] at data
    exact ⟨gives.congr data, nofun⟩
  | true =>
    rw [im, if_pos rfl] at data codes
    rw [data_setCodes _ (by rw [c1, hr]; rfl)] at data
    exact ⟨gives.congr data, fun _ => congrArg CmpCodes.c2 codes⟩

variable (masked : decide ((f.st 0).cls = .denormal ∨ (f.st 1).cls = .denormal) = true → f.ctl.dm = true)
  (valid : ¬ ((f.st 0).cls = .infinity ∨ (f.st 1).cls = .zero))
include masked valid

theorem prem_fixed (fixed : (f.st 0).cls = .zero ∨ (f.st 1).cls = .infinity) :
    f.Gives e { exc := if (f.st 0).cls = .denormal ∨ (f.st 1).cls = .denormal then xDE else 0, res := some (f.st 0), c1 := false }
      0 false ∧ e.codes = { c3 := false, c2 := false, c0 := false } := by
  obtain ⟨r, hr⟩ : ∃ r : FRes F80, r = { exc := if (f.st 0).cls = .denormal ∨ (f.st 1).cls = .denormal then xDE else 0
                                         res := some (f.st 0), c1 := false } := ⟨_, rfl⟩
  have gives := f.deliver_gives r 0 false
  obtain ⟨⟨-, c1⟩, -⟩ := id gives
  have finish : (Calc.exact (f.st 0)).finish f.ctl d 64 (decide ((f.st 0).cls = .denormal ∨ (f.st 1).cls = .denormal)) = r := by
    rw [hr, Calc.finish, withDenormal_masked masked]
    simp [peIf]
  have some : r.res.isSome = true := hr ▸ rfl
  rw [prem_numeric present hx hy (remainder_exact d near valid fixed) finish, if_pos some] at data codes
  rw [data_setCodes _ (by rw [c1, hr])] at data
  exact ⟨hr ▸ gives.congr data, codes⟩

theorem prem_reduced (reduced : ¬ ((f.st 0).cls = .zero ∨ (f.st 1).cls = .infinity)) : f.GivesReduced near e := by
  obtain ⟨xInf, yZero⟩ := not_or.mp valid
  obtain ⟨xZero, yInf⟩ := not_or.mp reduced
  obtain ⟨t, q, k, rc, value, ⟨divides, low, high⟩, rest, reduces⟩ :=
    remFinite_spec (hx.finiteNonzero xInf xZero) (hy.finiteNonzero yInf yZero) d near
  obtain ⟨v, finish, encodes⟩ := remCalc_finish f.ctl d masked (f.st 0).neg divides low high
  obtain ⟨r, hr⟩ : ∃ r, (remCalc (f.st 0).neg t q).finish f.ctl d 64
    (decide ((f.st 0).cls = .denormal ∨ (f.st 1).cls = .denormal)) = r := ⟨_, rfl⟩
  rw [← rest] at finish encodes
  rw [hr] at finish
  have res : r.res = some v := finish ▸ rfl
  rw [prem_numeric present hx hy ((remainder_finite d near valid reduced).trans value) hr, if_pos (by rw [res]; rfl)] at data codes
  obtain ⟨stack, flags⟩ := (f.deliver_gives r 0 false).setCodes res rc
  have sw : e.sw &&& 0x7F = (f.sw ||| r.exc) &&& 0x7F := (congrArg (fun u => u.2.2.2.2.1) data).trans flags
  have c1 : e.status.c1 = rc.c1 := congrArg (fun u => u.2.2.2.2.2) data
  rw [finish] at sw
  simp only [decide_eq_true_eq] at sw
  rw [BitVec.or_comm (ite _ xUE 0), ← BitVec.or_assoc] at sw
  refine ⟨v, k, StackIs.congr data stack, encodes, sw, ?_⟩
  unfold F80.Reduces at reduces
  split
  · next close =>
    obtain ⟨quot, ofQuot⟩ := (if_pos close).mp reduces
    rw [codes, c1, ofQuot]
    exact ⟨quot, rfl, rfl⟩
  · next far =>
    obtain ⟨c2, count⟩ := (if_neg far).mp reduces
    rw [codes]
    exact ⟨c2, count⟩

end Fpu

theorem Fpu.prem_gives (f : Fpu) (d : Nat) (near : Bool) {e : Fpu} (data : e.data = (f.prem d near).data)
    (codes : e.codes = (f.prem d near).codes) : f.GivesRemainder near e := by
  have delivers {r : FRes F80} (h : e.data = (f.deliver r 0 false).data) : f.Gives e r 0 false :=
    (f.deliver_gives r 0 false).congr h
  unfold GivesRemainder
  dsimp only
  split
  · next empty =>
    rw [prem_empty empty, data_drawCodes] at data
    exact delivers data
  next present =>
  split
  · next nan =>
    obtain ⟨r, check, gives⟩ := operandCheck_nan f.ctl d nan
    rw [prem_checked present check, data_drawCodes] at data
    exact ⟨r, gives, delivers data⟩
  next numeric =>
  obtain ⟨hx, hy⟩ := not_not.mp numeric
  split
  · next invalid => exact prem_invalid data codes present hx hy invalid
  next valid =>
  split
  · next stopped =>
    obtain ⟨denormal, dm⟩ := stopped
    have stop := remainder_stopped dm d near hx hy valid
    rw [← decide_eq_true denormal] at stop
    rw [prem_numeric present hx hy (Prod.mk.eta).symm stop, if_neg nofun, data_drawCodes] at data
    exact delivers data
  next unstopped =>
  have masked (h : decide ((f.st 0).cls = .denormal ∨ (f.st 1).cls = .denormal) = true) : f.ctl.dm = true := by
    rw [← Bool.not_eq_false]
    exact fun dm => unstopped ⟨of_decide_eq_true h, dm⟩
  split
  · next fixed => exact prem_fixed data codes present hx hy masked valid fixed
  · next reduced => exact prem_reduced data codes present hx hy masked valid reduced

/-! ### The obligation -/

theorem State.prem_leaves {s : State} {i : Instr} {near : Bool}
    (h : exec i s = finish (s.fpuReg i (s.fpu.prem s.drawn near))) : s.FpuLeaves i none (s.fpu.GivesRemainder near) :=
  State.fpuEnd_gives h (by simp) (by simp) fun _ data codes => s.fpu.prem_gives s.drawn near data codes

/-- What FRNDINT leaves. -/
def Fpu.GivesRounded (f g : Fpu) : Prop :=
  let c := f.ctl
  let x := f.st 0
  let i := roundToInt c.rc x.rat
  let de : BitVec 16 := if x.cls = .denormal ∧ Config.frndintDe = true then xDE else 0
  ∃ r, f.Gives g r 0 false ∧
    if f.isEmpty 0 then r = stackFault c F80.indefinite
    else if x.cls = .denormal ∧ Config.frndintDe = true ∧ c.dm = false then r = { exc := xDE, res := none, c1 := false }
    else if x.Finite then
      r.exc = peIf (decide ((i : ℚ) ≠ x.rat)) ||| de ∧ r.c1 = decide (|x.rat| < |(i : ℚ)|) ∧
        ∃ v, r.res = some v ∧ v.Encodes x.neg i
    else if x.cls = .infinity then r = { exc := 0, res := some x, c1 := false }
    else NanGives c x F80.one r

theorem State.frndint_leaves (s : State) (p : Prefixes) : s.FpuLeaves (.frndint p) none s.fpu.GivesRounded := by
  refine State.fpuEnd_gives (g := (s.fpu.deliver (if s.fpu.isEmpty 0 then s.fpu.underflow F80.indefinite
    else rndint s.fpu.ctl s.drawn (s.fpu.st 0)) 0 false).drawCodes s.drawn) rfl (by simp) (by simp) fun e data _ => ?_
  rw [Fpu.data_drawCodes] at data
  refine ⟨_, (s.fpu.deliver_gives _ 0 false).congr data, ?_⟩
  split
  · exact s.fpu.underflow_eq _
  · exact rndint_spec s.fpu.ctl s.drawn (s.fpu.st 0)

/-- Settles O46: FRNDINT delivers the integer that RC selects, FXTRACT the exponent and the significand, FPREM and FPREM1 a
remainder of 64 bits, and FSINCOS and FPTAN a pair of results, each after the checks of the stack. -/
theorem fpuUnmaskedRoundRemainderPair : Obligations.FpuUnmaskedRoundRemainderPair := by
  intro p s f c x y ends gives noRoom pairFault anyDenormal den apart remainder pair tangent
  have sinCos : s.FpuLeaves (.fsincos p) none (s.GivesPair sinCalc (arith1 c (drawSecond s.drawn) 64 cosCalc x)) :=
    State.sinCosTwo_leaves (push := arith1 c (drawSecond s.drawn) 64 cosCalc) rfl fun _ h => (trigCalc_inf h).1
  have tan : s.FpuLeaves (.fptan p) none (s.GivesPair tanCalc { tangent with res := tangent.res.map fun _ => F80.one }) :=
    State.sinCosTwo_leaves (push := fun x =>
      { arith1 c s.drawn 64 tanCalc x with res := (arith1 c s.drawn 64 tanCalc x).res.map fun _ => F80.one }) rfl
      fun _ h => (trigCalc_inf h).2.2
  exact ⟨s.frndint_leaves p, s.fxtract_leaves p, State.prem_leaves (near := false) rfl, State.prem_leaves (near := true) rfl,
    sinCos, tan⟩

end Sys2Proof.Machine
end

section
/-! The FPU with every exception masked (46_fpu_model.md R512 to R519): every operation has a result, so that what an instruction
leaves under any masks is what it takes; the six arithmetic operations in each of their operand forms
(47_fpu_transfer_arith.md R579 to R596, O38). -/

namespace Sys2Proof.Machine

/-! ### Results with every exception masked -/

/-- Every exception is masked in what an operation reads of CW. -/
def FCtl.Masked (c : FCtl) : Prop := c.mask = 0x3F

theorem Fpu.Masked.ctl {f : Fpu} (h : f.Masked) : f.ctl.Masked := h

/-- No exception is unmasked where every one is masked. -/
theorem Fpu.Masked.not_unmasked {f : Fpu} (h : f.Masked) (exc : BitVec 16) : ¬ f.Unmasked exc := by
  have set (k : Nat) (hk : k < 6) : f.cw.getLsbD k = true := by
    rw [← f.ctl_mask hk, show f.ctl.mask = 0x3F#6 from h]
    interval_cases k <;> rfl
  have low : ~~~f.cw &&& 0x3F#16 = 0#16 := by
    apply BitVec.eq_of_getLsbD_eq
    intro k hk
    rw [BitVec.getLsbD_and, BitVec.getLsbD_not]
    rcases lt_or_ge k 6 with mask | above
    · simp [set k mask]
    · interval_cases k <;> simp
  simp [Fpu.Unmasked, BitVec.and_assoc, low]

/-- A register takes a result under any masks (R509). -/
theorem deliverReg_isSome (c : FCtl) (d p : Nat) (neg : Bool) (a : Approx) : (deliverReg c d p neg a).res.isSome = true := by
  unfold deliverReg
  dsimp only
  split_ifs <;> rfl

section Masked

variable {c : FCtl} (h : c.Masked)
include h

theorem FCtl.Masked.im : c.im = true := by rw [FCtl.im, h]; rfl
theorem FCtl.Masked.dm : c.dm = true := by rw [FCtl.dm, h]; rfl
theorem FCtl.Masked.zm : c.zm = true := by rw [FCtl.zm, h]; rfl
theorem FCtl.Masked.um : c.um = true := by rw [FCtl.um, h]; rfl

/-- The fault of an empty operand has the indefinite as its result (R512). -/
theorem stackFault_masked {α : Type} (v : α) : stackFault c v = underflowResult v := by
  rw [stackFault, h.im]
  rfl

/-- A NaN or an unsupported operand has a result (R513, R514). -/
theorem NanGives.isSome {a b : F80} {r : FRes F80} (gives : NanGives c a b r) : r.res.isSome = true := by
  obtain ⟨-, -, value⟩ := gives
  rw [h.im, if_neg (fun stopped => nomatch stopped.2)] at value
  split at value
  · rw [value]
    rfl
  · obtain ⟨v, value, -⟩ := value
    rw [value]
    rfl

theorem withDenormal_isSome {den : Bool} {r : FRes F80} (hr : r.res.isSome = true) :
    (withDenormal c den r).res.isSome = true := by
  rw [withDenormal_masked fun _ => h.dm]
  exact hr

theorem Calc.finish_isSome (k : Calc) (d p : Nat) (den : Bool) : (k.finish c d p den).res.isSome = true := by
  cases k with
  | invalid => rw [Calc.finish, invalidWith, h.im]; rfl
  | zeroDivide neg => rw [Calc.finish, h.zm]; rfl
  | value v pe c1 => exact withDenormal_isSome h rfl
  | real neg a => exact withDenormal_isSome h (deliverReg_isSome c d p neg a)
  | free => rfl

theorem arith2_isSome (d p : Nat) (op : F80 → F80 → Calc) (a b : Opnd) : (arith2 c d p op a b).res.isSome = true := by
  by_cases numeric : a.v.Numeric ∧ b.v.Numeric
  · rw [arith2_numeric c d p op numeric.1 numeric.2]
    exact Calc.finish_isSome h _ d p _
  · obtain ⟨r, check, gives⟩ := operandCheck_nan c d numeric
    rw [arith2, check]
    exact gives.isSome h

theorem arith1_isSome (d p : Nat) (op : F80 → Calc) (a : F80) : (arith1 c d p op a).res.isSome = true := by
  by_cases numeric : a.Numeric
  · rw [arith1_numeric c d p op numeric]
    exact Calc.finish_isSome h _ d p _
  · exact (arith1_nan c d p op numeric).isSome h

end Masked

theorem State.result_isSome {s : State} (h : s.fpu.Masked) (prec : Nat) (op : F80 → F80 → Calc) (a b : Opnd) (empty : Bool) :
    (s.result prec op a b empty).res.isSome = true := by
  unfold State.result
  split
  · rw [stackFault_masked h.ctl]
    rfl
  · exact arith2_isSome h.ctl _ _ _ _ _

/-- Where there is a result, what an instruction leaves is what it takes. -/
theorem Fpu.Gives.takes {f g : Fpu} {r : FRes F80} {k : BitVec 3} {pops : Bool} (h : f.Gives g r k pops)
    (hr : r.res.isSome = true) : f.Takes g r k pops := by
  obtain ⟨flagged, stack⟩ := h
  obtain ⟨v, value⟩ := Option.isSome_iff_exists.mp hr
  rw [value] at stack
  exact ⟨flagged, v, value, stack⟩

/-- An instruction commits and takes the result `r`, with memory as it is. -/
def State.CommitsResult (s : State) (i : Instr) (fdp : Option Nat) (r : FRes F80) (k : BitVec 3) (pops : Bool) : Prop :=
  ∃ t, exec i s = .next t ∧ s.FpuCommits t i fdp ∧ t.mem = s.mem ∧ s.fpu.Takes t.fpu r k pops

/-- With every exception masked an instruction that ends with a result commits with it. -/
theorem State.FpuLeaves.commitsResult {s : State} {i : Instr} {fdp : Option Nat} {r : FRes F80} {k : BitVec 3} {pops : Bool}
    (h : s.FpuLeaves i fdp fun g => s.fpu.Gives g r k pops) (masked : s.fpu.Masked) (hr : r.res.isSome = true) :
    s.CommitsResult i fdp r k pops := by
  obtain ⟨t, runs, commits, mem, gives⟩ := h.commits masked
  exact ⟨t, runs, commits, mem, gives.takes hr⟩

/-! ### The operand forms of an arithmetic operation -/

/-- The instructions of an arithmetic operation, in each of their operand forms, end as `ends` says of their result. -/
def State.ArithForms (s : State) (p : Prefixes) (ends : Instr → Option Nat → FRes F80 → BitVec 3 → Bool → Prop) (op : FOp)
    (plain : FArith → Instr) (pop : BitVec 3 → Instr) (int : FInt → Instr) : Prop :=
  let f := s.fpu
  let result (a b : Opnd) (empty : Bool) : FRes F80 := s.result (f.prec s.par) (op f.rc) a b empty
  let inSt (i : Instr) (dst src : BitVec 3) (pops : Bool) : Prop :=
    ends i none (result (.reg (f.st dst)) (.reg (f.st src)) (f.isEmpty dst || f.isEmpty src)) dst pops
  let inMem (i : Instr) (m : Mem) (n : Nat) (load : Nat → Opnd) : Prop :=
    s.Backed (s.memAddr p m) n → ends i (some (s.memAddr p m))
      (result (.reg (f.st 0)) (load (s.bytesAt (s.memAddr p m) n)) (f.isEmpty 0)) 0 false
  (∀ k : BitVec 3, inSt (plain (.st0 k)) 0 k false ∧ inSt (plain (.sti k)) k 0 false ∧ inSt (pop k) k 0 true) ∧
  (∀ m : Mem, inMem (plain (.m32 m)) m 4 fmtSingle.load ∧ inMem (plain (.m64 m)) m 8 fmtDouble.load ∧
    inMem (int (.m16 m)) m 2 (loadIntOpnd 2) ∧ inMem (int (.m32 m)) m 4 (loadIntOpnd 4))

/-- With every exception masked an arithmetic operation commits with its result in every operand form. -/
theorem State.ArithForms.masked {s : State} {p : Prefixes} {op : FOp} {plain : FArith → Instr} {pop : BitVec 3 → Instr}
    {int : FInt → Instr} (masked : s.fpu.Masked)
    (h : s.ArithForms p (fun i fdp r k pops => s.FpuLeaves i fdp fun g => s.fpu.Gives g r k pops) op plain pop int) :
    s.ArithForms p s.CommitsResult op plain pop int := by
  have commits {i : Instr} {fdp : Option Nat} {a b : Opnd} {empty : Bool} {k : BitVec 3} {pops : Bool}
      (leaves : s.FpuLeaves i fdp fun g => s.fpu.Gives g (s.result (s.fpu.prec s.par) (op s.fpu.rc) a b empty) k pops) :
      s.CommitsResult i fdp (s.result (s.fpu.prec s.par) (op s.fpu.rc) a b empty) k pops :=
    leaves.commitsResult masked (State.result_isSome masked _ _ _ _ _)
  obtain ⟨inSt, inMem⟩ := h
  refine ⟨fun k => ?_, fun m => ?_⟩
  · obtain ⟨st0, sti, popped⟩ := inSt k
    exact ⟨commits st0, commits sti, commits popped⟩
  · obtain ⟨single, double, short, long⟩ := inMem m
    exact ⟨fun backed => commits (single backed), fun backed => commits (double backed), fun backed => commits (short backed),
      fun backed => commits (long backed)⟩

/-- Settles O38: each form under any masks (O45), where the masked fault of an empty operand has a result. -/
theorem fpuArithResult : Obligations.FpuArithResult := by
  intro p s masked
  rw [← stackFault_masked masked.ctl F80.indefinite]
  obtain ⟨add, sub, subr, mul, div, divr, -⟩ := fpuUnmaskedArithmetic p s
  exact ⟨State.ArithForms.masked (op := addCalc) (plain := .fadd p) (pop := .faddp p) (int := .fiadd p) masked add,
    State.ArithForms.masked (op := subCalc) (plain := .fsub p) (pop := .fsubp p) (int := .fisub p) masked sub,
    State.ArithForms.masked (op := FOp.rev subCalc) (plain := .fsubr p) (pop := .fsubrp p) (int := .fisubr p) masked subr,
    State.ArithForms.masked (op := mulCalc) (plain := .fmul p) (pop := .fmulp p) (int := .fimul p) masked mul,
    State.ArithForms.masked (op := divCalc) (plain := .fdiv p) (pop := .fdivp p) (int := .fidiv p) masked div,
    State.ArithForms.masked (op := FOp.rev divCalc) (plain := .fdivr p) (pop := .fdivrp p) (int := .fidivr p) masked divr⟩

end Sys2Proof.Machine
end

section
/-! FSQRT, FABS, FCHS, FRNDINT, FSCALE, FXCH, FXTRACT and the partial remainders with every exception masked
(47_fpu_transfer_arith.md R578, R597 to R604, O39, O40): what each leaves under any masks, where no exception stops it. -/

namespace Sys2Proof.Machine

/-! ### Results of one operand -/

/-- A fault of an empty ST(0), or the result of an operation, where there is one. -/
theorem ite_fault_isSome {c : FCtl} (h : c.Masked) {r : FRes F80} (hr : r.res.isSome = true) (empty : Bool) :
    (if empty then stackFault c F80.indefinite else r).res.isSome = true := by
  split
  · rw [stackFault_masked h]
    rfl
  · exact hr

/-- What FRNDINT leaves, with every exception masked. -/
theorem Fpu.GivesRounded.takes {f g : Fpu} (masked : f.Masked) (h : f.GivesRounded g) :
    let x := f.st 0
    let i := roundToInt f.rc x.rat
    let de : BitVec 16 := if x.cls = .denormal ∧ Config.frndintDe = true then xDE else 0
    ∃ r, f.Takes g r 0 false ∧
      if f.isEmpty 0 then r = underflowResult F80.indefinite
      else if x.Finite then
        r.exc = peIf (decide ((i : ℚ) ≠ x.rat)) ||| de ∧ r.c1 = decide (|x.rat| < |(i : ℚ)|) ∧
          ∃ v, r.res = some v ∧ v.Encodes x.neg i
      else if x.cls = .infinity then r = { exc := 0, res := some x, c1 := false }
      else NanGives f.ctl x F80.one r := by
  intro x i de
  obtain ⟨r, gives, spec⟩ := h
  have unstopped : ¬ (x.cls = .denormal ∧ Config.frndintDe = true ∧ f.ctl.dm = false) := fun stopped =>
    absurd stopped.2.2 (Bool.not_eq_false _ ▸ masked.ctl.dm)
  rw [stackFault_masked masked.ctl, if_neg unstopped] at spec
  refine ⟨r, gives.takes ?_, spec⟩
  by_cases empty : f.isEmpty 0 = true
  · rw [if_pos empty] at spec
    rw [spec]
    rfl
  by_cases fin : (f.st 0).Finite
  · rw [if_neg empty, if_pos fin] at spec
    obtain ⟨-, -, v, value, -⟩ := spec
    rw [value]
    rfl
  by_cases inf : (f.st 0).cls = .infinity
  · rw [if_neg empty, if_neg fin, if_pos inf] at spec
    rw [spec]
    rfl
  · rw [if_neg empty, if_neg fin, if_neg inf] at spec
    exact NanGives.isSome masked.ctl spec

/-- FXCH exchanges the registers, with every exception masked. -/
theorem Fpu.Exchanges.exchanged {f g : Fpu} {k : BitVec 3} (masked : f.Masked) (h : f.Exchanges g k) :
    f.Flagged g (if f.isEmpty 0 || f.isEmpty k then xIE ||| xSF else 0) false ∧
      f.StackIs g f.top (Function.update (Function.update f.phReg f.top (f.exchanged k)) (f.top + k) (f.exchanged 0))
        (Function.update (Function.update f.phEmpty f.top false) (f.top + k) false) := by
  obtain ⟨flagged, stack⟩ := h
  rw [f.im_of_masked masked, if_neg fun stopped => nomatch stopped.2] at stack
  exact ⟨flagged, stack⟩

/-- FXTRACT gives its two results where there is an operand and room, with every exception masked. -/
theorem Fpu.GivesExtract.extracts {f g : Fpu} (masked : f.Masked) (present : f.isEmpty 0 = false) (room : f.isEmpty 7 = true)
    (h : f.GivesExtract g) :
    ∃ exc e m, f.Flagged g exc false ∧ f.ReplacedPushed g e m ∧ (f.st 0).Extracts exc e m := by
  rw [Fpu.GivesExtract, if_neg (not_or.mpr ⟨by rw [present]; decide, by rw [room]; decide⟩)] at h
  obtain ⟨exc, e, m, flagged, stack, extracts⟩ := h
  rw [if_neg (masked.not_unmasked exc)] at stack
  exact ⟨exc, e, m, flagged, stack, extracts⟩

/-- Settles O39: each instruction under any masks (O45, O46), where no exception stops it. -/
theorem fpuOneOperandResult : Obligations.FpuOneOperandResult := by
  intro p s masked
  rw [← stackFault_masked masked.ctl F80.indefinite]
  intro f x commits done
  obtain ⟨-, -, -, -, -, -, sqrt, -, -, abs, chs, scale, -⟩ := fpuUnmaskedArithmetic p s
  have one {i : Instr} {r : FRes F80} (h : s.FpuLeaves i none fun g => f.Gives g
      (if f.isEmpty 0 then stackFault f.ctl F80.indefinite else r) 0 false) (hr : r.res.isSome = true) :
      done i (f.isEmpty 0) r := by
    obtain ⟨t, runs, ends, mem, takes⟩ := h.commitsResult masked (ite_fault_isSome masked.ctl hr _)
    exact ⟨t, ⟨runs, ends, mem⟩, takes⟩
  have scaled : done (.fscale p) (f.isEmpty 0 || f.isEmpty 1)
      (arith2 f.ctl s.drawn 64 scaleCalc (.reg x) (.reg (f.st 1))) := by
    obtain ⟨t, runs, ends, mem, takes⟩ :=
      State.FpuLeaves.commitsResult scale masked (State.result_isSome masked _ _ _ _ _)
    exact ⟨t, ⟨runs, ends, mem⟩, takes⟩
  refine ⟨one sqrt (arith1_isSome masked.ctl _ _ _ _), one abs rfl, one chs rfl, scaled, ?_, fun k => ?_,
    fun present room => ?_⟩
  · obtain ⟨t, runs, ends, mem, rounded⟩ := (s.frndint_leaves p).commits masked
    obtain ⟨r, takes, spec⟩ := rounded.takes masked
    rw [← stackFault_masked masked.ctl F80.indefinite] at spec
    exact ⟨t, r, ⟨runs, ends, mem⟩, takes, spec⟩
  · obtain ⟨t, runs, ends, mem, exchanges⟩ := (s.fxch_exchanges p k).commits masked
    exact ⟨t, ⟨runs, ends, mem⟩, exchanges.exchanged masked⟩
  · obtain ⟨t, runs, ends, mem, extract⟩ := (s.fxtract_leaves p).commits masked
    obtain ⟨exc, e, m, flagged, stack, extracts⟩ := extract.extracts masked present room
    refine ⟨t, e, m, ⟨runs, ends, mem⟩, stack, ?_⟩
    have extracts : x.Extracts exc e m := extracts
    unfold F80.Extracts at extracts
    cases cls : x.cls with
    | normal | denormal =>
      rw [cls] at extracts
      obtain ⟨rfl, numbers⟩ := extracts
      exact ⟨flagged, numbers⟩
    | zero | infinity | qnan | snan | unsupported =>
      rw [cls] at extracts
      obtain ⟨rfl, results⟩ := extracts
      exact ⟨flagged, results⟩

end Sys2Proof.Machine
end

section
/-! The partial remainders with every exception masked (47_fpu_transfer_arith.md R603, R604, O40). -/

namespace Sys2Proof.Machine

namespace Fpu

variable {f g : Fpu} {near : Bool}

/-- What is left of two finite nonzero numbers, with its codes, where no underflow is unmasked: the remainder `v` (R603, R604). -/
def LeavesReduced (f : Fpu) (near : Bool) (g : Fpu) (v : F80) : Prop :=
  let a := f.st 0
  let b := f.st 1
  let den : BitVec 16 := if a.cls = .denormal ∨ b.cls = .denormal then xDE else 0
  let apart : Int := Int.log 2 |a.rat| - Int.log 2 |b.rat|
  v.Finite ∧ (v.rat = 0 → v.neg = a.neg) ∧ g.sw &&& 0x7F = (f.sw ||| den) &&& 0x7F ∧
    if apart < 64 then
      ∃ q : Int, v.rat = a.rat - b.rat * q ∧
        (if near then 2 * |v.rat| ≤ |b.rat| ∧ (2 * |v.rat| = |b.rat| → q % 2 = 0) else q = truncate (a.rat / b.rat)) ∧
        g.codes = { c3 := q.natAbs.testBit 1, c2 := false, c0 := q.natAbs.testBit 2 } ∧
        g.status.c1 = q.natAbs.testBit 0
    else
      g.codes.c2 = true ∧ ∃ n : Int, 32 ≤ n ∧ n ≤ 63 ∧
        v.rat = a.rat - b.rat * truncate (a.rat / b.rat / 2 ^ (apart - n)) * 2 ^ (apart - n)

/-- The value, the flags and the codes that a partial remainder leaves where every exception is masked. -/
def LeavesRemainder (f : Fpu) (near : Bool) (g : Fpu) (v : F80) : Prop :=
  let a := f.st 0
  let b := f.st 1
  let den : BitVec 16 := if a.cls = .denormal ∨ b.cls = .denormal then xDE else 0
  if f.isEmpty 0 ∨ f.isEmpty 1 then v = F80.indefinite ∧ f.Flagged g 0x41 false
  else if ¬ (a.Numeric ∧ b.Numeric) then (∃ r, r.res = some v ∧ NanGives f.ctl a b r) ∧ f.Flagged g (nanExc a b) false
  else if a.cls = .infinity ∨ b.cls = .zero then v = F80.indefinite ∧ f.Flagged g xIE false ∧ g.codes.c2 = false
  else if a.cls = .zero ∨ b.cls = .infinity then
    v = a ∧ f.Flagged g den false ∧ g.codes = { c3 := false, c2 := false, c0 := false }
  else f.LeavesReduced near g v

/-- Without an unmasked underflow the remainder is the value that is delivered. -/
theorem GivesReduced.leaves (masked : f.Masked) (h : f.GivesReduced near g) :
    ∃ v, f.Replaced g 0 v ∧ f.LeavesReduced near g v := by
  obtain ⟨v, k, stack, ⟨fin, value, sign, -⟩, flags, codes⟩ := h
  have um : f.ctl.um = true := masked.ctl.um
  have noUnderflow (y : BitVec 16) : y ||| 0 = y := BitVec.or_zero
  simp only [um, Bool.true_eq_false, and_false, if_false, noUnderflow] at value sign flags
  refine ⟨v, stack, fin, fun zero => ?_, flags, ?_⟩
  · rw [sign, if_pos (value ▸ zero)]
  · split
    · next close =>
      obtain ⟨quot, shown⟩ := (if_pos close).mp codes
      rw [← value] at quot
      exact ⟨k, value, quot, shown⟩
    · next far =>
      obtain ⟨c2, n, lo, hi, count⟩ := (if_neg far).mp codes
      refine ⟨c2, n, by exact_mod_cast lo, by exact_mod_cast hi, ?_⟩
      rw [value, count, mul_assoc]

/-- A result that is there replaces ST(0). -/
theorem Gives.replaced {r : FRes F80} {v : F80} (h : f.Gives g r 0 false) (hr : r.res = some v) :
    f.Replaced g 0 v ∧ f.Flagged g r.exc r.c1 := by
  obtain ⟨flagged, stack⟩ := h
  rw [hr] at stack
  exact ⟨stack, flagged⟩

theorem GivesRemainder.leaves (masked : f.Masked) (h : f.GivesRemainder near g) :
    ∃ v, f.Replaced g 0 v ∧ f.LeavesRemainder near g v := by
  have c := masked.ctl
  unfold GivesRemainder at h
  unfold LeavesRemainder
  dsimp only at h ⊢
  rw [stackFault_masked c] at h
  split at h
  · next empty =>
    obtain ⟨stack, flagged⟩ := h.replaced rfl
    exact ⟨_, stack, (if_pos empty).mpr ⟨rfl, flagged⟩⟩
  next present =>
  simp only [if_neg present]
  split at h
  · next nan =>
    obtain ⟨r, nanGives, gives⟩ := h
    obtain ⟨v, value⟩ := Option.isSome_iff_exists.mp (nanGives.isSome c)
    obtain ⟨stack, flagged⟩ := gives.replaced value
    obtain ⟨exc, c1, -⟩ := id nanGives
    rw [exc, c1] at flagged
    exact ⟨v, stack, (if_pos nan).mpr ⟨⟨r, value, nanGives⟩, flagged⟩⟩
  next numeric =>
  simp only [if_neg numeric]
  split at h
  · next invalid =>
    obtain ⟨gives, c2⟩ := h
    obtain ⟨stack, flagged⟩ := gives.replaced (if_pos c.im)
    exact ⟨_, stack, (if_pos invalid).mpr ⟨rfl, flagged, c2 c.im⟩⟩
  next valid =>
  simp only [if_neg valid]
  rw [if_neg (fun stopped => absurd stopped.2 (by rw [c.dm]; decide))] at h
  split at h
  · next fixed =>
    obtain ⟨gives, codes⟩ := h
    obtain ⟨stack, flagged⟩ := gives.replaced rfl
    exact ⟨_, stack, (if_pos fixed).mpr ⟨rfl, flagged, codes⟩⟩
  · next reduced =>
    obtain ⟨v, stack, leaves⟩ := GivesReduced.leaves masked h
    exact ⟨v, stack, (if_neg reduced).mpr leaves⟩

end Fpu

/-- Settles O40: FPREM and FPREM1 under any masks (O46), where no exception stops them and no underflow is unmasked. -/
theorem fpuRemainder : Obligations.FpuRemainder := by
  intro p s masked f a b den apart done
  have remainder {i : Instr} {near : Bool} (h : s.FpuLeaves i none (f.GivesRemainder near)) : done i near := by
    obtain ⟨t, runs, ends, mem, gives⟩ := h.commits masked
    obtain ⟨v, stack, leaves⟩ := gives.leaves masked
    exact ⟨t, v, runs, ends, mem, stack, leaves⟩
  exact ⟨remainder (State.prem_leaves rfl), remainder (State.prem_leaves rfl)⟩

end Sys2Proof.Machine
end

section
/-! The memory real formats (46_fpu_model.md R501, R525): the fields of a single or double value, its rational, and its exact
conversion to the extended format. -/

namespace Sys2Proof.Machine

namespace MemFmt

/-- A format narrower than the extended one in precision and range: its values, denormals too, are normal there. -/
structure Narrow (f : MemFmt) : Prop where
  two_le_p : 2 ≤ f.p
  p_le : f.p ≤ 62
  pos_ebit : 0 < f.ebit
  ebit_le : f.ebit ≤ 14
  p_le_bias : f.p ≤ f.bias + 1

theorem single_narrow : fmtSingle.Narrow := ⟨by decide, by decide, by decide, by decide, by decide⟩

theorem double_narrow : fmtDouble.Narrow := ⟨by decide, by decide, by decide, by decide, by decide⟩

/-! ### Fields -/

/-- The sign of a value. -/
def neg (f : MemFmt) (v : Nat) : Bool := v.testBit (f.p + f.ebit - 1)

/-- The biased exponent of a value. -/
def exp (f : MemFmt) (v : Nat) : Nat := v / 2 ^ (f.p - 1) % 2 ^ f.ebit

/-- The fraction of a value. -/
def frac (f : MemFmt) (v : Nat) : Nat := v % 2 ^ (f.p - 1)

variable {f : MemFmt}

theorem exp_lt (v : Nat) : f.exp v < 2 ^ f.ebit := Nat.mod_lt _ (Nat.two_pow_pos _)

theorem frac_lt (v : Nat) : f.frac v < 2 ^ (f.p - 1) := Nat.mod_lt _ (Nat.two_pow_pos _)

section Narrow

variable (h : f.Narrow)
include h

/-- The largest biased exponent, of the infinities and NaNs. -/
theorem Narrow.expMax : 2 * f.bias + 1 = 2 ^ f.ebit - 1 ∧ f.bias < 2 ^ 13 := by
  have double : 2 ^ f.ebit = 2 * 2 ^ (f.ebit - 1) := by rw [← pow_succ', Nat.sub_add_cancel h.pos_ebit]
  have small : 2 ^ (f.ebit - 1) ≤ 2 ^ 13 := Nat.pow_le_pow_right two_pos (by have := h.ebit_le; omega)
  have := Nat.two_pow_pos (f.ebit - 1)
  rw [bias]
  omega

/-- The exponent and the fraction are below the sign. -/
theorem Narrow.signBit : 2 ^ (f.p + f.ebit - 1) = 2 ^ f.ebit * 2 ^ (f.p - 1) := by
  rw [← pow_add]
  have := h.two_le_p
  congr 1
  omega

/-- The fields of a packed value. -/
theorem Narrow.pack_fields (n : Bool) {e r : Nat} (he : e < 2 ^ f.ebit) (hr : r < 2 ^ (f.p - 1)) :
    let v := f.pack n e r
    v < 2 ^ (f.p + f.ebit) ∧ f.neg v = n ∧ f.exp v = e ∧ f.frac v = r := by
  have width : 2 ^ (f.p + f.ebit) = 2 * 2 ^ (f.p + f.ebit - 1) := by
    rw [← pow_succ', Nat.sub_add_cancel (by have := h.two_le_p; omega)]
  have low : e * 2 ^ (f.p - 1) + r < 2 ^ f.ebit * 2 ^ (f.p - 1) :=
    calc e * 2 ^ (f.p - 1) + r < e * 2 ^ (f.p - 1) + 2 ^ (f.p - 1) := by omega
      _ = (e + 1) * 2 ^ (f.p - 1) := by ring
      _ ≤ _ := Nat.mul_le_mul_right _ he
  have parts : f.pack n e r = ((if n then 2 ^ f.ebit else 0) + e) * 2 ^ (f.p - 1) + r := by
    rw [pack, h.signBit]
    cases n <;> simp [Nat.add_mul]
  have quot : f.pack n e r / 2 ^ (f.p - 1) = (if n then 2 ^ f.ebit else 0) + e := by
    rw [parts, Nat.mul_comm, Nat.mul_add_div (Nat.two_pow_pos _), Nat.div_eq_of_lt hr, Nat.add_zero]
  refine ⟨?_, ?_, ?_, ?_⟩
  · rw [width, h.signBit, pack, h.signBit]
    split <;> omega
  · have top : f.pack n e r / 2 ^ (f.p + f.ebit - 1) = n.toNat := by
      rw [h.signBit, Nat.mul_comm, ← Nat.div_div_eq_div_mul, quot]
      cases n
      · simp [Nat.div_eq_of_lt he]
      · simp [Nat.add_div_left _ (Nat.two_pow_pos f.ebit), Nat.div_eq_of_lt he]
    rw [neg, Nat.testBit_eq_decide_div_mod_eq, top]
    cases n <;> rfl
  · rw [exp, quot]
    cases n <;> simp [Nat.mod_eq_of_lt he]
  · rw [frac, parts, Nat.mul_comm, Nat.mul_add_mod, Nat.mod_eq_of_lt hr]

end Narrow

/-! ### Rationals (R501) -/

theorem rat_of_denormal {v : Nat} (he : f.exp v = 0) :
    f.rat v = signed (f.neg v) (f.frac v * 2 ^ (f.emin - f.p + 1)) := by
  rw [rat, signed_eq_mul]
  exact congrArg _ (if_pos he)

theorem rat_of_normal {v : Nat} (he : f.exp v ≠ 0) :
    f.rat v = signed (f.neg v) ((2 ^ (f.p - 1) + f.frac v : Nat) * 2 ^ ((f.exp v : Int) - f.bias - f.p + 1)) := by
  rw [rat, signed_eq_mul]
  push_cast
  exact congrArg _ (if_neg he)

/-! ### The conversion to extended (R525) -/

section Narrow

variable (h : f.Narrow)
include h

/-- The fraction moved to the top of a significand. -/
theorem Narrow.wide_frac_lt (v : Nat) : f.frac v * 2 ^ (64 - f.p) < 2 ^ 63 := by
  have split : 2 ^ 63 = 2 ^ (f.p - 1) * 2 ^ (64 - f.p) := by
    rw [← pow_add]
    have := h.two_le_p
    have := h.p_le
    congr 1
    omega
  rw [split]
  exact Nat.mul_lt_mul_of_pos_right (frac_lt v) (Nat.two_pow_pos _)

/-- The top fraction bit is the one below the integer bit. -/
theorem Narrow.testBit_wide_frac (v : Nat) :
    (2 ^ 63 + f.frac v * 2 ^ (64 - f.p)).testBit 62 = (f.frac v).testBit (f.p - 2) := by
  have := h.two_le_p
  have := h.p_le
  rw [Nat.testBit_two_pow_add_gt (by decide), Nat.testBit_mul_two_pow, decide_eq_true (by omega), Bool.true_and,
    show 62 - (64 - f.p) = f.p - 2 by omega]

end Narrow

end MemFmt

/-- The class of a value with the largest exponent and the integer bit (R502). -/
theorem F80.mk_special_cls (neg : Bool) {r : Nat} (hr : r < 2 ^ 63) : (F80.mk neg 0x7FFF (2 ^ 63 + r)).cls =
    if r = 0 then .infinity else if (2 ^ 63 + r).testBit 62 then .qnan else .snan := by
  have he : (F80.mk neg 0x7FFF (2 ^ 63 + r)).exp = 0x7FFF := F80.mk_exp _ _ _
  have hs : (F80.mk neg 0x7FFF (2 ^ 63 + r)).sig = 2 ^ 63 + r := (F80.mk_sig _ _ _).trans (Nat.mod_eq_of_lt (by omega))
  rw [F80.cls_eq, ← F80.testBit_sig _ (by decide), he, hs]
  simp

theorem F80.mk_normal_cls (neg : Bool) {exp sig : Nat} (h0 : exp ≠ 0) (h1 : exp < 0x7FFF) (h2 : 2 ^ 63 ≤ sig)
    (h3 : sig < 2 ^ 64) : (F80.mk neg exp sig).cls = .normal := by
  rw [F80.cls_normal_iff, F80.mk_exp, F80.mk_sig, Nat.mod_eq_of_lt (by omega), Nat.mod_eq_of_lt h3]
  exact ⟨h0, h1, h2⟩

/-- A magnitude of at most 64 bits within the normal range is encoded as a normal value (R510). -/
theorem encodeReg_normal (neg : Bool) {k : Nat} {q : Int} (hk : k ≠ 0) (h64 : k ≤ 2 ^ 64) (lo : -16382 ≤ (Nat.log2 k : Int) + q)
    (hi : (Nat.log2 k : Int) + q < 16384) :
    ∃ v, encodeReg neg k q = some v ∧ v.Encodes neg (signed neg (k * 2 ^ q)) ∧ v.cls = .normal := by
  obtain ⟨v, value⟩ := encodeReg_isSome neg (fun _ => hi) (.inr lo)
  refine ⟨v, value, encodeReg_encodes (two_pow_dvd_of_le h64) value, ?_⟩
  obtain ⟨-, sigLo, sigHi⟩ := normalized_spec hk (two_pow_dvd_of_le h64)
  rw [encodeReg_of_ne neg q hk, if_neg (by omega), if_pos lo] at value
  rw [← Option.some.inj value]
  exact F80.mk_normal_cls neg (by omega) (by omega) sigLo sigHi

section Load

variable {f : MemFmt} (h : f.Narrow) (v : Nat)
include h

/-- The conversion, by the fields. -/
theorem MemFmt.Narrow.load_eq : f.load v =
    if f.exp v = 2 ^ f.ebit - 1 then ⟨F80.mk (f.neg v) 0x7FFF (2 ^ 63 + f.frac v * 2 ^ (64 - f.p)), false⟩
    else if f.exp v = 0 then
      if f.frac v = 0 then ⟨F80.zero (f.neg v), false⟩
      else ⟨(encodeReg (f.neg v) (f.frac v) (f.emin - f.p + 1)).getD 0, true⟩
    else ⟨F80.mk (f.neg v) (f.exp v + 16383 - f.bias) (2 ^ 63 + f.frac v * 2 ^ (64 - f.p)), false⟩ := by
  rw [MemFmt.load, h.expMax.1, Nat.shiftRight_eq_div_pow, Nat.shiftLeft_eq]
  rfl

/-- A denormal of the format is a normal extended value. -/
theorem MemFmt.Narrow.denormal_encodes (he : f.exp v = 0) (hr : f.frac v ≠ 0) :
    ∃ x, encodeReg (f.neg v) (f.frac v) (f.emin - f.p + 1) = some x ∧ x.Encodes (f.neg v) (f.rat v) ∧ x.cls = .normal := by
  have two := h.two_le_p
  have p_le := h.p_le
  have bias := h.expMax.2
  have small : f.frac v < 2 ^ 64 := (MemFmt.frac_lt v).trans_le (Nat.pow_le_pow_right two_pos (by omega))
  have lead := (Nat.log2_lt hr).mpr small
  have emin : f.emin = 1 - f.bias := rfl
  rw [MemFmt.rat_of_denormal he]
  exact encodeReg_normal _ hr small.le (by omega) (by omega)

/-- A normal value of the format has the same significand and the exponent of another bias. -/
theorem MemFmt.Narrow.normal_encodes (he : f.exp v ≠ 0) (hmax : f.exp v ≠ 2 ^ f.ebit - 1) :
    let x := F80.mk (f.neg v) (f.exp v + 16383 - f.bias) (2 ^ 63 + f.frac v * 2 ^ (64 - f.p))
    x.Encodes (f.neg v) (f.rat v) ∧ x.cls = .normal := by
  have p_le := h.p_le
  have two := h.two_le_p
  have ⟨max, bias⟩ := h.expMax
  have exp_lt : f.exp v < 2 ^ f.ebit - 1 := lt_of_le_of_ne (Nat.le_sub_one_of_lt (MemFmt.exp_lt v)) hmax
  have wide := h.wide_frac_lt v
  refine ⟨?_, F80.mk_normal_cls _ (by omega) (by omega) (by omega) (by omega)⟩
  have encodes := F80.mk_normal_encodes (f.neg v) (exp := f.exp v + 16383 - f.bias)
    (sig := 2 ^ 63 + f.frac v * 2 ^ (64 - f.p)) (by omega) (by omega) (by omega) (by omega)
  have sig : 2 ^ 63 + f.frac v * 2 ^ (64 - f.p) = (2 ^ (f.p - 1) + f.frac v) * 2 ^ (64 - f.p) := by
    rw [Nat.add_mul, ← pow_add, show f.p - 1 + (64 - f.p) = 63 by omega]
  have exponent : ((64 - f.p : Nat) : Int) + ((f.exp v + 16383 - f.bias : Nat) - 16446) = f.exp v - f.bias - f.p + 1 := by
    omega
  rw [MemFmt.rat_of_normal he, ← exponent, ← two_pow_mul_zpow, ← mul_assoc]
  rw [sig, Nat.cast_mul, Nat.cast_pow, Nat.cast_ofNat] at encodes
  rwa [sig]

/-- A single or double value converts exactly (R501, R502, R525). -/
theorem MemFmt.Narrow.load_loads : f.Loads v (f.load v) := by
  have wide := h.wide_frac_lt v
  rw [h.load_eq, MemFmt.Loads]
  split
  · next special =>
    have special : f.exp v = 2 ^ f.ebit - 1 := special
    have cls := F80.mk_special_cls (f.neg v) wide
    simp only [h.testBit_wide_frac, Nat.mul_eq_zero, (Nat.two_pow_pos _).ne', or_false] at cls
    rw [if_pos special]
    exact ⟨rfl, F80.mk_neg _ _ _, F80.mk_exp _ _ _, (F80.mk_sig _ _ _).trans (Nat.mod_eq_of_lt (by omega)), cls⟩
  next finite =>
  have finite : f.exp v ≠ 2 ^ f.ebit - 1 := finite
  change _ = decide (f.exp v = 0 ∧ f.frac v ≠ 0) ∧ _ ∧ _ = f.neg v ∧ _ ∧
    _ = if f.exp v = 0 ∧ f.frac v = 0 then FClass.zero else .normal
  rw [if_neg finite]
  by_cases he : f.exp v = 0
  · rw [if_pos he]
    by_cases hr : f.frac v = 0
    · rw [if_pos hr, if_pos ⟨he, hr⟩, MemFmt.rat_of_denormal he, hr]
      exact ⟨by simp, F80.zero_finite _, F80.zero_neg _, by simp [F80.zero_rat], F80.zero_cls _⟩
    · obtain ⟨x, value, ⟨fin, rat, neg, -⟩, cls⟩ := h.denormal_encodes v he hr
      rw [if_neg hr, value, if_neg (fun both => hr both.2)]
      exact ⟨by simp [he, hr], fin, neg, rat, cls⟩
  · obtain ⟨⟨fin, rat, neg, -⟩, cls⟩ := h.normal_encodes v he finite
    rw [if_neg he, if_neg (fun both => he both.1)]
    exact ⟨by simp [he], fin, neg, rat, cls⟩

end Load

end Sys2Proof.Machine
end

section
/-! FLD, FILD, FBLD and the constants under any masks (47_fpu_transfer_arith.md R570 to R572,
48_fpu_compare_trans_control.md R659 to R665, O35): what a push gives by its kind, the exact values of integers and of BCD numbers, and the loads from memory. -/

namespace Sys2Proof.Machine

/-! ### Pushes (46_fpu_model.md R512, R515, R540) -/

/-- A push on a full stack, under any masks (R540). -/
def overflowResult (c : FCtl) : FRes F80 := { exc := xIE ||| xSF, res := if c.im then some F80.indefinite else none, c1 := true }

/-- A value pushed with no check of its own. -/
def plainResult (v : F80) : FRes F80 := { exc := 0, res := some v, c1 := false }

/-- A single or double converted: a signalling NaN and a denormal are looked at (R513, R515). -/
def convResult (c : FCtl) (o : Opnd) : FRes F80 :=
  if o.v.cls = .snan then invalidGives c o.v.quiet
  else if o.den then { exc := xDE, res := if c.dm then some o.v else none, c1 := false }
  else plainResult o.v

namespace Fpu

variable (f : Fpu)

theorem GivesPush.congr {f g h : Fpu} {r : FRes F80} (e : h.data = g.data) (hg : f.GivesPush g r) : f.GivesPush h r := by
  obtain ⟨flagged, stack⟩ := hg
  refine ⟨flagged.congr e, ?_⟩
  cases hr : r.res with
  | none =>
    rw [hr] at stack
    exact StackIs.congr e stack
  | some v =>
    rw [hr] at stack
    exact StackIs.congr e stack

/-- A push leaves CW as it is. -/
theorem GivesPush.cw {f g : Fpu} {r : FRes F80} (h : f.GivesPush g r) : g.cw = f.cw := by
  obtain ⟨-, stack⟩ := h
  split at stack
  · exact stack.1
  · exact stack.1

/-- Flags set, and then a value pushed where there is one. -/
def pushRes (r : FRes F80) : Fpu :=
  let g := (f.raiseExc r.exc).setC1 r.c1
  match r.res with
  | none => g
  | some v => g.pushRaw v

theorem pushRes_gives (r : FRes F80) : f.GivesPush (f.pushRes r) r := by
  unfold GivesPush pushRes
  cases r.res with
  | none => exact ⟨f.raise_flagged _ _, rfl, rfl, fun _ => ⟨rfl, rfl⟩⟩
  | some v => exact ⟨f.raiseExc_flagged _ _ (f.top - 1), ((f.raiseExc r.exc).setC1 r.c1).pushRaw_pushed v⟩

/-- A value pushed where its exception is masked. -/
theorem pushRes_masked (exc : BitVec 16) (c1 masked : Bool) (v : F80) :
    f.pushRes { exc := exc, res := if masked then some v else none, c1 := c1 } =
      if masked then ((f.raiseExc exc).setC1 c1).pushRaw v else (f.raiseExc exc).setC1 c1 := by
  cases masked <;> rfl

theorem pushRes_plain (v : F80) : f.pushRes (plainResult v) = (f.setC1 false).pushRaw v := by
  simp [pushRes, plainResult, raiseExc]

/-- A push is an overflow on a full stack, and the value pushed else (R540). -/
theorem loadBits_eq (v : F80) : f.loadBits v = f.pushRes (if !f.isEmpty 7 then overflowResult f.ctl else plainResult v) := by
  have room : (f.setC1 false).isEmpty 7 = f.isEmpty 7 := rfl
  rw [loadBits, push, room]
  cases f.isEmpty 7 with
  | true => exact (f.pushRes_plain v).symm
  | false =>
    rw [overflowResult, f.ctl_im]
    exact (f.pushRes_masked (xIE ||| xSF) true f.im F80.indefinite).symm

/-- A single or double pushed: the stack is looked at first (notes/assumptions/20.md). -/
theorem loadConv_eq (o : Opnd) :
    f.loadConv o = f.pushRes (if !f.isEmpty 7 then overflowResult f.ctl else convResult f.ctl o) := by
  have full := f.loadBits_eq o.v
  have room : (f.setC1 false).isEmpty 7 = f.isEmpty 7 := rfl
  rw [loadConv, room]
  cases h : f.isEmpty 7 with
  | false =>
    rw [h] at full
    exact full
  | true =>
    unfold convResult
    by_cases snan : o.v.cls = .snan
    · rw [if_pos snan]
      have snan : (o.v.cls == .snan) = true := beq_iff_eq.mpr snan
      rw [snan, invalidGives, f.ctl_im]
      exact (f.pushRes_masked xIE false f.im o.v.quiet).symm
    · rw [if_neg snan]
      have quiet : (o.v.cls == .snan) = false := beq_eq_false_iff_ne.mpr snan
      rw [quiet]
      cases o.den with
      | true => exact (f.pushRes_masked xDE false f.ctl.dm o.v).symm
      | false => exact (f.pushRes_plain o.v).symm

/-- A register pushed: an empty one is an underflow, and then perhaps an overflow (R512, R540, R570). -/
theorem loadSt_gives (k : BitVec 3) : f.GivesPush (f.loadSt k)
    (if f.isEmpty k then
        { exc := xIE ||| xSF, res := if f.ctl.im then some F80.indefinite else none, c1 := f.ctl.im && !f.isEmpty 7 }
      else if !f.isEmpty 7 then overflowResult f.ctl else plainResult (f.st k)) := by
  unfold loadSt
  split
  · have im : ((f.raiseExc (xIE ||| xSF)).setC1 false).im = f.im := rfl
    have room : ((f.raiseExc (xIE ||| xSF)).setC1 false).isEmpty 7 = f.isEmpty 7 := rfl
    dsimp only
    rw [f.ctl_im, im]
    cases him : f.im with
    | false => exact f.pushRes_gives { exc := xIE ||| xSF, res := none, c1 := false }
    | true =>
      rw [if_pos rfl]
      cases h7 : f.isEmpty 7 with
      | true =>
        rw [push, room, h7]
        exact f.pushRes_gives { exc := xIE ||| xSF, res := some F80.indefinite, c1 := false }
      | false =>
        rw [push_full (room.trans h7) (im.trans him), f.overflowed_after_fault]
        exact f.pushRes_gives { exc := xIE ||| xSF, res := some F80.indefinite, c1 := true }
  · rw [f.loadBits_eq]
    exact f.pushRes_gives _

@[simp] theorem pushRes_fdp (r : FRes F80) : (f.pushRes r).fdp = f.fdp := by
  unfold pushRes
  cases r.res <;> rfl

@[simp] theorem loadBits_fdp (v : F80) : (f.loadBits v).fdp = f.fdp := by rw [loadBits_eq, pushRes_fdp]

@[simp] theorem loadConv_fdp (o : Opnd) : (f.loadConv o).fdp = f.fdp := by rw [loadConv_eq, pushRes_fdp]

@[simp] theorem loadSt_fdp (k : BitVec 3) : (f.loadSt k).fdp = f.fdp := by
  unfold loadSt
  split
  · dsimp only
    split
    · exact push_fdp _ _
    · rfl
  · exact f.loadBits_fdp _

end Fpu

/-! ### Exact values (46_fpu_model.md R505, R525) -/

/-- An integer of a register's width, in the format. -/
theorem intToF80_toInt_encodes {n : Nat} (hn : n ≤ 64) (x : BitVec n) :
    (intToF80 x.toInt).Encodes (decide (x.toInt < 0)) x.toInt := by
  refine intToF80_encodes ?_
  have lo := BitVec.le_two_mul_toInt (x := x)
  have hi := BitVec.two_mul_toInt_lt (x := x)
  have wide : (2 : Int) ^ n ≤ 2 ^ 64 := by exact_mod_cast Nat.pow_le_pow_right Nat.two_pos hn
  omega

/-- Decimal digits stand for a number below a power of ten. -/
theorem bcdValue_lt {n v : Nat} (h : bcdValid n v = true) : bcdValue n v < 10 ^ n := by
  induction n generalizing v with
  | zero => exact Nat.one_pos
  | succ n ih =>
    rw [bcdValid, Bool.and_eq_true, decide_eq_true_iff] at h
    have rest := ih h.2
    rw [bcdValue, pow_succ]
    omega

/-- A valid BCD number, in the format. -/
theorem bcd_encodes {v : Nat} (h : bcdValid 18 v = true) (neg : Bool) :
    ∃ x, encodeReg neg (bcdValue 18 v) 0 = some x ∧ x.Encodes neg (signed neg (bcdValue 18 v)) := by
  have le : bcdValue 18 v ≤ 2 ^ 64 := (bcdValue_lt h).le.trans (by norm_num)
  have hi (hk : bcdValue 18 v ≠ 0) : (Nat.log2 (bcdValue 18 v) : Int) + 0 < 16384 := by
    have := (Nat.log2_lt hk).mpr (le.trans_lt (Nat.pow_lt_pow_succ one_lt_two))
    omega
  obtain ⟨x, value⟩ := encodeReg_isSome neg hi (.inl (by norm_num))
  have encodes := encodeReg_encodes (two_pow_dvd_of_le le) value
  rw [zpow_zero, mul_one] at encodes
  exact ⟨x, value, encodes⟩

/-- A constant whose lower value is the nearest. -/
theorem constBy_away (rc : Rc) (lo up : F80) : constBy rc lo up lo = if rc = .up then up else lo := by cases rc <;> rfl

/-- A constant whose upper value is the nearest. -/
theorem constBy_near (rc : Rc) (lo up : F80) : constBy rc lo up up = if rc = .nearest ∨ rc = .up then up else lo := by
  cases rc <;> rfl

/-! ### Loads -/

section Loads

variable {s : State} {i : Instr} {r : FRes F80}

/-- An instruction that pushes. -/
theorem State.fpuEnd_pushes {fdp : Option Nat} {g : Fpu} (h : exec i s = finish ((s.setFpu g).useDraw.fpuEnd i fdp))
    {u : Fpu} (gives : s.fpu.GivesPush u r) (data : g.data = u.data) (hfdp : g.fdp = s.fpu.fdp) :
    s.FpuLeaves i fdp fun e => s.fpu.GivesPush e r :=
  State.fpuEnd_gives h ((congrArg Prod.fst data).trans gives.cw) hfdp fun _ he _ => gives.congr (he.trans data)

/-- A load of a value with no check of its own. -/
theorem State.fpuConst_pushes {v : F80} (h : exec i s = finish (s.fpuConst i v)) : s.FpuLeaves i none fun e =>
    s.fpu.GivesPush e (if !s.fpu.isEmpty 7 then overflowResult s.fpu.ctl else plainResult v) :=
  State.fpuEnd_pushes (g := s.fpu.loadBits v) h (s.fpu.pushRes_gives _) (by rw [Fpu.loadBits_eq]) (by simp)

/-- A load from memory that is backed. -/
theorem State.fpuLoad_pushes {m : Mem} {n : Nat} {op : Fpu → Nat → Fpu} (h : exec i s = finish (s.fpuLoad i m n op))
    (hb : s.Backed (s.memAddr i.prefixes m) n) (hop : op s.fpu (s.bytesAt (s.memAddr i.prefixes m) n) = s.fpu.pushRes r) :
    s.FpuLeaves i (some (s.memAddr i.prefixes m)) fun e => s.fpu.GivesPush e r :=
  State.fpuEnd_pushes (h.trans (congrArg finish (State.fpuLoad_backed op hb))) (s.fpu.pushRes_gives r)
    (by rw [hop, Fpu.data_drawCodes]) (by rw [hop]; simp)

end Loads

/-- Settles O35: a load pushes its value after the checks of the stack and, for a single or double, of the operand; each value is
exact in the extended format. -/
theorem fpuLoadResult : Obligations.FpuLoadResult := by
  intro p s f c full ends pushes done loads isInt
  have const {i : Instr} {v : F80} (h : exec i s = finish (s.fpuConst i v)) : done i none v := State.fpuConst_pushes h
  have constAway {i : Instr} {lo up : F80} (h : exec i s = finish (s.fpuConst i (constBy f.rc lo up lo))) :
      done i none (if f.rc = .up then up else lo) := constBy_away f.rc lo up ▸ const h
  have constNear {i : Instr} {lo up : F80} (h : exec i s = finish (s.fpuConst i (constBy f.rc lo up up))) :
      done i none (if f.rc = .nearest ∨ f.rc = .up then up else lo) := constBy_near f.rc lo up ▸ const h
  have bits {i : Instr} {m : Mem} {n : Nat} {op : Fpu → Nat → Fpu} {v : F80} (h : exec i s = finish (s.fpuLoad i m n op))
      (hop : op f (s.bytesAt (s.memAddr i.prefixes m) n) = f.loadBits v) (hb : s.Backed (s.memAddr i.prefixes m) n) :
      done i (some (s.memAddr i.prefixes m)) v :=
    State.fpuLoad_pushes h hb (hop.trans (f.loadBits_eq v))
  have real {i : Instr} {m : Mem} {n : Nat} {op : Fpu → Nat → Fpu} {o : Opnd} (h : exec i s = finish (s.fpuLoad i m n op))
      (hop : op f (s.bytesAt (s.memAddr i.prefixes m) n) = f.loadConv o) (hb : s.Backed (s.memAddr i.prefixes m) n) :
      loads i (some (s.memAddr i.prefixes m)) o :=
    State.fpuLoad_pushes h hb (hop.trans (f.loadConv_eq o))
  have single := MemFmt.single_narrow.load_loads
  have double := MemFmt.double_narrow.load_loads
  refine ⟨fun v => ⟨single v, double v⟩, fun i lo hi => intToF80_encodes (by omega), fun m => ?_, fun k => ?_,
    const rfl, const rfl, ?_⟩
  · intro a
    refine ⟨fun hb => ⟨_, single _, real (i := .fld p (.m32 m)) rfl rfl hb⟩,
      fun hb => ⟨_, double _, real (i := .fld p (.m64 m)) rfl rfl hb⟩,
      bits (i := .fld p (.m80 m)) rfl rfl,
      fun hb => ⟨_, intToF80_toInt_encodes (by decide) _, bits (i := .fild p (.m16 m)) rfl rfl hb⟩,
      fun hb => ⟨_, intToF80_toInt_encodes (by decide) _, bits (i := .fild p (.m32 m)) rfl rfl hb⟩,
      fun hb => ⟨_, intToF80_toInt_encodes (by decide) _, bits (i := .fild p (.m64 m)) rfl rfl hb⟩,
      fun hb => ⟨_, fun valid => ?_, bits (i := .fbld p m) rfl rfl hb⟩⟩
    obtain ⟨x, value, fin, rat, neg, -⟩ := bcd_encodes valid ((s.bytesAt a 10).testBit 79)
    have read : (if bcdValid 18 (s.bytesAt a 10) = true then
        (encodeReg ((s.bytesAt a 10).testBit 79) (bcdValue 18 (s.bytesAt a 10)) 0).getD 0 else drawF80 s.drawn) = x := by
      rw [if_pos valid, value]
      rfl
    exact read ▸ ⟨fin, neg, by rw [rat, abs_signed, Nat.abs_cast]⟩
  · have gives : s.FpuLeaves (.fld p (.st k)) none _ :=
      State.fpuEnd_pushes (g := (s.fpu.loadSt k).drawCodes s.drawn) rfl (s.fpu.loadSt_gives k) (Fpu.data_drawCodes _ _) (by simp)
    split
    · next empty =>
      rw [if_pos empty] at gives
      exact gives
    · next present =>
      rw [if_neg present] at gives
      exact gives
  · exact ⟨constAway rfl, constNear rfl, constNear rfl, constNear rfl, constNear rfl⟩

end Sys2Proof.Machine
end

section
/-! Delivery to memory (46_fpu_model.md R501, R509, R523): the encoding of a rounded value in a single or double, and the three
ranges of the rounded value. -/

namespace Sys2Proof.Machine

/-! ### The encoding (R501) -/

namespace MemFmt

/-- A number shifted so that it has p bits. -/
def leading (f : MemFmt) (k : Nat) : Nat :=
  if f.p ≤ Nat.log2 k then k >>> (Nat.log2 k + 1 - f.p) else k <<< (f.p - 1 - Nat.log2 k)

variable {f : MemFmt} (h : f.Narrow)
include h

/-- A value packed with the exponent 0 is its fraction, in units of the least denormal. -/
theorem Narrow.pack_denormal_encodes (neg : Bool) {r : Nat} (hr : r < 2 ^ (f.p - 1)) :
    f.Encodes (f.pack neg 0 r) neg (signed neg (r * 2 ^ (f.emin - f.p + 1))) := by
  obtain ⟨lt, sign, exp, frac⟩ := h.pack_fields neg (Nat.two_pow_pos _) hr
  exact ⟨lt, sign, by rw [rat_of_denormal exp, sign, frac]⟩

/-- A value packed with another exponent has the implicit bit. -/
theorem Narrow.pack_normal_encodes (neg : Bool) {e k : Nat} (h0 : e ≠ 0) (he : e < 2 ^ f.ebit) (lo : 2 ^ (f.p - 1) ≤ k)
    (hi : k < 2 ^ f.p) :
    f.Encodes (f.pack neg e (k - 2 ^ (f.p - 1))) neg (signed neg (k * 2 ^ ((e : Int) - f.bias - f.p + 1))) := by
  have width : 2 ^ f.p = 2 * 2 ^ (f.p - 1) := by
    rw [← pow_succ', Nat.sub_add_cancel (by have := h.two_le_p; omega)]
  obtain ⟨lt, sign, exp, frac⟩ := h.pack_fields neg he (r := k - 2 ^ (f.p - 1)) (by omega)
  refine ⟨lt, sign, ?_⟩
  rw [rat_of_normal (by rwa [exp]), sign, exp, frac, Nat.add_sub_cancel' lo]

/-- A number of at most p bits, or the next power of two, loses no bit by it. -/
theorem Narrow.leading_spec {k : Nat} (hk : k ≠ 0) (hle : k ≤ 2 ^ f.p) :
    (f.leading k : ℚ) * 2 ^ ((Nat.log2 k : Int) - f.p + 1) = k ∧ 2 ^ (f.p - 1) ≤ f.leading k ∧ f.leading k < 2 ^ f.p := by
  have two := h.two_le_p
  have lo := Nat.log2_self_le hk
  have hi : k < 2 ^ (Nat.log2 k + 1) := Nat.lt_log2_self
  rw [leading]
  split
  · next wide =>
    have log : Nat.log2 k = f.p := by
      have := (Nat.log2_lt hk).mpr (hle.trans_lt (Nat.pow_lt_pow_succ one_lt_two))
      omega
    rw [log] at lo ⊢
    obtain rfl : k = 2 ^ f.p := le_antisymm hle lo
    have half : 2 ^ f.p >>> (f.p + 1 - f.p) = 2 ^ (f.p - 1) := by
      rw [Nat.shiftRight_eq_div_pow, Nat.add_sub_cancel_left, Nat.pow_div (by omega) two_pos]
    rw [half]
    refine ⟨?_, le_rfl, Nat.pow_lt_pow_right (by decide) (by omega)⟩
    push_cast
    rw [sub_self, zero_add, zpow_one, ← pow_succ, Nat.sub_add_cancel (by omega)]
  · next narrow =>
    obtain ⟨j, hj⟩ := Nat.exists_eq_add_of_le (Nat.le_sub_one_of_lt (not_le.mp narrow))
    rw [show f.p - 1 - Nat.log2 k = j by omega, Nat.shiftLeft_eq, show (Nat.log2 k : Int) - f.p + 1 = -j by omega, zpow_neg,
      zpow_natCast]
    refine ⟨?_, ?_, ?_⟩
    · push_cast
      rw [mul_assoc, mul_inv_cancel₀ (by positivity), mul_one]
    · rw [hj, pow_add]
      exact Nat.mul_le_mul_right _ lo
    · rw [show f.p = Nat.log2 k + 1 + j by omega, pow_add]
      exact Nat.mul_lt_mul_of_pos_right hi (Nat.two_pow_pos j)

/-- What `encode` answers in the range of the format is the value (R501). -/
theorem Narrow.encode_encodes (neg : Bool) {k : Nat} {q : Int} (hle : k ≤ 2 ^ f.p) (lo : f.emin - f.p + 1 ≤ q)
    (hi : k ≠ 0 → (Nat.log2 k : Int) + q ≤ f.bias) : f.Encodes (f.encode neg k q) neg (signed neg (k * 2 ^ q)) := by
  rcases eq_or_ne k 0 with rfl | hk
  · have zero := h.pack_denormal_encodes neg (r := 0) (Nat.two_pow_pos _)
    rw [Nat.cast_zero, zero_mul] at zero ⊢
    exact zero
  have ⟨max, bias⟩ := h.expMax
  have emin : f.emin = 1 - f.bias := rfl
  have encode : f.encode neg k q = if f.emin ≤ (Nat.log2 k : Int) + q then
      f.pack neg ((Nat.log2 k : Int) + q + f.bias).toNat (f.leading k - 2 ^ (f.p - 1))
    else f.pack neg 0 (k <<< (q - (f.emin - f.p + 1)).toNat) := if_neg hk
  rw [encode]
  split
  · next normal =>
    obtain ⟨value, sigLo, sigHi⟩ := h.leading_spec hk hle
    have top := hi hk
    have encodes := h.pack_normal_encodes neg (e := ((Nat.log2 k : Int) + q + f.bias).toNat) (by omega) (by omega) sigLo sigHi
    rw [Int.toNat_of_nonneg (by omega)] at encodes
    rw [← value, mul_assoc, ← zpow_add₀ two_ne_zero]
    convert encodes using 4
    ring
  · next low =>
    obtain ⟨j, hj⟩ := Int.eq_ofNat_of_zero_le (by omega : 0 ≤ q - (f.emin - f.p + 1))
    have small : k * 2 ^ j < 2 ^ (f.p - 1) :=
      calc k * 2 ^ j < 2 ^ (Nat.log2 k + 1) * 2 ^ j := Nat.mul_lt_mul_of_pos_right Nat.lt_log2_self (Nat.two_pow_pos j)
        _ = 2 ^ (Nat.log2 k + 1 + j) := (pow_add _ _ _).symm
        _ ≤ 2 ^ (f.p - 1) := Nat.pow_le_pow_right two_pos (by omega)
    rw [hj, Int.toNat_natCast, Nat.shiftLeft_eq]
    convert h.pack_denormal_encodes neg small using 2
    rw [show q = j + (f.emin - f.p + 1) by omega, ← two_pow_mul_zpow, Nat.cast_mul, Nat.cast_pow, Nat.cast_ofNat, mul_assoc]

/-- The largest finite value (R509). -/
theorem Narrow.largest_encodes (neg : Bool) : f.Encodes (f.pack neg (2 * f.bias) (2 ^ (f.p - 1) - 1)) neg
    ((if neg then -1 else 1) * (2 ^ f.p - 1) * 2 ^ (f.bias + 1 - f.p)) := by
  have ⟨max, bias⟩ := h.expMax
  have width : 2 ^ f.p = 2 * 2 ^ (f.p - 1) := by
    rw [← pow_succ', Nat.sub_add_cancel (by have := h.two_le_p; omega)]
  have pos := Nat.two_pow_pos (f.p - 1)
  have p_le := h.p_le_bias
  have two := h.two_le_p
  have encodes := h.pack_normal_encodes neg (e := 2 * f.bias) (k := 2 ^ f.p - 1) (by omega) (by omega) (by omega) (by omega)
  have one : 1 ≤ 2 ^ f.p := Nat.one_le_two_pow
  rw [show 2 ^ f.p - 1 - 2 ^ (f.p - 1) = 2 ^ (f.p - 1) - 1 by omega,
    show ((2 * f.bias : Nat) : Int) - f.bias - f.p + 1 = (f.bias + 1 - f.p : Nat) by omega, zpow_natCast, Nat.cast_sub one,
    Nat.cast_pow, Nat.cast_ofNat, Nat.cast_one] at encodes
  rw [mul_assoc, signed_eq_mul]
  exact encodes

end MemFmt

/-! ### The delivery (R509) -/

section Deliver

variable (c : FCtl) {f : MemFmt} (hf : f.Narrow) (neg : Bool) {a : Approx} {x : ℚ} (h : a.Is x) (hx : 0 < x)
include hf h hx

/-- A value rounded with the lower exponent limit is in the range of the format where that without it is. -/
theorem roundE_encodes_mem (hi : (roundU c.rc neg f.p a).top < f.bias + 1) :
    let r := roundE c.rc neg f.p f.emin a
    f.Encodes (f.encode neg r.k r.q) neg (r.rat neg) := by
  intro r
  have two := hf.two_le_p
  have p_le := hf.p_le
  have p_le_bias := hf.p_le_bias
  have emin : f.emin = 1 - f.bias := rfl
  have le := (roundE_rounds c.rc neg h hx (by omega : 0 < f.p) (by omega) f.emin).le
  have q : r.q = max (a.top - f.p + 1) (f.emin - f.p + 1) := roundAt_q _ _ _ _
  refine hf.encode_encodes neg le (by omega) fun hk => ?_
  rcases le_or_gt f.emin a.top with ht | ht
  · have same : r = roundU c.rc neg f.p a := by
      show roundE _ _ _ _ _ = _
      rw [roundE, roundU, max_eq_left (by omega)]
    rw [same]
    exact Int.lt_add_one_iff.mp hi
  · have : Nat.log2 r.k ≤ f.p := by
      have := (Nat.log2_lt hk).mpr (le.trans_lt (Nat.pow_lt_pow_succ one_lt_two))
      omega
    omega

/-- `deliverMem` delivers as R509 says. -/
theorem deliverMem_delivers : f.Delivers c (signed neg x) (deliverMem c f neg a) := by
  have two := hf.two_le_p
  have hp : 0 < f.p := by omega
  have hp64 : f.p ≤ 64 := hf.p_le.trans (by decide)
  set r0 := roundU c.rc neg f.p a with hr0
  set r := roundE c.rc neg f.p f.emin a
  have hU : r0.Rounds c.rc f.p none neg x := roundU_rounds c.rc neg h hx hp hp64
  have hE : r.Rounds c.rc f.p (some f.emin) neg x := roundE_rounds c.rc neg h hx hp hp64 _
  have hk : r0.k ≠ 0 := by
    have lo : 2 ^ (f.p - 1) ≤ r0.k := two_pow_le_roundU c.rc neg h hx hp hp64
    have := Nat.two_pow_pos (f.p - 1)
    omega
  have overflow : (2 : ℚ) ^ (f.bias + 1) ≤ |r0.rat neg| ↔ (f.bias : Int) + 1 ≤ r0.top := by
    rw [r0.abs_rat, ← zpow_natCast]
    exact two_zpow_le_dyadic hk _ _
  have tiny : |r0.rat neg| < (2 : ℚ) ^ f.emin ↔ r0.top < f.emin := by
    rw [r0.abs_rat, ← not_le, ← not_le]
    exact not_congr (two_zpow_le_dyadic hk _ _)
  unfold MemFmt.Delivers
  simp only [← signed_lt_zero hx]
  refine ⟨r0.rat neg, hU.selects, ?_⟩
  rw [deliverMem, ← hr0]
  simp only [overflow, tiny]
  split
  · next big =>
    split
    · next hom =>
      rw [overflowsToInf_eq]
      refine ⟨rfl, rfl, ?_⟩
      by_cases away : ToInfinity c.rc neg
      · rw [if_pos away]
        exact congrArg some (if_pos (decide_eq_true away))
      · rw [if_neg away]
        exact ⟨_, congrArg some (if_neg (by simp [away])), hf.largest_encodes neg⟩
    · rfl
  · next big =>
    have range := roundE_encodes_mem c hf neg h hx (not_le.mp big)
    split
    · next small =>
      split
      · next hum =>
        refine ⟨_, hE.selects, ?_, hE.above, _, rfl, range⟩
        rw [hE.inexact]
        by_cases same : r.rat neg = signed neg x
        · simp [same]
        · simp [same]
      · rfl
    · exact ⟨_, hE.selects, by rw [hE.inexact], hE.above, _, rfl, range⟩

end Deliver

end Sys2Proof.Machine
end

section
/-! FST, FSTP, FIST, FISTP and FBSTP under any masks (47_fpu_transfer_arith.md R573 to R577, 46_fpu_model.md R504, R522 to R524, O37):
the conversion of a register value to each format, and the store with its pop. -/

namespace Sys2Proof.Machine

/-! ### NaNs in a memory format (R523) -/

/-- A NaN quieted keeps its sign and the fraction below the quiet bit. -/
theorem F80.quiet_fields (x : F80) :
    x.quiet.neg = x.neg ∧ x.quiet.sig.testBit 62 = true ∧ x.quiet.sig % 2 ^ 62 = x.sig % 2 ^ 62 := by
  refine ⟨?_, ?_, Nat.eq_of_testBit_eq fun k => ?_⟩
  · rw [F80.neg, x.getLsbD_quiet (by decide)]
    exact Bool.or_false _
  · rw [F80.testBit_sig _ (by decide), x.getLsbD_quiet (by decide)]
    exact Bool.or_true _
  · rw [Nat.testBit_mod_two_pow, Nat.testBit_mod_two_pow]
    by_cases hk : k < 62
    · rw [F80.testBit_sig _ (by omega), F80.testBit_sig _ (by omega), x.getLsbD_quiet (by omega), decide_eq_false hk.ne,
        Bool.or_false]
    · rw [decide_eq_false hk, Bool.false_and, Bool.false_and]

theorem F80.testBit_of_qnan {x : F80} (h : x.cls = .qnan) : x.sig.testBit 62 = true := by
  rw [x.cls_eq] at h
  rw [F80.testBit_sig _ (by decide)]
  split_ifs at h with h0 h1 h2 h3 h4 h5
  exact h5

/-- A quiet NaN stores with its top fraction bits. -/
theorem MemFmt.Narrow.nan_eq {f : MemFmt} (hf : f.Narrow) {x : F80} (quiet : x.sig.testBit 62 = true) :
    f.nan x = f.pack x.neg (2 * f.bias + 1) (2 ^ (f.p - 2) + x.sig % 2 ^ 62 / 2 ^ (64 - f.p)) := by
  have two := hf.two_le_p
  have p_le := hf.p_le
  rw [Nat.testBit_eq_decide_div_mod_eq, decide_eq_true_iff] at quiet
  have top : x.sig % 2 ^ 63 = 2 ^ (f.p - 2) * 2 ^ (64 - f.p) + x.sig % 2 ^ 62 := by
    rw [← pow_add, show f.p - 2 + (64 - f.p) = 62 by omega]
    omega
  rw [MemFmt.nan, Nat.shiftRight_eq_div_pow, top, Nat.mul_comm (2 ^ (f.p - 2)), Nat.mul_add_div (Nat.two_pow_pos _)]

/-! ### Conversions -/

/-- A register value converts to a single or double store as R523 says. -/
theorem MemFmt.Narrow.convertStore_converts {f : MemFmt} (hf : f.Narrow) (c : FCtl) (x : F80) :
    f.Converts (f.nan F80.indefinite) c x (convertStore c f x) := by
  have finite (h : x.FiniteNonzero) : f.Delivers c x.rat (deliverMem c f x.neg ⟨x.sig, x.val.exp, false⟩) := by
    have pos : (0 : ℚ) < x.sig * 2 ^ x.val.exp := x.abs_rat ▸ abs_pos.mpr h.rat_ne
    rw [x.rat_eq]
    exact deliverMem_delivers c hf x.neg rfl pos
  unfold MemFmt.Converts convertStore
  cases cls : x.cls with
  | zero | infinity | unsupported => rfl
  | denormal => exact finite (.inl cls)
  | normal => exact finite (.inr cls)
  | qnan =>
    rw [hf.nan_eq (F80.testBit_of_qnan cls)]
  | snan =>
    obtain ⟨neg, quiet, low⟩ := x.quiet_fields
    rw [hf.nan_eq quiet, neg, low]
    rfl

/-- The integer that RC selects for a value, from its rounded magnitude (R522). -/
theorem F80.roundInt_spec (rc : Rc) (x : F80) :
    roundToInt rc x.rat = (if x.neg then -((x.roundInt rc).k : Int) else (x.roundInt rc).k) ∧
      (x.roundInt rc).inexact = decide ((roundToInt rc x.rat : ℚ) ≠ x.rat) ∧
      (x.roundInt rc).above = decide (|x.rat| < |(roundToInt rc x.rat : ℚ)|) := by
  obtain ⟨d, -, way, small, inexact, above, selects⟩ := roundAt_steps rc x.neg (q := 0) x.approx_is nofun
  change (x.roundInt rc).inexact = true ↔ _ at inexact
  change (x.roundInt rc).above = true ↔ _ at above
  change ((x.roundInt rc).k : ℚ) * _ - _ = _ at way
  rw [zpow_zero, mul_one, mul_one] at way
  have rat : x.rat = signed x.neg |x.rat| := by rw [x.abs_rat, ← x.rat_eq]
  have integer := roundToInt_of_step (abs_nonneg x.rat) way small selects
  rw [← rat] at integer
  have value : (roundToInt rc x.rat : ℚ) = signed x.neg (x.roundInt rc).k := by
    rw [integer]
    cases x.neg <;> simp [signed]
  refine ⟨integer, ?_, ?_⟩
  · rw [Bool.eq_iff_iff, inexact, decide_eq_true_iff, value]
    nth_rw 1 [rat]
    rw [Ne, Ne, signed_inj, ← way, sub_eq_zero]
  · rw [Bool.eq_iff_iff, above, decide_eq_true_iff, value, abs_signed, Nat.abs_cast, ← way, sub_pos]

/-- The rounded magnitude is that of the integer. -/
theorem F80.abs_roundToInt (rc : Rc) (x : F80) : |roundToInt rc x.rat| = (x.roundInt rc).k := by
  rw [(x.roundInt_spec rc).1]
  cases x.neg <;> simp

/-- A class that is not finite. -/
theorem F80.cls_of_not_finite {x : F80} (h : ¬ x.Finite) :
    x.cls = .infinity ∨ x.cls = .qnan ∨ x.cls = .snan ∨ x.cls = .unsupported := by
  unfold F80.Finite at h
  cases cls : x.cls <;> simp_all

theorem convertInt_of_finite (c : FCtl) (n : Nat) {x : F80} (h : x.Finite) :
    let i := roundToInt c.rc x.rat
    convertInt c n x = if i < -(2 ^ (8 * n - 1)) ∨ 2 ^ (8 * n - 1) ≤ i then invalidGives c (2 ^ (8 * n - 1))
      else { exc := peIf (decide ((i : ℚ) ≠ x.rat)), res := some (i % 2 ^ (8 * n)).toNat
             c1 := decide (|x.rat| < |(i : ℚ)|) } := by
  intro i
  obtain ⟨integer, inexact, above⟩ := x.roundInt_spec c.rc
  have residue : (BitVec.ofInt (8 * n) i).toNat = (i % 2 ^ (8 * n)).toNat := by
    rw [BitVec.toNat_ofInt]
    push_cast
    rfl
  rw [← residue, ← inexact, ← above]
  simp only [i, integer]
  rcases h with h | h | h <;> (rw [convertInt, h]; rfl)

/-- A register value converts to an integer of n bytes as R522 says. -/
theorem convertInt_converts (c : FCtl) (n : Nat) (x : F80) : ConvertsInt n c x (convertInt c n x) := by
  unfold ConvertsInt
  by_cases fin : x.Finite
  · rw [convertInt_of_finite c n fin]
    dsimp only
    split
    · next inRange => exact if_neg (by omega)
    · next out => exact if_pos (by have := not_and.mp out fin; omega)
  · rw [if_neg fun both => fin both.1, convertInt]
    rcases F80.cls_of_not_finite fin with h | h | h | h <;> (rw [h]; rfl)

/-! ### Packed BCD (R505, R524) -/

theorem bcdPack_lt (n k : Nat) : bcdPack n k < 16 ^ n := by
  induction n generalizing k with
  | zero => exact Nat.one_pos
  | succ n ih =>
    have := ih (k / 10)
    rw [bcdPack, pow_succ]
    omega

/-- The digits packed are decimal ones, and their value is the number, whatever stands above them. -/
theorem bcdPack_spec (n top k : Nat) : bcdValid n (top * 16 ^ n + bcdPack n k) = true ∧
    bcdValue n (top * 16 ^ n + bcdPack n k) = k % 10 ^ n := by
  induction n generalizing k with
  | zero => exact ⟨rfl, (Nat.mod_one k).symm⟩
  | succ n ih =>
    obtain ⟨valid, value⟩ := ih (k / 10)
    have digits : top * 16 ^ (n + 1) + bcdPack (n + 1) k = 16 * (top * 16 ^ n + bcdPack n (k / 10)) + k % 10 := by
      rw [bcdPack]
      ring
    have low : (16 * (top * 16 ^ n + bcdPack n (k / 10)) + k % 10) % 16 = k % 10 := by omega
    have rest : (16 * (top * 16 ^ n + bcdPack n (k / 10)) + k % 10) / 16 = top * 16 ^ n + bcdPack n (k / 10) := by omega
    rw [digits, bcdValid, bcdValue, low, rest, valid, value, pow_succ', Nat.mod_mul]
    exact ⟨by simp [Nat.mod_lt], rfl⟩

theorem convertBcd_of_finite (c : FCtl) {x : F80} (h : x.Finite) :
    convertBcd c x = if 10 ^ 18 ≤ (x.roundInt c.rc).k then invalidGives c 0xFFFFC000000000000000
      else { exc := peIf (x.roundInt c.rc).inexact
             res := some ((if x.neg then 2 ^ 79 else 0) + bcdPack 18 (x.roundInt c.rc).k), c1 := (x.roundInt c.rc).above } := by
  rcases h with h | h | h <;> (rw [convertBcd, h]; rfl)

/-- A register value converts to packed BCD as R524 says. -/
theorem convertBcd_converts (c : FCtl) (x : F80) : ConvertsBcd c x (convertBcd c x) := by
  obtain ⟨-, inexact, above⟩ := x.roundInt_spec c.rc
  have magnitude := x.abs_roundToInt c.rc
  unfold ConvertsBcd
  dsimp only
  by_cases fin : x.Finite
  · rw [convertBcd_of_finite c fin, magnitude, inexact, above]
    split
    · next inRange =>
      have small : (x.roundInt c.rc).k < 10 ^ 18 := by exact_mod_cast inRange.2
      obtain ⟨valid, value⟩ := bcdPack_spec 18 (if x.neg then 0x80 else 0) (x.roundInt c.rc).k
      have digits := bcdPack_lt 18 (x.roundInt c.rc).k
      have sign : (if x.neg then 2 ^ 79 else 0) = (if x.neg then 0x80 else 0) * 16 ^ 18 := by cases x.neg <;> rfl
      rw [Nat.mod_eq_of_lt small] at value
      rw [if_neg small.not_ge, sign]
      exact ⟨rfl, rfl, _, rfl, by omega, valid, congrArg _ value⟩
    · next out =>
      exact if_pos (not_lt.mp fun small => out ⟨fin, by exact_mod_cast small⟩)
  · rw [if_neg fun both => fin both.1, convertBcd]
    rcases F80.cls_of_not_finite fin with h | h | h | h <;> (rw [h]; rfl)

end Sys2Proof.Machine
end

section
/-! The stores of ST(0) under any masks (47_fpu_transfer_arith.md R573 to R577, O37): the flags, the bytes in memory, the pop. -/

namespace Sys2Proof.Machine

/-! ### The pop after a store -/

namespace Fpu

variable {f g : Fpu}

/-- A pop where the instruction has one. -/
def popIf (g : Fpu) (pops : Bool) : Fpu := if pops then g.pop else g

theorem Flagged.popIf {x : BitVec 16} {b : Bool} (h : f.Flagged g x b) (pops : Bool) : f.Flagged (g.popIf pops) x b := by
  cases pops with
  | false => exact h
  | true => exact h.of_same rfl rfl

/-- A register stack kept, and then perhaps popped. -/
theorem KeepsStack.popIf (h : f.KeepsStack g) (pops : Bool) : f.Dropped (g.popIf pops) (if pops then 1 else 0) := by
  obtain ⟨cw, top, regs⟩ := h
  cases pops with
  | false => exact ⟨cw, top.trans f.top_zero.symm, fun k => ⟨(regs k).1, (regs k).2.trans (by simp)⟩⟩
  | true =>
    obtain ⟨popCw, popTop, popRegs⟩ := g.pop_stackIs
    refine ⟨popCw.trans cw, popTop.trans (congrArg (· + 1) top), fun k => ⟨(popRegs k).1.trans (regs k).1, ?_⟩⟩
    refine (popRegs k).2.trans ?_
    rw [top, Function.update_apply, (regs k).2]
    by_cases hk : k = f.top <;> simp [hk]

theorem popIf_cw (pops : Bool) : (g.popIf pops).cw = g.cw := by cases pops <;> rfl

theorem popIf_fdp (pops : Bool) : (g.popIf pops).fdp = g.fdp := by cases pops <;> rfl

theorem copySt_fdp (f : Fpu) (d : Nat) (k : BitVec 3) (pops : Bool) : (f.copySt d k pops).fdp = f.fdp := f.deliver_fdp _ _ _

/-- What an FPU instruction's end adds is no data. -/
theorem data_end (g : Fpu) (fip : Nat) (fop : BitVec 11) (fdp : Option Nat) :
    ((g.setPointers fip fop fdp).summary).data = g.data := by
  simp

end Fpu

/-! ### Stores -/

/-- What a store of `n` bytes at `a` leaves: the flags and C1 of the result, its value in memory, and then perhaps a pop; with no
value, memory and the register stack as they were (R519, R544). -/
def State.StoresResult (s : State) (a n : Nat) (r : FRes Nat) (pops : Bool) (u : State) : Prop :=
  s.fpu.Flagged u.fpu r.exc r.c1 ∧
    match r.res with
    | none => u.mem = s.mem ∧ s.fpu.KeepsStack u.fpu
    | some v => s.Stores u a n v ∧ s.fpu.Dropped u.fpu (if pops then 1 else 0)

/-- A store to backed memory. -/
theorem State.fpuStore_ends {s : State} {i : Instr} {m : Mem} {n : Nat} {r : FRes Nat} {pops : Bool}
    (h : exec i s = finish (s.fpuStore i m n r pops)) (hb : s.Backed (s.memAddr i.prefixes m) n) (hn : n ≤ 2 ^ 20) :
    s.FpuEnds i (some (s.memAddr i.prefixes m)) (s.StoresResult (s.memAddr i.prefixes m) n r pops) := by
  obtain ⟨g, hg⟩ : ∃ g, g = ((s.fpu.raiseExc r.exc).setC1 r.c1).drawCodes s.drawn := ⟨_, rfl⟩
  have data : g.data = ((s.fpu.raiseExc r.exc).setC1 r.c1).data := hg ▸ Fpu.data_drawCodes _ _
  have flagged : s.fpu.Flagged g r.exc r.c1 := (s.fpu.raise_flagged r.exc r.c1).congr data
  have keeps : s.fpu.KeepsStack g := hg ▸ ⟨rfl, rfl, fun _ => ⟨rfl, rfl⟩⟩
  have cw : g.cw = s.fpu.cw := keeps.1
  have fdp : g.fdp = s.fpu.fdp := hg ▸ rfl
  unfold State.StoresResult
  cases hr : r.res with
  | none =>
    have value : s.fpuStore i m n r pops = s.fpuMem i m g := by rw [State.fpuStore, hr, hg]
    rw [value] at h
    exact s.fpuEnd_ends (s.setFpu g).useDraw i _ _ rfl cw fdp h
      ⟨flagged.congr (Fpu.data_end _ _ _ _), rfl, Fpu.StackIs.congr (Fpu.data_end _ _ _ _) keeps⟩
  | some v =>
    obtain ⟨mem, written, stores⟩ := (s.setFpu g).linWrite_stores (s.memAddr i.prefixes m) n v hb hn
    have value : s.fpuStore i m n r pops = State.fpuMem { s.setFpu g with mem := mem } i m (g.popIf pops) := by
      have writes : (s.setFpu g).writeMemN i.prefixes m n v = .ok { s.setFpu g with mem := mem } := written
      rw [State.fpuStore, hr, ← hg]
      exact congrArg (· >>= _) writes
    rw [value] at h
    exact s.fpuEnd_ends (State.setFpu { s.setFpu g with mem := mem } (g.popIf pops)).useDraw i _ _ rfl
      ((g.popIf_cw pops).trans cw) ((g.popIf_fdp pops).trans fdp) h
      ⟨(flagged.popIf pops).congr (Fpu.data_end _ _ _ _), stores, Fpu.StackIs.congr (Fpu.data_end _ _ _ _) (keeps.popIf pops)⟩

/-- Settles O37: each store converts ST(0) or finds it empty, and then writes and pops where it has a result. -/
theorem fpuStoreResult : Obligations.FpuStoreResult := by
  intro p s f c x stores single double int copies
  have store {i : Instr} {m : Mem} {n indefinite : Nat} {converts : FRes Nat → Prop} {r : FRes Nat} {pops : Bool}
      (hp : i.prefixes = p) (h : exec i s = finish (s.fpuStore i m n
        (if f.isEmpty 0 then f.underflow indefinite else r) pops)) (hr : converts r) (hn : n ≤ 2 ^ 20) :
      stores i m n indefinite converts pops := fun hb => by
    subst hp
    refine ⟨_, ?_, State.fpuStore_ends h hb hn⟩
    split
    · exact f.underflow_eq _
    · exact hr
  have copy {i : Instr} {k : BitVec 3} {pops : Bool} (h : exec i s = finish (s.fpuReg i (f.copySt s.drawn k pops))) :
      copies i k pops := by
    have gives := State.fpuEnd_takes (r := if f.isEmpty 0 then f.underflow F80.indefinite else
      { exc := 0, res := some x, c1 := false }) (k := k) (pops := pops) h (Fpu.data_drawCodes _ _)
      (f.copySt_fdp _ _ _)
    rwa [f.underflow_eq] at gives
  have small := MemFmt.single_narrow.convertStore_converts c x
  have large := MemFmt.double_narrow.convertStore_converts c x
  have ints (n : Nat) : ConvertsInt n c x (convertInt c n x) := convertInt_converts c n x
  refine ⟨fun m => ⟨store (i := .fst p (.m32 m)) rfl rfl small (by decide),
    store (i := .fst p (.m64 m)) rfl rfl large (by decide),
    store (i := .fstp p (.m32 m)) rfl rfl small (by decide), store (i := .fstp p (.m64 m)) rfl rfl large (by decide),
    store (i := .fstp p (.m80 m)) rfl rfl rfl (by decide), store (i := .fist p (.m16 m)) rfl rfl (ints 2) (by decide),
    store (i := .fist p (.m32 m)) rfl rfl (ints 4) (by decide), store (i := .fistp p (.m16 m)) rfl rfl (ints 2) (by decide),
    store (i := .fistp p (.m32 m)) rfl rfl (ints 4) (by decide), store (i := .fistp p (.m64 m)) rfl rfl (ints 8) (by decide),
    store (i := .fbstp p m) rfl rfl (convertBcd_converts c x) (by decide)⟩,
    fun k => ⟨copy (i := .fst p (.st k)) rfl, copy (i := .fstp p (.st k)) rfl⟩⟩

end Sys2Proof.Machine
end

section
/-! The FPU's stack control (48_fpu_compare_trans_control.md R690 to R694, O44): each leaves a known FPU, but for the undefined
codes. -/

namespace Sys2Proof.Machine

/-- The exception flags are part of what a result may write. -/
theorem Fpu.flags_of_data {f g : Fpu} (h : g.data = f.data) : g.sw &&& 0x7F = f.sw &&& 0x7F := by
  simp only [Fpu.data, Prod.mk.injEq] at h
  exact h.2.2.2.2.1

@[simp] theorem Fpu.setTop_fdp (f : Fpu) (t : BitVec 3) : (f.setTop t).fdp = f.fdp := rfl

section StackControl

variable {s : State} {i : Instr}

/-- An instruction that writes TOP and clears C1. -/
theorem State.setTop_leaves {top : BitVec 3}
    (h : exec i s = finish (s.fpuReg i (((s.fpu.setTop top).setC1 false).drawCodes s.drawn))) :
    s.FpuLeaves i none fun g => s.fpu.Flagged g 0 false ∧ s.fpu.StackIs g top s.fpu.phReg s.fpu.phEmpty := by
  have flagged : s.fpu.Flagged ((s.fpu.setTop top).setC1 false) 0 false := s.fpu.flagged_zero rfl rfl
  have stack : s.fpu.StackIs ((s.fpu.setTop top).setC1 false) top s.fpu.phReg s.fpu.phEmpty :=
    ⟨rfl, rfl, fun _ => ⟨rfl, rfl⟩⟩
  refine State.fpuEnd_gives h (by simp) (by simp) fun e data _ => ?_
  rw [Fpu.data_drawCodes] at data
  exact ⟨flagged.congr data, Fpu.StackIs.congr data stack⟩

/-- An instruction that writes no exception flag, and C1 only as the other codes, which are undefined. -/
theorem State.drawnC1_leaves {g : Fpu} {empty : BitVec 3 → Bool}
    (h : exec i s = finish (s.fpuReg i ((g.setC1 (drawC1 s.drawn)).drawCodes s.drawn))) (status : g.status = s.fpu.status)
    (fdp : g.fdp = s.fpu.fdp) (stack : s.fpu.StackIs g s.fpu.top s.fpu.phReg empty) :
    s.FpuLeaves i none fun g => g.sw &&& 0x7F = s.fpu.sw &&& 0x7F ∧ s.fpu.StackIs g s.fpu.top s.fpu.phReg empty := by
  have flags : (g.setC1 (drawC1 s.drawn)).excFlags = s.fpu.excFlags := by simp [Fpu.excFlags, Fpu.setC1, status]
  have kept : s.fpu.StackIs (g.setC1 (drawC1 s.drawn)) s.fpu.top s.fpu.phReg empty := stack
  obtain ⟨cw, -⟩ := stack
  refine State.fpuEnd_gives h cw fdp fun e data _ => ?_
  rw [Fpu.data_drawCodes] at data
  exact ⟨(Fpu.flags_of_data data).trans (s.fpu.flags_congr flags), Fpu.StackIs.congr data kept⟩

end StackControl

/-- Settles O44: FINCSTP and FDECSTP write TOP, FFREE one empty bit, and FNOP nothing but its undefined codes. -/
theorem fpuStackControl : Obligations.FpuStackControl := by
  intro p s f ends
  have free (k : BitVec 3) : f.StackIs (f.setEmpty (f.phys k) true) f.top f.phReg
      (Function.update f.phEmpty (f.top + k) true) :=
    ⟨rfl, rfl, fun j => ⟨rfl, congrFun (f.phEmpty_setEmpty (f.phys k) true) j⟩⟩
  have keep : f.KeepsStack f := ⟨rfl, rfl, fun _ => ⟨rfl, rfl⟩⟩
  exact ⟨State.setTop_leaves (i := .fincstp p) rfl, State.setTop_leaves (i := .fdecstp p) rfl,
    fun k => State.drawnC1_leaves (i := .ffree p k) rfl rfl rfl (free k),
    State.drawnC1_leaves (i := .fnop p) (g := f) rfl rfl rfl keep, rfl, rfl, rfl⟩

end Sys2Proof.Machine
end

section
/-! The interrupts at an instruction's end and between instructions (60_exceptions.md R740, R744, R746, 10_state.md R75, O55). -/

namespace Sys2Proof.Machine

theorem State.alive_iff (s : State) : s.alive = true ↔ s.run = .running ∨ s.run = .halted := by
  rw [State.alive, Bool.or_eq_true, beq_iff_eq, beq_iff_eq]

/-- The single-step trap comes exactly where its four conditions hold (R740). -/
theorem State.singleStep_eq (s : State) (tf : Bool) : s.singleStep tf =
    if tf = true ∧ s.ctx.dispatched = false ∧ (s.run = .running ∨ s.run = .halted) ∧ s.shadow = false
    then s.dispatch 1 s.ip else s := by
  simp only [State.singleStep, Bool.and_eq_true, Bool.not_eq_true', s.alive_iff, and_assoc]

/-- The host injects only under P_EXTINT = host, with IF = 1 and no shadow (R746). -/
theorem State.injected_some {s : State} {v : Byte} (h : s.injected = some v) :
    s.par.extInt = .host ∧ s.flags.ifl = true ∧ s.shadow = false := by
  unfold State.injected at h
  split at h
  · cases h
  · next host =>
    split at h
    · next may => simpa [host] using may
    · cases h

theorem State.boundary_host {s : State} (h : s.par.extInt = .host) : s.boundary = { s with draws := s.draws + 1 } := by
  rw [State.boundary, h]
  rfl

/-- An external interrupt is taken at the boundary by a core that runs or is halted. -/
theorem step_of_injected {s : State} {v : Byte} (alive : s.run = .running ∨ s.run = .halted) (h : s.injected = some v) :
    step s = .next (s.boundary.external v) := by
  obtain ⟨host, -⟩ := State.injected_some h
  rcases alive with run | run
  · simp only [step, run, State.runStep, h]
  · simp only [step, run, State.haltStep, host, h]

/-- Settles O55: the trap is one condition, and an injected interrupt is one outcome of the boundary. -/
theorem boundaryInterrupts : Obligations.BoundaryInterrupts := by
  refine ⟨fun t tf => ⟨fun htf hd alive shadow => ?_, fun h => ?_⟩, fun s closed => ?_, fun s alive => ?_,
    fun s run host none => ?_⟩
  · rw [t.singleStep_eq, if_pos ⟨htf, hd, alive, shadow⟩]
  · rw [t.singleStep_eq, if_neg]
    rintro ⟨htf, hd, alive, shadow⟩
    simp [htf, hd, shadow, ← not_or, alive] at h
  · by_contra some
    obtain ⟨v, h⟩ := Option.ne_none_iff_exists'.mp some
    simp [State.injected_some h] at closed
  · cases h : s.injected with
    | none => trivial
    | some v =>
      obtain ⟨host, -⟩ := State.injected_some h
      show step s = _
      rw [step_of_injected alive h, State.external, s.boundary_begin_zero, s.boundary_host host]
  · rw [← s.boundary_host host]
    simp only [step, run, State.haltStep, host, none]

end Sys2Proof.Machine
end

section
/-! The end of a host service (60_exceptions.md R731 to R735, O59). -/

namespace Sys2Proof.Machine

/-- The general registers after a host's updates: the seven of the reply, and ESP as it was. -/
theorem State.applyReply_r32 (s : State) (r : HostReply) (i : BitVec 3) : (s.applyReply r).r32 i =
    if i = rDI then r.edi else if i = rSI then r.esi else if i = rBP then r.ebp else if i = rBX then r.ebx
    else if i = rDX then r.edx else if i = rCX then r.ecx else if i = rAX then r.eax else s.r32 i := by
  have kept : (s.hostWrites r.writes).r32 i = s.r32 i := State.r32_congr (by rw [s.hostWrites_frame]) i
  have gpr : (s.applyReply r).gpr = ((((((((s.hostWrites r.writes).setR32 rAX r.eax).setR32 rCX r.ecx).setR32 rDX
      r.edx).setR32 rBX r.ebx).setR32 rBP r.ebp).setR32 rSI r.esi).setR32 rDI r.edi).gpr := rfl
  rw [State.r32_congr gpr]
  simp only [State.r32_setR32, kept]

section Outcomes

variable {s : State} {v : Byte} (ret : Word) {r : HostReply} (reply : Config.hostService v (s.r8 rAH) s = r)
include reply

theorem State.hostService_cont (h : r.outcome = .cont) : s.hostService v ret =
    { s.applyReply r with
      ip := ret, shadow := false, events := (s.applyReply r).events ++ [.service v .cont] } := by
  simp only [State.hostService, State.log, State.resumeAt, reply, h]

theorem State.hostService_terminate {c : Byte} (h : r.outcome = .terminate c) : s.hostService v ret =
    { s.applyReply r with
      run := .terminated c, shadow := false, events := (s.applyReply r).events ++ [.service v (.terminate c)] } := by
  simp only [State.hostService, State.log, reply, h]

theorem State.hostService_halt {reason : HostHalt} (h : r.outcome = .halt reason) : s.hostService v ret =
    { s.applyReply r with
      run := .faulted reason.reason (s.applyReply r).ctx.startCs (s.applyReply r).ctx.startIp
      events := (s.applyReply r).events ++ [.service v (.halt reason)] } := by
  simp only [State.hostService, State.log, State.halt, reply, h]

theorem State.hostService_unknown (h : r.outcome = .unknown) : s.hostService v ret =
    { s.setR16 rAX 1 with
      flags := { s.flags with cf := true }, ip := ret, shadow := false, events := s.events ++ [.service v .unknown] } := by
  simp only [State.hostService, State.log, State.resumeAt, State.setFlags, reply, h]
  rfl

end Outcomes

/-- Settles O59: the updates are those of `State.applyReply_frame`, and each outcome adds its record and its end. -/
theorem hostServiceResult : Obligations.HostServiceResult := by
  refine ⟨fun s v ret => ?_, fun s r => ?_⟩
  · intro r u t log
    have frame : u = _ := s.applyReply_frame r
    have ctx : u.ctx = s.ctx := by rw [frame]
    have logged : log = u.events ++ [.service v r.outcome] := by rw [frame]
    cases outcome : r.outcome with
    | cont =>
      have ends : t = _ := State.hostService_cont ret rfl outcome
      rw [logged, outcome]
      exact ⟨ends, by rw [ends]; rfl, by rw [ends]; rfl⟩
    | terminate c =>
      rw [logged, outcome]
      exact State.hostService_terminate ret rfl outcome
    | halt h =>
      rw [logged, outcome, ← ctx]
      exact State.hostService_halt ret rfl outcome
    | unknown => exact State.hostService_unknown ret rfl outcome
  · intro t
    have frame : t = _ := s.applyReply_frame r
    have mem : t.mem = (s.hostWrites r.writes).mem := by rw [frame]
    have peek (b : Nat) : t.peek b = s.peekAfter r.writes b := by
      rw [← s.hostWrites_peek, State.peek, mem]
      rfl
    rw [← mem] at frame
    have regs : ∀ i, t.r32 i = _ := s.applyReply_r32 r
    exact ⟨frame, regs rAX, regs rBX, regs rCX, regs rDX, regs rSI, regs rDI, regs rBP, regs rSP, peek⟩

end Sys2Proof.Machine
end

section
/-! Taking an interrupt (60_exceptions.md R725 to R729, R754, O56, O57). The three pushes of a guest entry are followed byte by
byte, so that one invariant says what they have stored where all are backed and where one halts. -/

namespace Sys2Proof.Machine

/-! ### Bytes stored one after the other -/

/-- `t` is `s` in memory but for the bytes at `addr j` for j below `n`, which hold `byte j`. -/
structure State.Stored (s t : State) (addr : Nat → Nat) (byte : Nat → Byte) (n : Nat) : Prop where
  holds : ∀ j, j < n → t.peek (addr j) = byte j
  outside : ∀ b, (∀ j, j < n → b ≠ addr j) → t.peek b = s.peek b

/-- A store of `m` bytes at the next addresses. -/
theorem State.Stored.store {s t u : State} {addr : Nat → Nat} {byte : Nat → Byte} {n a m v : Nat}
    (h : s.Stored t addr byte n) (stores : t.Stores u a m v) (par : u.par = t.par)
    (place : ∀ i, i < m → (a + i) % t.par.ring = addr (n + i))
    (value : ∀ i, i < m → BitVec.ofNat 8 (v / 256 ^ i) = byte (n + i))
    (apart : ∀ j i, j < n → i < m → addr j ≠ addr (n + i)) : s.Stored u addr byte (n + m) := by
  obtain ⟨holds, outside⟩ := stores
  refine ⟨fun j hj => ?_, fun b hb => ?_⟩
  · rcases lt_or_ge j n with old | new
    · rw [outside _ fun i hi => place i hi ▸ apart j i old hi, h.holds j old]
    · obtain ⟨i, rfl⟩ := Nat.exists_eq_add_of_le new
      have hi : i < m := Nat.lt_of_add_lt_add_left hj
      rw [← place i hi, ← value i hi, ← par]
      exact holds i hi
  · rw [outside b fun i hi => place i hi ▸ hb (n + i) (Nat.add_lt_add_left hi n),
      h.outside b fun j hj => hb j (Nat.lt_add_right m hj)]

/-! ### Words pushed one after the other -/

/-- The address of byte j of the words pushed from SP down, two bytes to a word. -/
def State.pushAddr (s : State) (j : Nat) : Nat := (s.slot (2 * (j / 2 + 1)) + j % 2) % s.par.ring

/-- Byte j of these words. -/
def pushByte (words : Nat → Word) (j : Nat) : Byte := BitVec.ofNat 8 ((words (j / 2)).toNat / 256 ^ (j % 2))

theorem State.pushAddr_inj (s : State) {j k : Nat} (hj : j < 16) (hk : k < 16) (h : s.pushAddr j = s.pushAddr k) : j = k := by
  have large := ring_large s.par
  unfold State.pushAddr at h
  by_cases same : j / 2 = k / 2
  · rw [same] at h
    have := ring_offset_inj (by omega) (by omega) h
    omega
  · rw [Nat.mul_comm, Nat.mul_comm 2] at h
    exact absurd h (s.below_disjoint .b16 (by omega) (by omega) (by omega) (Nat.mod_lt _ two_pos) (Nat.mod_lt _ two_pos))

/-- `s` with the memory `m` and SP moved down by `k` words. -/
def State.pushedTo (s : State) (k : Nat) (m : List Host.Cell) : State :=
  State.setR16 { s with mem := m } rSP (s.r16 rSP - BitVec.ofNat 16 (2 * k))

theorem State.pushedTo_zero (s : State) : s.pushedTo 0 s.mem = s :=
  (congrArg (s.setR16 rSP) (BitVec.sub_zero _)).trans (s.setR16_r16 rSP)

theorem State.pushedTo_push (s : State) (k : Nat) (m : List Host.Cell) (v : Nat) :
    (s.pushedTo k m).push 2 v = (s.pushedTo (k + 1) m).linWrite (s.slot (2 * (k + 1))) 2 v := by
  have sp : (s.pushedTo k m).r16 rSP - BitVec.ofNat 16 2 = s.r16 rSP - BitVec.ofNat 16 (2 * (k + 1)) := by
    rw [State.pushedTo, State.r16_setR16_self, Nat.mul_succ, BitVec.ofNat_add, sub_sub]
  rw [State.push, sp, State.pushedTo, State.setR16_setR16]
  rfl

/-- The pushes of the first `k` of these words. -/
def State.pushWords (s : State) (words : Nat → Word) : Nat → Exec State
  | 0 => .ok s
  | k + 1 => s.pushWords words k >>= fun t => t.push 2 (words k).toNat

theorem State.pushWords_error {s e : State} {words : Nat → Word} {k l : Nat} (h : s.pushWords words k = .error e)
    (hl : k ≤ l) : s.pushWords words l = .error e := by
  induction l, hl using Nat.le_induction with
  | base => exact h
  | succ l _ ih => rw [State.pushWords, ih, Exec.error_bind]

section Pushes

variable {s : State} {words : Nat → Word} {k : Nat}

/-- The first `i` bytes of the next word, where they are backed. -/
theorem State.Stored.pushBytes {m : List Host.Cell} (h : s.Stored (s.pushedTo k m) s.pushAddr (pushByte words) (2 * k))
    (hk : k < 8) {i : Nat} (hi : i ≤ 2) (backed : ∀ j, j < i → s.pushAddr (2 * k + j) < s.par.memSize) :
    ∃ m', (s.pushedTo (k + 1) m).linWrite (s.slot (2 * (k + 1))) i (words k).toNat = .ok (s.pushedTo (k + 1) m') ∧
      s.Stored (s.pushedTo (k + 1) m') s.pushAddr (pushByte words) (2 * k + i) := by
  have half {j : Nat} (hj : j < i) : (2 * k + j) / 2 = k ∧ (2 * k + j) % 2 = j := by omega
  have place (j : Nat) (hj : j < i) : (s.slot (2 * (k + 1)) + j) % s.par.ring = s.pushAddr (2 * k + j) := by
    rw [State.pushAddr, (half hj).1, (half hj).2]
  have value (j : Nat) (hj : j < i) : BitVec.ofNat 8 ((words k).toNat / 256 ^ j) = pushByte words (2 * k + j) := by
    rw [pushByte, (half hj).1, (half hj).2]
  obtain ⟨m', e, stores⟩ := (s.pushedTo (k + 1) m).linWrite_stores (s.slot (2 * (k + 1))) i (words k).toNat
    (fun j hj => (place j hj).symm ▸ backed j hj) (hi.trans (by decide))
  have moved : s.Stored (s.pushedTo (k + 1) m) s.pushAddr (pushByte words) (2 * k) := ⟨h.holds, h.outside⟩
  refine ⟨m', e, moved.store stores rfl place value fun j j' hj hj' same => ?_⟩
  have := s.pushAddr_inj (by omega) (by omega) same
  omega

/-- Backed pushes store their words. -/
theorem State.pushWords_backed (hk : k ≤ 8) (backed : ∀ j, j < 2 * k → s.pushAddr j < s.par.memSize) :
    ∃ m, s.pushWords words k = .ok (s.pushedTo k m) ∧ s.Stored (s.pushedTo k m) s.pushAddr (pushByte words) (2 * k) := by
  induction k with
  | zero => exact ⟨s.mem, congrArg Except.ok s.pushedTo_zero.symm, ⟨nofun, fun _ _ => rfl⟩⟩
  | succ k ih =>
    obtain ⟨m, e, stored⟩ := ih (by omega) fun j hj => backed j (by omega)
    obtain ⟨m', e', stored'⟩ := stored.pushBytes hk le_rfl fun j hj => backed (2 * k + j) (by omega)
    exact ⟨m', by rw [State.pushWords, e, Exec.ok_bind, State.pushedTo_push, e'], stored'⟩

/-- Pushes whose byte `n` is the first that is not backed halt there, with SP at the slot of that byte (R754, R113). -/
theorem State.pushWords_hole {n : Nat} (hn : n < 2 * k) (hk : k ≤ 8) (backed : ∀ j, j < n → s.pushAddr j < s.par.memSize)
    (hole : s.par.memSize ≤ s.pushAddr n) :
    ∃ m, s.pushWords words k = haltWith (s.pushedTo (n / 2 + 1) m) (.addressFault (s.pushAddr n)) ∧
      s.Stored (s.pushedTo (n / 2 + 1) m) s.pushAddr (pushByte words) n := by
  have split : 2 * (n / 2) + n % 2 = n := Nat.div_add_mod n 2
  obtain ⟨m, e, stored⟩ := s.pushWords_backed (words := words) (k := n / 2) (by omega) fun j hj => backed j (by omega)
  obtain ⟨m', e', stored'⟩ := stored.pushBytes (i := n % 2) (by omega) (by omega) fun j hj => backed _ (by omega)
  rw [split] at stored'
  have halts := State.linWrite_hole (1 - n % 2) e' hole
  rw [show n % 2 + (1 - n % 2) + 1 = 2 by omega] at halts
  refine ⟨m', State.pushWords_error ?_ (by omega : n / 2 + 1 ≤ k), stored'⟩
  rw [State.pushWords, e, Exec.ok_bind, State.pushedTo_push, halts]
  rfl

end Pushes

/-! ### The guest entry (R728) -/

/-- The words that an entry pushes: FLAGS, CS and the return offset. -/
def State.entryWords (s : State) (ret : Word) : Nat → Word
  | 0 => s.flags.image
  | 1 => s.cs
  | _ => ret

/-- The handler entered: IF and TF cleared, CS:IP at the handler, and no shadow. -/
def State.enter (t : State) (off seg : Word) : State :=
  { t with flags := { t.flags with ifl := false, tf := false }, cs := seg, ip := off, shadow := false }

theorem State.push_cs {s t : State} {n v : Nat} (h : s.push n v = .ok t) : t.cs = s.cs := by
  rw [State.push, State.memWrite] at h
  rcases State.linWrite_cases _ _ n v with ⟨m, e⟩ | ⟨m, b, e⟩
  · rw [e] at h
    cases h
    rfl
  · rw [e] at h
    cases h

theorem State.guestEntry_eq (s : State) (off seg ret : Word) :
    s.guestEntry off seg ret = s.pushWords (s.entryWords ret) 3 >>= fun t => .ok (t.enter off seg) := by
  unfold State.guestEntry State.pushWords State.pushWords State.pushWords State.pushWords
  cases h : s.push 2 s.flags.image.toNat with
  | error e => simp [State.entryWords, h]
  | ok t => simp [State.entryWords, h, State.push_cs h]; rfl

/-! ### The dispatch (R725 to R727) -/

/-- The offset and the segment that the vector table holds for a vector (R726). -/
def State.ivtOff (s : State) (v : Byte) : Word := BitVec.ofNat 16 (s.bytesAt (4 * v.toNat) 2)
def State.ivtSeg (s : State) (v : Byte) : Word := BitVec.ofNat 16 (s.bytesAt (4 * v.toNat + 2) 2)

theorem append_eq_zero_iff (a b : Word) : a ++ b = (0 : DWord) ↔ a = 0 ∧ b = 0 := by
  refine ⟨fun h => ⟨?_, ?_⟩, ?_⟩
  · rw [← high_of_append a b]
    exact (congrArg (BitVec.extractLsb' 16 16) h).trans (by decide)
  · rw [← low_of_append a b]
    exact (congrArg (BitVec.extractLsb' 0 16) h).trans (by decide)
  · rintro ⟨rfl, rfl⟩
    rfl

theorem State.ivtRead_backed (s : State) {v : Byte} (h : s.Backed (4 * v.toNat) 4) :
    s.ivtRead v = .ok (s.ivtSeg v ++ s.ivtOff v) := by
  obtain ⟨low, high⟩ := State.Backed.add (m := 2) (n := 2) h
  rw [State.ivtRead, s.linRead_backed _ _ low, Exec.ok_bind, s.linRead_backed _ _ high]
  rfl

theorem State.intercepted_iff (s : State) (v : Byte) (entry : DWord) :
    s.intercepted v entry = true ↔ v ∈ s.par.intercept ∧ entry = s.par.ivtEntry v := by
  simp [State.intercepted]

section Dispatch

variable {s : State} {v : Byte} (ret : Word) (backed : s.Backed (4 * v.toNat) 4)
include backed

theorem State.dispatch_backed : s.dispatch v ret = Exec.final (
    if s.intercepted v (s.ivtSeg v ++ s.ivtOff v) then .ok (s.beginDispatch.hostService v ret)
    else if s.ivtSeg v ++ s.ivtOff v = (0 : DWord) then haltWith s.beginDispatch (.unhandledInterrupt v)
    else s.beginDispatch.guestEntry (s.ivtOff v) (s.ivtSeg v) ret) := by
  have read : s.beginDispatch.ivtRead v = .ok (s.ivtSeg v ++ s.ivtOff v) := s.beginDispatch.ivtRead_backed backed
  have low : (s.ivtSeg v ++ s.ivtOff v).extractLsb' 0 16 = s.ivtOff v := low_of_append _ _
  have high : (s.ivtSeg v ++ s.ivtOff v).extractLsb' 16 16 = s.ivtSeg v := high_of_append _ _
  rw [State.dispatch, read, Exec.ok_bind, low, high]
  rfl

theorem State.dispatch_intercepted (h : v ∈ s.par.intercept ∧ s.ivtSeg v ++ s.ivtOff v = s.par.ivtEntry v) :
    s.dispatch v ret = s.beginDispatch.hostService v ret := by
  rw [State.dispatch_backed ret backed, if_pos ((s.intercepted_iff _ _).mpr h)]
  rfl

variable (own : ¬ (v ∈ s.par.intercept ∧ s.ivtSeg v ++ s.ivtOff v = s.par.ivtEntry v))
include own

theorem State.dispatch_unhandled (h : s.ivtSeg v = 0 ∧ s.ivtOff v = 0) :
    s.dispatch v ret = s.beginDispatch.halt (.unhandledInterrupt v) := by
  rw [State.dispatch_backed ret backed, if_neg (mt (s.intercepted_iff _ _).mp own), if_pos ((append_eq_zero_iff _ _).mpr h)]
  rfl

theorem State.dispatch_guest (h : ¬ (s.ivtSeg v = 0 ∧ s.ivtOff v = 0)) : s.dispatch v ret = Exec.final
    (s.beginDispatch.pushWords (s.entryWords ret) 3 >>= fun t => .ok (t.enter (s.ivtOff v) (s.ivtSeg v))) := by
  rw [State.dispatch_backed ret backed, if_neg (mt (s.intercepted_iff _ _).mp own),
    if_neg (mt (append_eq_zero_iff _ _).mp h), State.guestEntry_eq]
  rfl

end Dispatch

/-- Settles O56: the entry decides which of the three ends it is, and the pushes of a guest entry are backed. -/
theorem dispatchResult : Obligations.DispatchResult := by
  intro s v ret backed off seg u
  refine ⟨fun h => State.dispatch_intercepted ret backed h, fun own h => State.dispatch_unhandled ret backed own h,
    fun noHole own h => ?_⟩
  intro t
  obtain ⟨m, pushed, stored⟩ := State.pushWords_backed (s := u) (words := s.entryWords ret) (k := 3) (by decide)
    fun j _ => u.backed_of_noHole _ 2 noHole _ (Nat.mod_lt j two_pos)
  have entered : t = (u.pushedTo 3 m).enter off seg := by
    rw [show t = _ from State.dispatch_guest ret backed own h, show s.beginDispatch = u from rfl, pushed]
    rfl
  have par : t.par = s.par := by rw [entered]; rfl
  have peek (b : Nat) : t.peek b = (u.pushedTo 3 m).peek b := by rw [entered]; rfl
  have holds (k : Nat) (hk : k < 3) (i : Nat) (hi : i < 2) :
      t.peek ((s.slot (2 * (k + 1)) + i) % s.par.ring) = BitVec.ofNat 8 ((s.entryWords ret k).toNat / 256 ^ i) := by
    have byte := stored.holds (2 * k + i) (by omega)
    rw [pushByte, State.pushAddr, show (2 * k + i) / 2 = k by omega, show (2 * k + i) % 2 = i by omega] at byte
    exact (peek _).trans byte
  refine ⟨?_, ?_, ?_, ?_, fun b hb => ?_⟩
  · rw [entered]
    rfl
  · rw [State.Holds, par]
    exact holds 0 (by decide)
  · rw [State.Holds, par]
    exact holds 1 (by decide)
  · rw [State.Holds, par]
    exact holds 2 (by decide)
  · rw [peek]
    exact stored.outside b fun j hj => hb (j / 2 + 1) (j % 2) (by omega) (by omega) (Nat.mod_lt j two_pos)

/-- The read of an entry halts at the first byte that is not backed. -/
theorem State.ivtRead_hole (s : State) {v : Byte} {n : Nat} (hn : n < 4) (backed : s.Backed (4 * v.toNat) n)
    (hole : s.par.memSize ≤ 4 * v.toNat + n) : s.ivtRead v = haltWith s (.addressFault (4 * v.toNat + n)) := by
  have large := ring_large s.par
  have small : v.toNat < 256 := v.isLt
  have inRing : (4 * v.toNat + n) % s.par.ring = 4 * v.toNat + n := Nat.mod_eq_of_lt (by omega)
  rw [State.ivtRead]
  rcases lt_or_ge n 2 with low | high
  · have read := s.linRead_hole (4 * v.toNat) n (1 - n) backed (by rwa [inRing])
    rw [show n + (1 - n) + 1 = 2 by omega, inRing] at read
    rw [read]
    rfl
  · obtain ⟨k, rfl⟩ := Nat.exists_eq_add_of_le high
    obtain ⟨offset, segment⟩ := State.Backed.add backed
    rw [← Nat.add_assoc] at hole inRing ⊢
    have read := s.linRead_hole (4 * v.toNat + 2) k (1 - k) segment (by rwa [inRing])
    rw [show k + (1 - k) + 1 = 2 by omega, inRing] at read
    rw [s.linRead_backed _ _ offset, Exec.ok_bind, read]
    rfl

/-- Settles O57: the entry halts at its first unbacked byte, and so do the pushes. -/
theorem dispatchFault : Obligations.DispatchFault := by
  intro s v ret u t fault
  refine ⟨fun n hn backed hole => ?_, ?_⟩
  · have read : s.beginDispatch.ivtRead v = _ := s.beginDispatch.ivtRead_hole hn backed hole
    show s.dispatch v ret = _
    rw [State.dispatch, read]
    rfl
  · intro off seg word addr backed own h n hn below hole
    obtain ⟨m, halts, stored⟩ := State.pushWords_hole (s := u) (words := s.entryWords ret) (k := 3) hn (by decide) below hole
    have ends : t = (u.pushedTo (n / 2 + 1) m).halt (.addressFault (addr n)) := by
      rw [show t = _ from State.dispatch_guest ret backed own h, show s.beginDispatch = u from rfl, halts]
      rfl
    have peek (b : Nat) : t.peek b = (u.pushedTo (n / 2 + 1) m).peek b := by rw [ends]; rfl
    have words (j : Nat) (hj : j < 6) : s.entryWords ret (j / 2) = word j := by interval_cases j <;> rfl
    refine ⟨?_, fun j hj => ?_, fun b hb => ?_⟩
    · rw [ends]
      rfl
    · rw [peek, ← words j (by omega)]
      exact stored.holds j hj
    · rw [peek]
      exact stored.outside b hb

end Sys2Proof.Machine
end

section
/-! A guest entry and the IRET of its handler (60_exceptions.md R736, O58). -/

namespace Sys2Proof.Machine

/-- A word on the stack, from what its address holds. -/
theorem State.Holds.stackAt {t : State} {d a : Nat} {v : Word} (h : t.Holds a 2 v.toNat)
    (place : t.lin t.ss (t.r16 rSP + BitVec.ofNat 16 d) = a) : BitVec.ofNat 16 (t.stackAt d 2) = v := by
  rw [State.stackAt, place, h.bytesAt_eq, Nat.mod_eq_of_lt (show _ < 256 ^ 2 from v.isLt), BitVec.ofNat_toNat, BitVec.setWidth_eq]

/-- IRET at operand size 16, whose target needs no check. -/
theorem execIret_b16 {t : State} (hole : t.par.NoHole) {p : Prefixes} (os : p.os32 = false) :
    exec (.iret p) t = .next ((t.popped 6).returnTo (BitVec.ofNat 16 (t.stackAt 2 2)) (BitVec.ofNat 16 (t.stackAt 0 2))
      (BitVec.ofNat 16 (t.stackAt 4 2))) := by
  have w : osW p = .b16 := by rw [osW, os]; rfl
  rw [execIret_eq hole, w, State.checkTarget_of_le (Nat.le_of_lt_succ (BitVec.isLt _)), BitVec.ofNat_toNat, BitVec.setWidth_eq]
  rfl

/-- An entry whose four bytes are not all 0 is not 0000h:0000h. -/
theorem State.ivt_ne_zero {s : State} {v : Byte} (h : s.bytesAt (4 * v.toNat) 4 ≠ 0) :
    ¬ (s.ivtSeg v = 0 ∧ s.ivtOff v = 0) := by
  have zero {a : Nat} (h : BitVec.ofNat 16 (s.bytesAt a 2) = 0) : s.bytesAt a 2 = 0 := by
    rw [← s.toNat_ofNat_bytesAt .b16]
    exact congrArg BitVec.toNat h
  rintro ⟨seg, off⟩
  exact h (by rw [s.bytesAt_add _ 2 2, zero off, zero seg]; rfl)

/-- Settles O58: the IRET pops the three words that the entry pushed. -/
theorem entryThenReturn : Obligations.EntryThenReturn := by
  intro s v ret p hole os own nonzero t
  obtain ⟨entered, flags, cs, ip, -⟩ := (dispatchResult s v ret (s.backed_of_noHole _ _ hole)).2.2 hole
    (fun h => own h.1) (State.ivt_ne_zero nonzero)
  have gpr : t.gpr = (s.setR16 rSP (s.r16 rSP - 6)).gpr := by rw [show t = _ from entered]
  have par : t.par = s.par := by rw [show t = _ from entered]
  have ss : t.ss = s.ss := by rw [show t = _ from entered]
  have run : t.run = .running := by rw [show t = _ from entered]
  have sp : t.r16 rSP = s.r16 rSP - 6 := by rw [State.r16_congr gpr, State.r16_setR16_self]
  have place (d : Nat) (n : Word) (e : BitVec.ofNat 16 d = 6 - n) :
      t.lin t.ss (t.r16 rSP + BitVec.ofNat 16 d) = s.lin s.ss (s.r16 rSP - n) := by
    rw [State.lin, par, ss, sp, e, sub_add_sub_cancel]
    rfl
  refine ⟨_, execIret_b16 (par ▸ hole) os, ?_, cs.stackAt (place 2 4 rfl), ip.stackAt (place 0 6 rfl), ?_, ?_, ?_⟩
  · exact (congrArg Flags.ofImage (flags.stackAt (place 4 2 rfl))).trans s.flags.ofImage_image
  · show (t.setR16 rSP (t.r16 rSP + 6)).gpr = _
    rw [State.setR16_gpr_of_gpr gpr, sp, sub_add_cancel, s.setR16_r16_gpr]
  · exact t.setR16_mem rSP (t.r16 rSP + 6)
  · exact run

end Sys2Proof.Machine
end

section
/-! The comparisons of the FPU under any masks, FTST and FXAM (48_fpu_compare_trans_control.md R640 to R650, O41). -/

namespace Sys2Proof.Machine

/-- The exception flags and the codes of a comparison, of which one operand may be an empty register (R640, 46_fpu_model.md
R512). -/
def comparison (ordered : Bool) (a b : Opnd) (empty : Bool) : BitVec 16 × CmpCodes :=
  if empty then (0x41, ⟨true, true, true⟩)
  else if a.v.cls = .unsupported ∨ b.v.cls = .unsupported ∨ a.v.cls = .snan ∨ b.v.cls = .snan ∨
    (ordered = true ∧ (a.v.cls = .qnan ∨ b.v.cls = .qnan)) then (xIE, ⟨true, true, true⟩)
  else if a.v.cls = .qnan ∨ b.v.cls = .qnan then (0, ⟨true, true, true⟩)
  else (if a.isDenormal || b.isDenormal then xDE else 0,
    match fCompare a.v b.v with
    | .gt => ⟨false, false, false⟩
    | .lt => ⟨false, false, true⟩
    | .eq => ⟨true, false, false⟩)

namespace Fpu

variable {f g h : Fpu}

/-! ### The result of a comparison -/

/-- The result with these flags and codes: no codes where one of the flags is unmasked. -/
def cmpResult (f : Fpu) (r : BitVec 16 × CmpCodes) : FRes CmpCodes :=
  { exc := r.1, res := if f.Unmasked r.1 then none else some r.2, c1 := false }

/-- A result that a mask bit decides. -/
theorem cmpResult_of_mask {x : BitVec 16} {m : Bool} (hm : f.Unmasked x ↔ m = false) (c : CmpCodes) :
    f.cmpResult (x, c) = { exc := x, res := if m then some c else none, c1 := false } := by
  rw [cmpResult, if_congr hm rfl rfl]
  cases m <;> rfl

theorem cmpResult_zero (c : CmpCodes) : f.cmpResult (0, c) = { exc := 0, res := some c, c1 := false } := by
  rw [cmpResult, if_neg f.not_unmasked_zero]

theorem unmasked_stackFault (f : Fpu) : f.Unmasked 0x41 ↔ f.ctl.im = false := by
  rw [← f.unmasked_ie, Unmasked, Unmasked, BitVec.and_assoc, BitVec.and_assoc, BitVec.and_comm (~~~f.cw), ← BitVec.and_assoc,
    ← BitVec.and_assoc]
  rfl

theorem ofOrd_eq (o : Ordering) : CmpCodes.ofOrd o = match o with
    | .gt => ⟨false, false, false⟩
    | .lt => ⟨false, false, true⟩
    | .eq => ⟨true, false, false⟩ := by
  cases o <;> rfl

theorem fcompare_eq (f : Fpu) (ordered : Bool) (a b : Opnd) :
    fcompare f.ctl ordered a b = f.cmpResult (comparison ordered a b false) := by
  have invalid : cmpInvalid f.ctl = f.cmpResult (xIE, ⟨true, true, true⟩) := (cmpResult_of_mask f.unmasked_ie _).symm
  have quiet (c : CmpCodes) : { exc := 0, res := some c, c1 := false } = f.cmpResult (0, c) := (cmpResult_zero c).symm
  have denormal (c : CmpCodes) : { exc := xDE, res := if f.ctl.dm then some c else none, c1 := false } =
      f.cmpResult (xDE, c) := (cmpResult_of_mask f.unmasked_de c).symm
  simp only [fcompare, comparison, invalid, quiet, denormal, ofOrd_eq, CmpCodes.unordered, Bool.or_eq_true, beq_iff_eq]
  split_ifs <;> simp_all

theorem compareOrFault_eq (f : Fpu) (ordered : Bool) (a b : Opnd) (empty : Bool) :
    (if empty then f.underflow CmpCodes.unordered else fcompare f.ctl ordered a b) =
      f.cmpResult (comparison ordered a b empty) := by
  cases empty with
  | true =>
    rw [if_pos rfl, f.underflow_eq]
    exact (cmpResult_of_mask f.unmasked_stackFault _).symm
  | false => exact f.fcompare_eq ordered a b

/-! ### What it leaves -/

/-- What a comparison leaves: the flags and codes `r` and the pops; with an unmasked flag neither codes nor pops (R640). -/
def Compares (f g : Fpu) (r : BitVec 16 × CmpCodes) (pops : Nat) : Prop :=
  f.Flagged g r.1 false ∧
    if f.Unmasked r.1 then g.codes = f.codes ∧ f.KeepsStack g else g.codes = r.2 ∧ f.Dropped g pops

theorem Compares.congr {r : BitVec 16 × CmpCodes} {pops : Nat} (hg : f.Compares g r pops) (data : h.data = g.data)
    (codes : h.codes = g.codes) : f.Compares h r pops := by
  obtain ⟨flagged, rest⟩ := hg
  refine ⟨flagged.congr data, ?_⟩
  rw [codes]
  split_ifs at rest ⊢
  · exact ⟨rest.1, StackIs.congr data rest.2⟩
  · exact ⟨rest.1, StackIs.congr data rest.2⟩

/-- A second pop. -/
theorem Dropped.pop (dropped : f.Dropped g 1) : f.Dropped g.pop 2 := by
  obtain ⟨cw, top, regs⟩ := dropped
  obtain ⟨popCw, popTop, popRegs⟩ := g.pop_stackIs
  refine ⟨popCw.trans cw, ?_, fun k => ⟨(popRegs k).1.trans (regs k).1, ?_⟩⟩
  · rw [popTop, top]
    exact add_assoc f.top 1 1
  · rw [(popRegs k).2, top, Function.update_apply, (regs k).2]
    by_cases hk : k = f.top + 1#3 <;> simp [hk]

theorem popN_dropped (keeps : f.KeepsStack g) {n : Nat} (hn : n ≤ 2) : f.Dropped (g.popN n) n := by
  interval_cases n
  · exact keeps.popIf false
  · exact keeps.popIf true
  · exact Dropped.pop (keeps.popIf true)

/-- Pops write no status but TOP. -/
theorem popN_status (g : Fpu) (n : Nat) :
    (g.popN n).excFlags = g.excFlags ∧ (g.popN n).status.c1 = g.status.c1 ∧ (g.popN n).codes = g.codes := by
  induction n generalizing g with
  | zero => exact ⟨rfl, rfl, rfl⟩
  | succ n ih => exact ih g.pop

@[simp] theorem popN_fdp (g : Fpu) (n : Nat) : (g.popN n).fdp = g.fdp := by
  induction n generalizing g with
  | zero => rfl
  | succ n ih => exact ih g.pop

@[simp] theorem compared_fdp (f : Fpu) (r : FRes CmpCodes) (pops : Nat) : (f.compared r pops).fdp = f.fdp := by
  unfold compared
  dsimp only
  split
  · exact popN_fdp _ _
  · rfl

theorem compared_compares (f : Fpu) (r : BitVec 16 × CmpCodes) {pops : Nat} (hp : pops ≤ 2) :
    f.Compares (f.compared (f.cmpResult r) pops) r pops := by
  have raised : f.Flagged ((f.raiseExc r.1).setC1 false) r.1 false := f.raise_flagged r.1 false
  rw [Compares]
  split
  · next unmasked =>
    rw [compared, cmpResult, if_pos unmasked]
    exact ⟨raised, rfl, rfl, rfl, fun _ => ⟨rfl, rfl⟩⟩
  · next masked =>
    rw [compared, cmpResult, if_neg masked]
    obtain ⟨flags, c1, codes⟩ := popN_status
      (((((f.raiseExc r.1).setC1 false).setC3 r.2.c3).setC2 r.2.c2).setC0 r.2.c0) pops
    exact ⟨raised.of_same flags c1, codes, popN_dropped ⟨rfl, rfl, fun _ => ⟨rfl, rfl⟩⟩ hp⟩

end Fpu

/-! ### The instructions -/

section Comparisons

variable {s : State} {i : Instr} {fdp : Option Nat} {pops : Nat}

theorem State.compared_leaves {r : BitVec 16 × CmpCodes} (hp : pops ≤ 2)
    (h : exec i s = finish ((s.setFpu (s.fpu.compared (s.fpu.cmpResult r) pops)).useDraw.fpuEnd i fdp)) :
    s.FpuLeaves i fdp fun g => s.fpu.Compares g r pops :=
  State.fpuEnd_gives h (by simp) (by simp) fun _ data codes => (s.fpu.compared_compares r hp).congr data codes

/-- The comparison of two registers, or of one with a constant. -/
theorem State.cmpReg_leaves {ordered : Bool} {a b : Opnd} {empty : Bool} (hp : pops ≤ 2)
    (h : exec i s = finish (s.fpuReg i (s.fpu.compared
      (if empty then s.fpu.underflow CmpCodes.unordered else fcompare s.fpu.ctl ordered a b) pops))) :
    s.FpuLeaves i none fun g => s.fpu.Compares g (comparison ordered a b empty) pops := by
  rw [s.fpu.compareOrFault_eq] at h
  exact State.compared_leaves hp h

/-- The comparison with a memory operand, which is read, or no use is made of it. -/
theorem State.cmpMem_leaves {m : Mem} {n : Nat} {load : Nat → Opnd} (hp : pops ≤ 2)
    (h : exec i s = finish (s.fpuCmpMem i m n load pops)) (backed : s.Backed (s.memAddr i.prefixes m) n) :
    s.FpuLeaves i (some (s.memAddr i.prefixes m)) fun g => s.fpu.Compares g
      (comparison true (.reg (s.fpu.st 0)) (load (s.bytesAt (s.memAddr i.prefixes m) n)) (s.fpu.isEmpty 0)) pops := by
  have reads (f : Fpu) : (s.setFpu f).readMemN i.prefixes m n = .ok (s.bytesAt (s.memAddr i.prefixes m) n) :=
    ((s.setFpu f).linRead_backed _ _ backed).trans
      (congrArg Except.ok (State.bytesAt_congr (s := s) (t := s.setFpu f) rfl rfl _ _))
  refine State.compared_leaves hp (h.trans (congrArg finish ?_))
  rw [← s.fpu.compareOrFault_eq, State.fpuCmpMem]
  split
  · next empty =>
    dsimp only
    rw [reads]
    exact ite_self _
  · next empty => exact congrArg (· >>= _) (reads s.fpu)

end Comparisons

/-- FXAM writes the four codes and nothing else. -/
theorem State.fxam_leaves (s : State) (p : Prefixes) : s.FpuLeaves (.fxam p) none fun g =>
    s.fpu.KeepsStack g ∧ s.fpu.Flagged g 0 (s.fpu.st 0).neg ∧ g.codes = examCodes (s.fpu.isEmpty 0) (s.fpu.st 0) := by
  have flagged : s.fpu.Flagged (s.fpu.setC1 (s.fpu.st 0).neg) 0 (s.fpu.st 0).neg := s.fpu.flagged_zero rfl rfl
  have keeps : s.fpu.KeepsStack (s.fpu.setC1 (s.fpu.st 0).neg) := ⟨rfl, rfl, fun _ => ⟨rfl, rfl⟩⟩
  refine State.fpuEnd_gives (i := .fxam p) rfl rfl rfl fun u data codes =>
    ⟨Fpu.StackIs.congr data keeps, Fpu.Flagged.congr data ?_, ?_⟩
  · exact flagged.of_same rfl rfl
  · rw [codes]
    rfl

/-- Settles O41: each comparison has one result, which a mask bit decides, and FXAM only writes codes. -/
theorem fpuCompareResult : Obligations.FpuCompareResult := by
  intro p s f relation done withSt
  have regs {i : Instr} {ordered : Bool} {a b : Opnd} {empty : Bool} {pops : Nat} (hp : pops ≤ 2)
      (h : exec i s = finish (s.fpuReg i (s.fpu.compared
        (if empty then s.fpu.underflow CmpCodes.unordered else fcompare s.fpu.ctl ordered a b) pops))) :
      done i none (relation ordered a b empty) pops := State.cmpReg_leaves hp h
  have mem {i : Instr} {m : Mem} {n : Nat} {load : Nat → Opnd} {pops : Nat} (hp : pops ≤ 2) (hi : i.prefixes = p)
      (h : exec i s = finish (s.fpuCmpMem i m n load pops)) (backed : s.Backed (s.memAddr p m) n) :
      done i (some (s.memAddr p m))
        (relation true (.reg (f.st 0)) (load (s.bytesAt (s.memAddr p m) n)) (f.isEmpty 0)) pops := by
    subst hi
    exact State.cmpMem_leaves hp h backed
  refine ⟨fun k => ⟨regs (by decide) rfl, regs (by decide) rfl, regs (by decide) rfl, regs (by decide) rfl⟩,
    regs (by decide) rfl, regs (by decide) rfl, regs (by decide) rfl, ?_, s.fxam_leaves p⟩
  intro m a withMem
  exact ⟨fun b => ⟨mem (by decide) rfl rfl b, mem (by decide) rfl rfl b⟩,
    fun b => ⟨mem (by decide) rfl rfl b, mem (by decide) rfl rfl b⟩,
    fun b => ⟨mem (load := loadIntOpnd 2) (by decide) rfl rfl b, mem (load := loadIntOpnd 2) (by decide) rfl rfl b⟩,
    fun b => ⟨mem (load := loadIntOpnd 4) (by decide) rfl rfl b, mem (load := loadIntOpnd 4) (by decide) rfl rfl b⟩⟩

end Sys2Proof.Machine
end

section
/-! The transcendental instructions with every exception masked (48_fpu_compare_trans_control.md R651 to R658, O42): each as it is
under any masks (O45, O46), where no exception stops it. -/

namespace Sys2Proof.Machine

/-! ### The one result of an operand that is no finite number -/

/-- The result of a trigonometric instruction for an infinity, a NaN or an unsupported operand. -/
def NotFiniteGives (c : FCtl) (x : F80) (r : FRes F80) : Prop :=
  if x.cls = .infinity then r = invalidGives c F80.indefinite else NanGives c x F80.one r

/-- Of the operands x and 1 at most x is a NaN, so that the result is determined. -/
theorem NanGives.unique {c : FCtl} {x : F80} {r r' : FRes F80} (h : NanGives c x F80.one r) (h' : NanGives c x F80.one r') :
    r = r' := by
  obtain ⟨exc, c1, value⟩ := h
  obtain ⟨exc', c1', value'⟩ := h'
  have res : r.res = r'.res := by
    split_ifs at value value'
    · exact value.trans value'.symm
    · exact value.trans value'.symm
    · obtain ⟨v, hv, nan⟩ := value
      obtain ⟨v', hv', nan'⟩ := value'
      rw [NanResult, if_pos (by decide)] at nan nan'
      rw [hv, hv', nan, nan']
  cases r
  cases r'
  simp_all

namespace NotFiniteGives

variable {c : FCtl} {x : F80} {r r' : FRes F80} (h : NotFiniteGives c x r)
include h

theorem unique (h' : NotFiniteGives c x r') : r = r' := by
  unfold NotFiniteGives at h h'
  split_ifs at h h'
  · exact h.trans h'.symm
  · exact h.unique h'

theorem c1_eq : r.c1 = false := by
  unfold NotFiniteGives at h
  split_ifs at h
  · rw [h]
    rfl
  · obtain ⟨-, c1, -⟩ := h
    exact c1

theorem isSome (masked : c.Masked) : r.res.isSome = true := by
  unfold NotFiniteGives at h
  split_ifs at h
  · rw [h, invalidGives, masked.im]
    rfl
  · exact h.isSome masked

end NotFiniteGives

/-! ### FSINCOS, FPTAN and FXTRACT -/

namespace Fpu

variable {f g : Fpu}

theorem PairFault.replacedPushed (masked : f.Masked) (fault : f.PairFault g) :
    f.ReplacedPushed g F80.indefinite F80.indefinite ∧ f.Flagged g 0x41 (decide (f.isEmpty 7 = false)) := by
  rw [PairFault, masked.ctl.im, if_pos rfl] at fault
  obtain ⟨flagged, stack⟩ := fault
  rw [Bool.decide_eq_false]
  exact ⟨stack, flagged⟩

theorem GivesExtract.fault (h : f.GivesExtract g) (noRoom : f.NoRoom) : f.PairFault g := by
  rwa [GivesExtract, if_pos noRoom] at h

/-- Two results that are both there. -/
theorem GivesTwo.pushed {a b : FRes F80} {u v : F80} (two : f.GivesTwo g a b) (hu : a.res = some u) (hv : b.res = some v) :
    f.ReplacedPushed g u v ∧ f.Flagged g (a.exc ||| b.exc) b.c1 := by
  obtain ⟨flagged, stack⟩ := two
  rw [hu, hv] at stack
  exact ⟨stack, flagged⟩

end Fpu

namespace State.GivesPair

variable {s : State} {op : F80 → Calc} {second : FRes F80} {g : Fpu} (h : s.GivesPair op second g)
include h

theorem fault (noRoom : s.fpu.NoRoom) : s.fpu.PairFault g := by
  rwa [State.GivesPair, if_pos noRoom] at h

theorem beyond (room : ¬ s.fpu.NoRoom) (huge : (s.fpu.st 0).Finite ∧ 2 ^ 63 ≤ |(s.fpu.st 0).rat|) :
    s.fpu.KeepsStack g ∧ s.fpu.Flagged g 0 s.fpu.status.c1 ∧ g.codes.c2 = true := by
  rw [State.GivesPair, if_neg room, if_pos huge] at h
  obtain ⟨flagged, keeps, c2⟩ := h
  exact ⟨keeps, flagged, c2⟩

variable (room : ¬ s.fpu.NoRoom) (small : ¬ ((s.fpu.st 0).Finite ∧ 2 ^ 63 ≤ |(s.fpu.st 0).rat|))
include room small

theorem finite (fin : (s.fpu.st 0).Finite) :
    s.fpu.GivesTwo g (arith1 s.fpu.ctl s.drawn 64 op (s.fpu.st 0)) second ∧ ((s.fpu.st 0).Numeric → g.codes.c2 = false) := by
  rw [State.GivesPair, if_neg room, if_neg small] at h
  obtain ⟨a, b, results, two, c2⟩ := h
  obtain ⟨rfl, rfl⟩ := (if_pos fin).mp results
  exact ⟨two, c2⟩

theorem notFinite (fin : ¬ (s.fpu.st 0).Finite) {r : FRes F80} (hr : NotFiniteGives s.fpu.ctl (s.fpu.st 0) r) :
    s.fpu.GivesTwo g r r ∧ ((s.fpu.st 0).Numeric → g.codes.c2 = false) := by
  rw [State.GivesPair, if_neg room, if_neg small] at h
  obtain ⟨a, b, results, two, c2⟩ := h
  obtain ⟨rfl, gives⟩ := (if_neg fin).mp results
  rw [hr.unique gives]
  exact ⟨two, c2⟩

end State.GivesPair

theorem State.fsincos_leaves (s : State) (p : Prefixes) : s.FpuLeaves (.fsincos p) none
    (s.GivesPair sinCalc (arith1 s.fpu.ctl (drawSecond s.drawn) 64 cosCalc (s.fpu.st 0))) :=
  State.sinCosTwo_leaves (push := arith1 s.fpu.ctl (drawSecond s.drawn) 64 cosCalc) rfl fun _ h => (trigCalc_inf h).1

/-- What FPTAN pushes: 1.0, with the flags and C1 of the tangent (R654). -/
def oneBeside (r : FRes F80) : FRes F80 := { r with res := r.res.map fun _ => F80.one }

theorem State.fptan_leaves (s : State) (p : Prefixes) : s.FpuLeaves (.fptan p) none
    (s.GivesPair tanCalc (oneBeside (arith1 s.fpu.ctl s.drawn 64 tanCalc (s.fpu.st 0)))) :=
  State.sinCosTwo_leaves (push := fun x => oneBeside (arith1 s.fpu.ctl s.drawn 64 tanCalc x)) rfl
    fun _ h => (trigCalc_inf h).2.2

/-- With every exception masked an instruction commits, with memory as it is and an FPU of which `R` holds. -/
theorem State.FpuLeaves.commitsWith {s : State} {i : Instr} {fdp : Option Nat} {Q : Fpu → Prop} (R : Fpu → Prop)
    (h : s.FpuLeaves i fdp Q) (masked : s.fpu.Masked) (hQ : ∀ g, Q g → R g) :
    ∃ t, (exec i s = .next t ∧ s.FpuCommits t i fdp ∧ t.mem = s.mem) ∧ R t.fpu := by
  obtain ⟨t, runs, ends, mem, leaves⟩ := h.commits masked
  exact ⟨t, ⟨runs, ends, mem⟩, hQ _ leaves⟩

/-- Settles O42: what each instruction leaves under any masks, with its results there. -/
theorem fpuTranscendentalResult : Obligations.FpuTranscendentalResult := by
  intro p s masked
  rw [← stackFault_masked masked.ctl F80.indefinite]
  intro f x one two commits beyond takes pair isHuge cosine
  have huge_iff : isHuge ↔ f.isEmpty 0 = false ∧ x.huge = true := by rw [x.huge_iff]
  have noFault (present : f.isEmpty 0 = false) (room : f.isEmpty 7 = true) : ¬ f.NoRoom :=
    not_or.mpr ⟨by rw [present]; decide, by rw [room]; decide⟩
  have isOne (op : F80 → Calc) : (arith1 f.ctl s.drawn 64 op x).res.isSome = true := arith1_isSome masked.ctl _ _ _ _
  have beyondOf {i : Instr} {Q : Fpu → Prop} (h : s.FpuLeaves i none Q)
      (hQ : ∀ g, Q g → f.KeepsStack g ∧ f.Flagged g 0 f.status.c1 ∧ g.codes.c2 = true) : beyond i :=
    h.commitsWith _ masked hQ
  have takesOf {i : Instr} {op : F80 → Calc} (h : s.FpuLeaves i none fun g =>
      f.Gives g (one op) 0 false ∧ (f.isEmpty 0 = false → x.Numeric → g.codes.c2 = false)) : takes i op :=
    h.commitsWith (fun g => f.Takes g (one op) 0 false ∧ (f.isEmpty 0 = false → x.Numeric → g.codes.c2 = false)) masked
      fun _ ⟨gives, c2⟩ => ⟨gives.takes (ite_fault_isSome masked.ctl (isOne op) _), c2⟩
  have faulted {i : Instr} {Q : Fpu → Prop} (h : s.FpuLeaves i none Q) (hQ : ∀ g, Q g → f.PairFault g) :=
    h.commitsWith _ masked fun g hg => (hQ g hg).replacedPushed masked
  have pairOf {i : Instr} {Q : Fpu → Prop} (h : s.FpuLeaves i none Q) {a b : FRes F80} {u v : F80}
      (hu : a.res = some u) (hv : b.res = some v)
      (hQ : ∀ g, Q g → f.GivesTwo g a b ∧ (x.Numeric → g.codes.c2 = false)) : pair i u v (a.exc ||| b.exc) b.c1 := by
    obtain ⟨t, ends, gives, c2⟩ := h.commitsWith _ masked hQ
    obtain ⟨stack, flagged⟩ := gives.pushed hu hv
    exact ⟨t, ends, stack, flagged, fun _ _ => c2⟩
  have replaced {i : Instr} {r : FRes F80} {k : BitVec 3} {pops : Bool} (h : s.FpuLeaves i none fun g => f.Gives g r k pops)
      (hr : r.res.isSome = true) := h.commitsWith (fun g => f.Takes g r k pops) masked fun _ gives => gives.takes hr
  have popped {i : Instr} {op : F80 → F80 → Calc} (h : s.FpuLeaves i none fun g => f.Gives g (two op) 1 true) :
      ∃ t, commits i t ∧ f.Takes t.fpu (two op) 1 true := replaced h (State.result_isSome masked _ _ _ _ _)
  refine ⟨fun huge => ?_, fun huge room => ?_, fun small => ?_, fun noRoom => ?_, fun small present room => ?_,
    replaced (s.f2xm1_takes p) (ite_fault_isSome masked.ctl (isOne _) _), popped (State.fpuYx_takes rfl),
    popped (State.fpuYx_takes rfl), popped (State.fpuYx_takes rfl)⟩
  · obtain ⟨h0, hh⟩ := huge_iff.mp huge
    exact ⟨beyondOf (State.sinCos_huge (op := sinCalc) rfl h0 hh) fun _ => and_left_comm.mp,
      beyondOf (State.sinCos_huge (op := cosCalc) rfl h0 hh) fun _ => and_left_comm.mp⟩
  · obtain ⟨present, huge⟩ := huge
    exact ⟨beyondOf (s.fsincos_leaves p) fun _ h => h.beyond (noFault present room) huge,
      beyondOf (s.fptan_leaves p) fun _ h => h.beyond (noFault present room) huge⟩
  · have small := mt huge_iff.mpr small
    exact ⟨takesOf (State.sinCos_gives (op := sinCalc) rfl small), takesOf (State.sinCos_gives (op := cosCalc) rfl small)⟩
  · simp only [List.forall_mem_cons]
    exact ⟨faulted (s.fsincos_leaves p) fun _ h => h.fault noRoom, faulted (s.fptan_leaves p) fun _ h => h.fault noRoom,
      faulted (s.fxtract_leaves p) fun _ h => h.fault noRoom, List.forall_mem_nil _⟩
  · have noFault := noFault present room
    have small : ¬ (x.Finite ∧ 2 ^ 63 ≤ |x.rat|) := fun huge => small ⟨present, huge⟩
    refine ⟨fun fin => ?_, fun fin => ?_⟩
    · obtain ⟨u, hu⟩ := Option.isSome_iff_exists.mp (isOne sinCalc)
      obtain ⟨v, hv⟩ := Option.isSome_iff_exists.mp (arith1_isSome masked.ctl (drawSecond s.drawn) 64 cosCalc x)
      obtain ⟨w, hw⟩ := Option.isSome_iff_exists.mp (isOne tanCalc)
      have tan : pair (.fptan p) w F80.one _ _ := pairOf (s.fptan_leaves p) hw (congrArg (Option.map fun _ => F80.one) hw)
        fun _ h => h.finite noFault small fin
      rw [oneBeside, BitVec.or_self] at tan
      have present (op : F80 → Calc) : one op = arith1 f.ctl s.drawn 64 op x := if_neg (by rw [present]; decide)
      rw [present, present]
      exact ⟨⟨u, v, hu, hv, pairOf (s.fsincos_leaves p) hu hv fun _ h => h.finite noFault small fin⟩, w, hw, tan⟩
    · obtain ⟨r, hr⟩ : ∃ r, NotFiniteGives f.ctl x r :=
        ⟨_, arith1_not_finite f.ctl s.drawn 64 fin fun e => (trigCalc_inf e).1⟩
      obtain ⟨v, hv⟩ := Option.isSome_iff_exists.mp (hr.isSome masked.ctl)
      have both {i : Instr} {op : F80 → Calc} {second : FRes F80} (h : s.FpuLeaves i none (s.GivesPair op second)) :
          pair i v v r.exc false := by
        have := pairOf h hv hv fun _ h => h.notFinite noFault small fin hr
        rwa [BitVec.or_self, hr.c1_eq] at this
      exact ⟨r, v, hv, hr, both (s.fsincos_leaves p), both (s.fptan_leaves p)⟩

end Sys2Proof.Machine
end

section
/-! Numbers in memory by their parts: a range of the bytes that hold a number, and the fields of a packed number
(20_memory.md R105, 48_fpu_compare_trans_control.md R680). -/

namespace Sys2Proof.Machine

/-! ### Parts of a number -/

theorem pow_256 (w : Nat) : 256 ^ w = 2 ^ (8 * w) := by rw [Nat.pow_mul]

/-- Byte i of a number is one of its low bytes. -/
theorem byte_mod (v : Nat) {i n : Nat} (h : i < n) : BitVec.ofNat 8 (v % 256 ^ n / 256 ^ i) = BitVec.ofNat 8 (v / 256 ^ i) := by
  have low (u : Nat) : u / 256 ^ i % 256 = u % (256 ^ i * 256) / 256 ^ i := (Nat.mod_mul_right_div_self u _ _).symm
  have dvd : 256 ^ i * 256 ∣ 256 ^ n := Nat.pow_dvd_pow 256 h
  apply BitVec.eq_of_toNat_eq
  rw [BitVec.toNat_ofNat, BitVec.toNat_ofNat]
  exact (low _).trans (by rw [Nat.mod_mod_of_dvd _ dvd, ← low])

section Parts

variable {t : State} {a k m n v : Nat}

theorem State.Holds.part (h : t.Holds a n v) (hk : k + m ≤ n) : t.Holds (a + k) m (v / 256 ^ k) := fun i hi => by
  rw [Nat.add_assoc, Nat.div_div_eq_div_mul, ← Nat.pow_add]
  exact h (k + i) (by omega)

/-- The low bytes of a number, which are those of another. -/
theorem State.Holds.low {w : Nat} (h : t.Holds a n v) (hm : m ≤ n) (e : v % 256 ^ m = w % 256 ^ m) : t.Holds a m w :=
  fun i hi => by rw [h i (Nat.lt_of_lt_of_le hi hm), ← byte_mod v hi, e, byte_mod w hi]

theorem State.bytesAt_part (s : State) (a : Nat) (hk : k + m ≤ n) :
    s.bytesAt a n / 256 ^ k % 256 ^ m = s.bytesAt (a + k) m := by
  obtain ⟨r, rfl⟩ := Nat.exists_eq_add_of_le hk
  rw [Nat.add_assoc, s.bytesAt_add a k, Nat.add_mul_div_left _ _ (by positivity), Nat.div_eq_of_lt (s.bytesAt_lt a k),
    Nat.zero_add, s.bytesAt_add (a + k) m, Nat.add_mul_mod_self_left, Nat.mod_eq_of_lt (s.bytesAt_lt _ m)]

theorem State.bytesAt_mod (s : State) (a : Nat) (hm : m ≤ n) : s.bytesAt a n % 256 ^ m = s.bytesAt a m := by
  simpa using s.bytesAt_part (k := 0) a ((Nat.zero_add m).symm ▸ hm)

end Parts

/-! ### Packed fields -/

section Fields

variable {t : State} {a w : Nat} {l : List Nat}

/-- Fields that fit make a number that fits. -/
theorem packFields_lt {n : Nat} (small : ∀ v ∈ l, v < 2 ^ n) : packFields n l < 2 ^ (n * l.length) := by
  induction l with
  | nil => exact Nat.one_pos
  | cons v rest ih =>
    obtain ⟨hv, hrest⟩ := List.forall_mem_cons.mp small
    have := ih hrest
    rw [packFields, List.length_cons, Nat.mul_succ, Nat.pow_add]
    calc v + 2 ^ n * packFields n rest < 2 ^ n * (packFields n rest + 1) := by rw [Nat.mul_succ]; omega
      _ ≤ 2 ^ n * 2 ^ (n * rest.length) := Nat.mul_le_mul_left _ this
      _ = 2 ^ (n * rest.length) * 2 ^ n := Nat.mul_comm _ _

/-- A number that is stored above another. -/
theorem State.Holds.split {m n u v : Nat} (h : t.Holds a (m + n) (u + 2 ^ (8 * m) * v)) (hu : u < 2 ^ (8 * m)) :
    t.Holds a m u ∧ t.Holds (a + m) n v := by
  have upper := h.part (k := m) (m := n) le_rfl
  rw [pow_256, Nat.add_mul_div_left _ _ (Nat.two_pow_pos _), Nat.div_eq_of_lt hu, Nat.zero_add] at upper
  exact ⟨h.low (Nat.le_add_right m n) (by rw [pow_256, Nat.add_mul_mod_self_left]), upper⟩

/-- Each of the fields is where its place in the list says. -/
theorem State.Holds.field (h : t.Holds a (w * l.length) (packFields (8 * w) l)) (small : ∀ v ∈ l, v < 2 ^ (8 * w)) {k : Nat}
    (hk : k < l.length) : t.Holds (a + w * k) w l[k] := by
  induction l generalizing a k with
  | nil => exact absurd hk (Nat.not_lt_zero k)
  | cons v rest ih =>
    obtain ⟨hv, hrest⟩ := List.forall_mem_cons.mp small
    rw [List.length_cons, Nat.mul_succ, Nat.add_comm] at h
    obtain ⟨first, others⟩ := h.split hv
    cases k with
    | zero => exact first
    | succ k =>
      have := ih others hrest (Nat.lt_of_succ_lt_succ hk)
      rwa [Nat.add_assoc, Nat.add_comm w, ← Nat.mul_succ] at this

/-- A field of a number in memory. -/
theorem State.fieldOf_bytesAt (s : State) (a : Nat) {w k n : Nat} (hk : k * w + w ≤ n) :
    fieldOf (8 * w) (s.bytesAt a n) k = s.bytesAt (a + k * w) w := by
  rw [fieldOf, Nat.mul_assoc, Nat.mul_comm w, ← pow_256, ← pow_256, s.bytesAt_part a hk]

end Fields

end Sys2Proof.Machine
end

section
/-! The FPU control instructions on words, environments and save areas (48_fpu_compare_trans_control.md R680 to R689, O43). -/

namespace Sys2Proof.Machine

/-! ### The status word -/

/-- ES and B are bits 7 and 15 of SW. -/
theorem FpuStatus.image_flags (w : FpuStatus) (es b : Bool) :
    ({ w with es := es, b := b } : FpuStatus).image &&& 0x7F7F = w.image &&& 0x7F7F := by
  apply BitVec.eq_of_getLsbD_eq
  intro i hi
  simp only [FpuStatus.image, BitVec.getLsbD_and, BitVec.getLsbD_append, BitVec.getLsbD_ofBool]
  interval_cases i <;> simp

theorem Fpu.summary_sw (f : Fpu) : f.summary.sw &&& 0x7F7F = f.sw &&& 0x7F7F := f.status.image_flags f.es f.es

/-! ### The tag word -/

theorem Fpu.tag_le (f : Fpu) (k : Fin 8) : f.tag k ≤ 3 := by
  unfold Fpu.tag
  split
  · exact le_rfl
  · split <;> decide

theorem Fpu.tw_lt (f : Fpu) : f.tw < 2 ^ 16 := by
  have tag := f.tag_le
  have := tag 0; have := tag 1; have := tag 2; have := tag 3; have := tag 4; have := tag 5; have := tag 6; have := tag 7
  rw [Fpu.tw]
  omega

theorem twEmptyBit_getLsbD (tw : Nat) {j : Nat} (hj : j < 8) (k : Nat) :
    (twEmptyBit tw j).getLsbD k = decide (j = k ∧ tw / 4 ^ k % 4 = 3) := by
  unfold twEmptyBit
  split
  · next e =>
    rw [← BitVec.twoPow_eq, BitVec.getLsbD_twoPow, decide_eq_true hj, Bool.true_and, decide_eq_decide]
    exact ⟨fun same => ⟨same, same ▸ e⟩, And.left⟩
  · next e =>
    exact BitVec.getLsbD_zero.trans (decide_eq_false fun ⟨same, empty⟩ => e (same ▸ empty)).symm

/-- Register R[k] is empty where the loaded tag says so. -/
theorem emptyOfTw_getLsbD (tw : Nat) {k : Nat} (hk : k < 8) : (emptyOfTw tw).getLsbD k = decide (tw / 4 ^ k % 4 = 3) := by
  have bit (j : Nat) (hj : j < 8) := twEmptyBit_getLsbD tw hj k
  simp only [emptyOfTw, BitVec.getLsbD_or, bit 0 (by decide), bit 1 (by decide), bit 2 (by decide), bit 3 (by decide),
    bit 4 (by decide), bit 5 (by decide), bit 6 (by decide), bit 7 (by decide)]
  interval_cases k <;> simp

/-! ### The environment -/

/-- The bytes of a field of the environment. -/
abbrev envField (os32 : Bool) : Nat := if os32 then 4 else 2

/-- The fields of the environment as it is stored, with the draw `d` in the reserved bits. -/
def Fpu.envFields (f : Fpu) (os32 : Bool) (d : Nat) : List Nat :=
  let fip := f.fip.toNat
  let fdp := f.fdp.toNat
  if os32 then
    [f.cw.toNat + 2 ^ 16 * reserved d 0, f.sw.toNat + 2 ^ 16 * reserved d 1, f.tw + 2 ^ 16 * reserved d 2,
     fip % 2 ^ 16 + 2 ^ 16 * reserved d 3, f.fop.toNat + 2 ^ 12 * (fip / 2 ^ 16),
     fdp % 2 ^ 16 + 2 ^ 16 * reserved d 4, 2 ^ 12 * (fdp / 2 ^ 16)]
  else
    [f.cw.toNat, f.sw.toNat, f.tw, fip % 2 ^ 16, f.fop.toNat + 2 ^ 12 * (fip / 2 ^ 16 % 16), fdp % 2 ^ 16,
     2 ^ 12 * (fdp / 2 ^ 16 % 16)]

theorem Fpu.env_eq (f : Fpu) (os32 : Bool) (d : Nat) : f.env os32 d = packFields (8 * envField os32) (f.envFields os32 d) := by
  cases os32 <;> rfl

theorem Fpu.envFields_length (f : Fpu) (os32 : Bool) (d : Nat) : envField os32 * (f.envFields os32 d).length = envSize os32 := by
  cases os32 <;> rfl

theorem Fpu.envFields_small (f : Fpu) (os32 : Bool) (d : Nat) : ∀ v ∈ f.envFields os32 d, v < 2 ^ (8 * envField os32) := by
  have draw (k : Nat) : reserved d k < 2 ^ 16 := Nat.mod_lt _ (by decide)
  have := draw 0; have := draw 1; have := draw 2; have := draw 3; have := draw 4
  have := f.cw.isLt; have := f.sw.isLt; have := f.tw_lt; have := f.fip.isLt; have := f.fdp.isLt; have := f.fop.isLt
  cases os32 with
  | true =>
    show ∀ v ∈ f.envFields true d, v < 2 ^ 32
    simp only [Fpu.envFields, if_true, List.forall_mem_cons]
    refine ⟨?_, ?_, ?_, ?_, ?_, ?_, ?_, List.forall_mem_nil _⟩ <;> omega
  | false =>
    show ∀ v ∈ f.envFields false d, v < 2 ^ 16
    simp only [Fpu.envFields, Bool.false_eq_true, if_false, List.forall_mem_cons]
    refine ⟨?_, ?_, ?_, ?_, ?_, ?_, ?_, List.forall_mem_nil _⟩ <;> omega

theorem Fpu.env_lt (f : Fpu) (os32 : Bool) (d : Nat) : f.env os32 d < 2 ^ (8 * envSize os32) := by
  rw [f.env_eq, ← f.envFields_length os32 d, ← Nat.mul_assoc]
  exact packFields_lt (f.envFields_small os32 d)

/-- Memory at `a` holds the environment of `f` (R680). -/
def State.HoldsEnv (t : State) (f : Fpu) (os32 : Bool) (a : Nat) : Prop :=
  let c := envField os32
  t.Holds a 2 f.cw.toNat ∧ t.Holds (a + c) 2 f.sw.toNat ∧ t.Holds (a + 2 * c) 2 f.tw ∧
  t.Holds (a + 3 * c) 2 f.fip.toNat ∧ t.Holds (a + 5 * c) 2 f.fdp.toNat ∧
  (if os32 then t.Holds (a + 16) 4 (f.fop.toNat + 4096 * (f.fip.toNat / 65536)) ∧
      t.Holds (a + 24) 4 (4096 * (f.fdp.toNat / 65536))
    else t.Holds (a + 8) 2 (f.fop.toNat + 4096 * (f.fip.toNat / 65536 % 16)) ∧
      t.Holds (a + 12) 2 (4096 * (f.fdp.toNat / 65536 % 16)))

theorem State.Holds.env {t : State} {f : Fpu} {os32 : Bool} {a d : Nat} (h : t.Holds a (envSize os32) (f.env os32 d)) :
    t.HoldsEnv f os32 a := by
  rw [f.env_eq, ← f.envFields_length os32 d] at h
  have count : (f.envFields os32 d).length = 7 := by cases os32 <;> rfl
  have field (k : Nat) (hk : k < 7) := h.field (f.envFields_small os32 d) (count.symm ▸ hk)
  cases os32 with
  | true =>
    have low {k : Nat} (hk : k < 7) {v : Nat} (e : (f.envFields true d)[k] % 2 ^ 16 = v % 2 ^ 16) : t.Holds (a + 4 * k) 2 v :=
      (field k hk).low (by decide) e
    refine ⟨low (k := 0) (by decide) ?_, low (k := 1) (by decide) ?_, low (k := 2) (by decide) ?_, low (k := 3) (by decide) ?_,
      low (k := 5) (by decide) ?_, field 4 (by decide), field 6 (by decide)⟩
    all_goals exact (Nat.add_mul_mod_self_left _ _ _).trans (by simp)
  | false =>
    have low {k : Nat} (hk : k < 7) {v : Nat} (e : (f.envFields false d)[k] % 2 ^ 16 = v % 2 ^ 16) : t.Holds (a + 2 * k) 2 v :=
      (field k hk).low (by decide) e
    exact ⟨field 0 (by decide), field 1 (by decide), field 2 (by decide), low (k := 3) (by decide) (Nat.mod_mod _ _),
      low (k := 5) (by decide) (Nat.mod_mod _ _), field 4 (by decide), field 6 (by decide)⟩

/-- `g` has the environment that memory holds at `a` (R686). -/
def State.EnvLoaded (s : State) (g : Fpu) (os32 : Bool) (a : Nat) : Prop :=
  let c := envField os32
  g.cw = forceCw (BitVec.ofNat 16 (s.bytesAt a 2)) ∧
  g.sw &&& 0x7F7F = BitVec.ofNat 16 (s.bytesAt (a + c) 2) &&& 0x7F7F ∧ g.Summed ∧
  (∀ k : BitVec 3, g.phEmpty k = decide (s.bytesAt (a + 2 * c) 2 / 4 ^ k.toNat % 4 = 3)) ∧
  (if os32 then
    g.fip.toNat = s.bytesAt (a + 12) 2 + 65536 * (s.bytesAt (a + 16) 4 / 4096 % 65536) ∧
    g.fop.toNat = s.bytesAt (a + 16) 4 % 2048 ∧
    g.fdp.toNat = s.bytesAt (a + 20) 2 + 65536 * (s.bytesAt (a + 24) 4 / 4096 % 65536)
  else
    g.fip.toNat = s.bytesAt (a + 6) 2 + 65536 * (s.bytesAt (a + 8) 2 / 4096) ∧
    g.fop.toNat = s.bytesAt (a + 8) 2 % 2048 ∧
    g.fdp.toNat = s.bytesAt (a + 10) 2 + 65536 * (s.bytesAt (a + 12) 2 / 4096))

theorem envHigh_lt (os32 : Bool) (v : Nat) : envHigh os32 v < 2 ^ 16 := by
  cases os32 with
  | true => exact Nat.mod_lt _ (by decide)
  | false => exact (Nat.mod_lt _ (by decide)).trans (by decide : 16 < 2 ^ 16)

theorem envHigh_short {v : Nat} (h : v < 65536) : envHigh false v = v / 4096 :=
  Nat.mod_eq_of_lt (Nat.div_lt_of_lt_mul h)

/-- The halves of a pointer. -/
theorem toNat_pointer {lo hi : Nat} (hlo : lo < 2 ^ 16) (hhi : hi < 2 ^ 16) :
    (BitVec.ofNat 32 (lo + 2 ^ 16 * hi)).toNat = lo + 65536 * hi := by
  rw [BitVec.toNat_ofNat]
  omega

theorem State.envLoaded_loadEnv (s : State) (f : Fpu) (os32 : Bool) (a : Nat) {n : Nat} (hn : envSize os32 ≤ n) :
    s.EnvLoaded (f.loadEnv os32 (s.bytesAt a n)) os32 a := by
  obtain ⟨w, hw⟩ : ∃ w, w = envField os32 := ⟨_, rfl⟩
  have two : 2 ≤ w := by rw [hw]; cases os32 <;> decide
  have bits : (if os32 then 32 else 16) = 8 * w := by rw [hw]; cases os32 <;> rfl
  have size : envSize os32 = 7 * w := by rw [hw]; cases os32 <;> rfl
  have field (k : Nat) (hk : k < 7) : fieldOf (if os32 then 32 else 16) (s.bytesAt a n) k = s.bytesAt (a + k * w) w := by
    rw [bits, s.fieldOf_bytesAt]
    have := Nat.mul_le_mul_right w hk
    rw [Nat.succ_mul] at this
    omega
  have low (x : Nat) : s.bytesAt x w % 2 ^ 16 = s.bytesAt x 2 := s.bytesAt_mod x two
  have word (x : Nat) : BitVec.ofNat 16 (s.bytesAt x w) = BitVec.ofNat 16 (s.bytesAt x 2) :=
    BitVec.eq_of_toNat_eq (by rw [BitVec.toNat_ofNat, BitVec.toNat_ofNat, ← low, Nat.mod_mod])
  have short (x : Nat) : s.bytesAt x 2 < 2 ^ 16 := s.bytesAt_lt x 2
  have pointer (x y : Nat) : (BitVec.ofNat 32 (s.bytesAt x w % 2 ^ 16 + 2 ^ 16 * envHigh os32 (s.bytesAt y w))).toNat =
      s.bytesAt x 2 + 65536 * envHigh os32 (s.bytesAt y w) := by
    rw [low, toNat_pointer (short x) (envHigh_lt _ _)]
  have fip : (f.loadEnv os32 (s.bytesAt a n)).fip.toNat =
      s.bytesAt (a + 3 * w) 2 + 65536 * envHigh os32 (s.bytesAt (a + 4 * w) w) := by
    rw [← pointer, ← field 3 (by decide), ← field 4 (by decide)]
    rfl
  have fdp : (f.loadEnv os32 (s.bytesAt a n)).fdp.toNat =
      s.bytesAt (a + 5 * w) 2 + 65536 * envHigh os32 (s.bytesAt (a + 6 * w) w) := by
    rw [← pointer, ← field 5 (by decide), ← field 6 (by decide)]
    rfl
  have fop : (f.loadEnv os32 (s.bytesAt a n)).fop.toNat = s.bytesAt (a + 4 * w) w % 2048 := by
    rw [← field 4 (by decide)]
    exact BitVec.toNat_ofNat _ _
  have first := field 0 (by decide)
  have second := field 1 (by decide)
  rw [Nat.zero_mul, Nat.add_zero] at first
  rw [Nat.one_mul] at second
  rw [State.EnvLoaded, ← hw]
  refine ⟨?_, ?_, Fpu.summary_summed _, fun k => ?_, ?_⟩
  · rw [← word, ← first]
    rfl
  · rw [← word, ← second]
    refine (Fpu.summary_sw _).trans (congrArg (· &&& 0x7F7F) ?_)
    exact FpuStatus.image_ofImage _
  · rw [← low, ← field 2 (by decide)]
    exact emptyOfTw_getLsbD _ k.isLt
  · subst hw
    cases os32 with
    | true => exact ⟨fip, fop, fdp⟩
    | false =>
      have high (x : Nat) : envHigh false (s.bytesAt x (envField false)) = s.bytesAt x 2 / 4096 := envHigh_short (short x)
      rw [high] at fip fdp
      exact ⟨fip, fop, fdp⟩

/-! ### The save area -/

theorem Fpu.setBits_st (f : Fpu) (i k : BitVec 3) (v : Nat) :
    (f.setBits i v).st k = if k = i then BitVec.ofNat 80 v else f.st k := by
  unfold Fpu.st
  simp only [Fpu.setBits, Vector.getElem_set]
  refine if_congr ⟨fun e => ?_, fun e => congrArg (fun j => (f.phys j).toNat) e.symm⟩ rfl rfl
  exact (add_left_cancel (BitVec.eq_of_toNat_eq e)).symm

/-- The registers are loaded from ST(0) on. -/
theorem Fpu.loadImage_st (f : Fpu) (v : Nat) (k : BitVec 3) :
    (f.loadImage v).st k = BitVec.ofNat 80 (fieldOf 80 v k.toNat) := by
  simp only [Fpu.loadImage, Fpu.setBits_st]
  obtain ⟨⟨k, hk⟩⟩ := k
  interval_cases k <;> rfl

theorem Fpu.image_eq (f : Fpu) : f.image = packFields 80 (List.ofFn fun k : Fin 8 => (f.st ⟨k⟩).toNat) := rfl

/-- The registers are stored from ST(0) on. -/
theorem State.Holds.image {t : State} {f : Fpu} {a : Nat} (h : t.Holds a 80 f.image) (k : BitVec 3) :
    t.Holds (a + 10 * k.toNat) 10 (f.st k).toNat := by
  rw [f.image_eq] at h
  have := h.field (w := 10) (List.forall_mem_ofFn_iff.mpr fun k => (f.st ⟨k⟩).isLt) (k := k.toNat) (by simp [k.isLt])
  rwa [List.getElem_ofFn] at this

/-! ### The obligation -/

section Stores

variable (s : State) (p : Prefixes) (m : Mem)

theorem State.useDraw_write_stores {n : Nat} (v : Nat) (backed : s.Backed (s.memAddr p m) n) (hn : n ≤ 2 ^ 20) :
    ∃ mem, s.useDraw.writeMemN p m n v = .ok { s.useDraw with mem := mem } ∧
      s.Stores { s.useDraw with mem := mem } (s.memAddr p m) n v :=
  s.useDraw.linWrite_stores (s.memAddr p m) n v backed hn

theorem execFldcw_eq (backed : s.Backed (s.memAddr p m) 2) : exec (.fldcw p m) s = .next (s.fpuControl
    { s.fpu with cw := forceCw (BitVec.ofNat 16 (s.bytesAt (s.memAddr p m) 2)) }.summary) := by
  show execFldcw p m s = _
  rw [execFldcw, State.readMemN, s.linRead_backed _ _ backed]
  rfl

/-- An instruction that stores a word and commits. -/
theorem State.writeWord_stores {i : Instr} {v : Nat} (backed : s.Backed (s.memAddr p m) 2)
    (h : exec i s = finish (s.writeMemN p m 2 v >>= fun t => .ok t.commit)) :
    ∃ mem, exec i s = .next ({ s with mem := mem } : State).commit ∧ s.Stores { s with mem := mem } (s.memAddr p m) 2 v := by
  obtain ⟨mem, writes, stores⟩ := s.linWrite_stores (s.memAddr p m) 2 v backed (by decide)
  refine ⟨mem, ?_, stores⟩
  rw [h, State.writeMemN, writes]
  rfl

theorem envSize_le (os32 : Bool) : envSize os32 + 80 ≤ 2 ^ 20 := by cases os32 <;> decide

theorem execFnstenv_eq (backed : s.Backed (s.memAddr p m) (envSize p.os32)) : ∃ mem, exec (.fnstenv p m) s =
    .next (({ s.useDraw with mem := mem } : State).fpuControl { s.fpu with cw := s.fpu.cw ||| 0x003F }.summary) ∧
      s.Stores { s with mem := mem } (s.memAddr p m) (envSize p.os32) (s.fpu.env p.os32 s.drawn) := by
  obtain ⟨mem, writes, stores⟩ := s.useDraw_write_stores p m (s.fpu.env p.os32 s.drawn) backed
    ((Nat.le_add_right _ 80).trans (envSize_le _))
  refine ⟨mem, ?_, stores⟩
  show execFnstenv p m s = _
  rw [execFnstenv, writes]
  rfl

theorem execFnsave_eq (backed : s.Backed (s.memAddr p m) (envSize p.os32 + 80)) : ∃ mem, exec (.fnsave p m) s =
    .next (({ s.useDraw with mem := mem } : State).fpuControl s.fpu.init) ∧
      s.Stores { s with mem := mem } (s.memAddr p m) (envSize p.os32 + 80)
        (s.fpu.env p.os32 s.drawn + 2 ^ (8 * envSize p.os32) * s.fpu.image) := by
  obtain ⟨mem, writes, stores⟩ := s.useDraw_write_stores p m
    (s.fpu.env p.os32 s.drawn + 2 ^ (8 * envSize p.os32) * s.fpu.image) backed (envSize_le _)
  refine ⟨mem, ?_, stores⟩
  show execFnsave p m s = _
  rw [execFnsave, writes]
  rfl

theorem execFldenv_eq (backed : s.Backed (s.memAddr p m) (envSize p.os32)) : exec (.fldenv p m) s =
    .next (s.fpuControl (s.fpu.loadEnv p.os32 (s.bytesAt (s.memAddr p m) (envSize p.os32)))) := by
  show execFldenv p m s = _
  rw [execFldenv, State.readMemN, s.linRead_backed _ _ backed]
  rfl

theorem execFrstor_eq (backed : s.Backed (s.memAddr p m) (envSize p.os32 + 80)) : exec (.frstor p m) s =
    .next (s.fpuControl ((s.fpu.loadEnv p.os32 (s.bytesAt (s.memAddr p m) (envSize p.os32 + 80))).loadImage
      (s.bytesAt (s.memAddr p m) (envSize p.os32 + 80) / 2 ^ (8 * envSize p.os32)))) := by
  show execFrstor p m s = _
  rw [execFrstor, State.readMemN, s.linRead_backed _ _ backed]
  rfl

/-- A register of the save area. -/
theorem State.fieldOf_image (a n : Nat) (k : BitVec 3) :
    fieldOf 80 (s.bytesAt a (n + 80) / 2 ^ (8 * n)) k.toNat = s.bytesAt (a + n + 10 * k.toNat) 10 := by
  have := k.isLt
  have ten : 2 ^ 80 = 256 ^ 10 := (pow_256 10).symm
  rw [fieldOf, ten, Nat.div_div_eq_div_mul, ← pow_256, show 80 * k.toNat = 8 * (10 * k.toNat) by omega, ← pow_256,
    ← Nat.pow_add, s.bytesAt_part a (by omega), Nat.add_assoc]

end Stores

/-- Settles O43: the words and the fields of an environment are ranges of what is stored and loaded. -/
theorem fpuControlResult : Obligations.FpuControlResult := by
  intro p s f n c commits initial image loads
  refine ⟨⟨_, rfl, rfl, rfl, FpuStatus.image_ofImage _, rfl⟩, ⟨_, rfl, rfl, rfl, rfl⟩,
    ⟨_, rfl, rfl, rfl, s.setR16_mem rAX f.sw, rfl⟩, fun m => ?_⟩
  intro a
  refine ⟨fun backed => ⟨?_, ?_, ?_⟩, fun backed => ⟨?_, ?_⟩, fun backed => ⟨?_, ?_⟩⟩
  · exact ⟨_, execFldcw_eq s p m backed, rfl, rfl, Fpu.summary_summed _, rfl, Fpu.summary_sw _⟩
  · obtain ⟨mem, runs, stores⟩ := s.writeWord_stores p m (i := .fnstcw p m) backed rfl
    exact ⟨_, runs, rfl, rfl, stores⟩
  · obtain ⟨mem, runs, stores⟩ := s.writeWord_stores p m (i := .fnstsw p (.m16 m)) backed rfl
    exact ⟨_, runs, rfl, rfl, stores⟩
  · obtain ⟨mem, runs, holds, outside⟩ := execFnstenv_eq s p m backed
    exact ⟨_, runs, rfl, holds.env, outside, Fpu.summary_summed _, rfl, Fpu.summary_sw _⟩
  · exact ⟨_, execFldenv_eq s p m backed, rfl, rfl, rfl, s.envLoaded_loadEnv f p.os32 a le_rfl⟩
  · obtain ⟨mem, runs, holds, outside⟩ := execFnsave_eq s p m backed
    obtain ⟨env, regs⟩ := holds.split (f.env_lt _ _)
    exact ⟨_, runs, rfl, env.env, outside, regs.image, rfl⟩
  · refine ⟨_, execFrstor_eq s p m backed, rfl, rfl, s.envLoaded_loadEnv f p.os32 a (Nat.le_add_right _ 80), fun k => ?_⟩
    rw [← s.fieldOf_image]
    exact Fpu.loadImage_st _ _ k

end Sys2Proof.Machine
end
